-- ==== Sys2Proof/Word.lean ====
section
/-! DEFINITION. The word types of the K3: what the manual treats as bits (00_scope.md R6, 08 R186, R188). -/

namespace Sys2Proof

/-- A byte of memory. -/
abbrev Byte := BitVec 8

/-- A scalar register, an address while it is computed, a CSR. -/
abbrev Word := BitVec 64

/-- The 1,024 bytes of a vector register or of a queue entry (R186). -/
abbrev VReg := BitVec 8192

/-- A predicate, a mask-stack entry or a special mask: bit r*32 + c is slot (r, c) (R188). -/
abbrev Mask := BitVec 1024

/-- A 5-bit register field of an instruction. -/
abbrev Reg := BitVec 5

/-- A 32-bit instruction word. -/
abbrev Word32 := BitVec 32

/-- A sparse table: what is not listed holds the table's reset value. -/
abbrev Tbl (α : Type) := List (Nat × α)

end Sys2Proof
end

