-- ==== Sys2Proof/Config.lean ====
section
/-! DEFINITION. What the manual leaves to an implementation or to a published standard that is not part of it: opaque
constants, of which nothing can be proved but that they exist (notes/assumptions). -/

namespace Sys2Proof
namespace Config

/-- The cycles that a load takes, within the range of its source (00 R4): the placement's own figure, added to the
lower end of the range. A function of the core, of the home slice or channel with the sector's position in its line, and of the source.
Log entry 4. -/
opaque latencyExtra : Nat → Nat → Nat → Nat

/-- The SM2 signature by the attestation key of one boot over a digest (01 R35). Log entry 5. -/
opaque sm2AttestSign : Nat → BitVec 256 → BitVec 512

/-- The SM2 signature by the device's identity key over a digest (01 R35). Log entry 5. -/
opaque sm2IdentitySign : BitVec 256 → BitVec 512

/-- The attestation public key of one boot: the affine coordinates of the point (01 R35). Log entry 5. -/
opaque attestationKey : Nat → BitVec 512

/-- The identity public key of the device (01 R35). Log entry 5. -/
opaque identityKey : BitVec 512

/-- Kwedrisyn's certificate of the identity key, X.509 v3 (01 R35). Log entry 5. -/
opaque identityCertificate : List (BitVec 8)

/-- The digest of the boot ROM, which its identity measurement extends (01 R31). Log entry 5. -/
opaque romDigest : BitVec 256

/-- The bytes of the feature profile whose layout the manual does not give (04 R99): the part and stepping, the vector geometry and queue
depths, and the Bench geometry. Log entry 5. -/
opaque profileByte : Nat → BitVec 8

/-- The number of this device among those that the haul links join (01 R23, 02 R39), which its identity entry holds. Log entry 5. -/
opaque deviceNumber : Nat

/-- The OBUs of one frame (02 R56): they depend on the surface bytes, the latched settings and the head's earlier
frames (R54), here the list of the earlier surfaces with their settings. Log entry 6. -/
opaque av1Frame : List (List (BitVec 8) × Nat) → List (BitVec 8) → Nat → List (BitVec 8)

/-- The order figure of a transcendental whose enclosure is still ambiguous at the model's deepest precision
(12 R313): the correctly rounded neighbour's choice. Log entry 8. -/
opaque roundUp : Nat → Nat → Bool

/-- Bytes of a recorded state that are in the implementation's own layout: the body of a cut image (11 R286) and
slots 1 to 15 of a hard-cut save (05 R119). Log entry 9. -/
opaque vendorLayout : Nat → Nat → BitVec 8

/-- The module's power as the power controllers report it does not follow from this manual; this is the share of DRAM
and of the I/O dies (01 R14 allows 460 W for them). Log entry 10. -/
opaque restPower : Nat → Nat

/-- A value that the manual leaves open, fresh for every use (notes/assumptions/2.md). -/
opaque freeValue : Nat → BitVec 64

end Config
end Sys2Proof
end

