-- ==== Sys2Proof/Machine/Mem.lean ====
section
/-! DEFINITION. Sparse tables and byte memories, and the byte-order and bit-field helpers that every meaning uses. -/

namespace Sys2Proof.Machine

/-- What a table holds at a key; dflt where it lists nothing. -/
def tblGet {α : Type} (dflt : α) : Tbl α → Nat → α
  | [], _ => dflt
  | (k, v) :: rest, i => if k = i then v else tblGet dflt rest i

/-- A table with one key set, kept in rising order of keys. -/
def tblSet {α : Type} : Tbl α → Nat → α → Tbl α
  | [], i, v => [(i, v)]
  | (k, w) :: rest, i, v =>
    if i < k then (i, v) :: (k, w) :: rest
    else if i = k then (i, v) :: rest
    else (k, w) :: tblSet rest i v

/-- A table without one key. -/
def tblDel {α : Type} (t : Tbl α) (i : Nat) : Tbl α := t.filter (fun e => e.1 ≠ i)

/-- The byte at an address; a byte that nothing has written reads 0 (notes/assumptions/1.md). -/
def memGet (m : List Host.Cell) (a : Nat) : Byte := tblGet 0 m a

/-- A memory with one byte written: writing the value that an unlisted address reads as removes the entry. -/
def memSet (m : List Host.Cell) (a : Nat) (b : Byte) : List Host.Cell :=
  if b = 0 then tblDel m a else tblSet m a b

/-- The canonical form: addresses strictly rising, and no entry that equals what an unlisted address reads as. -/
def memWfFrom : Option Nat → List Host.Cell → Bool
  | _, [] => true
  | lo, (a, b) :: rest =>
    (match lo with
      | none => true
      | some l => decide (l < a)) && decide (b ≠ 0) && memWfFrom (some a) rest

/-- The canonical form of a byte memory. -/
def Memory.wf (m : List Host.Cell) : Bool := memWfFrom none m

/-- Write a list of bytes from an address upwards. -/
def memWrite (m : List Host.Cell) (a : Nat) : List Byte → List Host.Cell
  | [] => m
  | b :: rest => memWrite (memSet m a b) (a + 1) rest

/-- Write each cell of a list. -/
def memWriteCells (m : List Host.Cell) : List Host.Cell → List Host.Cell
  | [] => m
  | (a, b) :: rest => memWriteCells (memSet m a b) rest

/-- The n bytes from an address upwards. -/
def memBytes (m : List Host.Cell) (a n : Nat) : List Byte :=
  (List.range n).map (fun i => memGet m (a + i))

/-- Bytes as a little-endian number (00 R6). -/
def leNat : List Byte → Nat
  | [] => 0
  | b :: rest => b.toNat + 256 * leNat rest

/-- The n low bytes of a number, least significant first (00 R6). -/
def leBytes : Nat → Nat → List Byte
  | 0, _ => []
  | n + 1, v => BitVec.ofNat 8 v :: leBytes n (v / 256)

/-- n bytes of a memory as a little-endian number. -/
def memRead (m : List Host.Cell) (a n : Nat) : Nat := leNat (memBytes m a n)

/-- The low `bits` bits of v read as a signed number and extended to 64 bits. -/
def sextW (bits : Nat) (v : Nat) : Word :=
  let m := v % 2 ^ bits
  if m < 2 ^ (bits - 1) then BitVec.ofNat 64 m else BitVec.ofNat 64 (m + (2 ^ 64 - 2 ^ bits))

/-- The low `bits` bits of v read as a signed integer. -/
def sintOf (bits : Nat) (v : Nat) : Int :=
  let m := v % 2 ^ bits
  if m < 2 ^ (bits - 1) then (m : Int) else (m : Int) - (2 ^ bits : Nat)

/-- An integer modulo 2^bits. -/
def wrapInt (bits : Nat) (v : Int) : Nat := (v % ((2 ^ bits : Nat) : Int)).toNat

/-- Bits [hi:lo] of a number. -/
def fld (v hi lo : Nat) : Nat := (v >>> lo) % 2 ^ (hi - lo + 1)

/-- v with bits [hi:lo] replaced. -/
def setFld (v hi lo x : Nat) : Nat :=
  v - (fld v hi lo) * 2 ^ lo + (x % 2 ^ (hi - lo + 1)) * 2 ^ lo

/-- Bits [hi:lo] of a word. -/
def wfld (v : Word) (hi lo : Nat) : Nat := fld v.toNat hi lo

/-- A word with bits [hi:lo] replaced. -/
def setWfld (v : Word) (hi lo x : Nat) : Word := BitVec.ofNat 64 (setFld v.toNat hi lo x)

/-- Bit i of a number. -/
def bitOf (v i : Nat) : Bool := v.testBit i

/-- 1 for true. -/
def natOf (b : Bool) : Nat := if b then 1 else 0

/-- The number of set bits among the low n. -/
def popCount (v n : Nat) : Nat := ((List.range n).filter (fun i => v.testBit i)).length

/-- A value of a list at an index, with a default. -/
def nth {α : Type} (dflt : α) (l : List α) (i : Nat) : α := (l[i]?).getD dflt

/-- Replace the element of a list at an index. -/
def setNth {α : Type} : List α → Nat → α → List α
  | [], _, _ => []
  | _ :: r, 0, v => v :: r
  | a :: r, i + 1, v => a :: setNth r i v

end Sys2Proof.Machine
end

