-- ==== Sys2Proof/Machine/Fp.lean ====
section
/-! DEFINITION. Number formats and exact arithmetic (12): the floating types, E4M3, E5M2 and L6, ROUND, the exactly rounded
operations, the conversions, and the correctly rounded transcendentals from integer enclosures. Format codes are those of
ty and of R327: 0 to 3 i8 to i64, 4 f16, 5 bf16, 6 f32, 7 f64, 8 L6, 9 E4M3, 10 E5M2. -/

namespace Sys2Proof.Machine

/-- A result with the flags it raises (bit 0 NX, 1 UF, 2 OF, 3 DZ, 4 NV) and whether it saturated. -/
structure FRes where
  bits : Nat
  flags : Nat := 0
  sat : Bool := false
deriving DecidableEq, Repr

/-- Flag values (12 R299). -/
def flagNX : Nat := 1
/-- UF. -/
def flagUF : Nat := 2
/-- OF. -/
def flagOF : Nat := 4
/-- DZ. -/
def flagDZ : Nat := 8
/-- NV. -/
def flagNV : Nat := 16

/-- Exponent bits of a floating format (12 R294). -/
def expBits : Nat → Nat
  | 4 => 5 | 5 => 8 | 6 => 8 | 7 => 11 | 9 => 4 | _ => 5

/-- Fraction bits of a floating format. -/
def fracBits : Nat → Nat
  | 4 => 10 | 5 => 7 | 6 => 23 | 7 => 52 | 9 => 3 | _ => 2

/-- Width in bytes of an element of a format. -/
def fmtBytes : Nat → Nat
  | 0 => 1 | 1 => 2 | 2 => 4 | 3 => 8 | 4 => 2 | 5 => 2 | 6 => 4 | 7 => 8 | _ => 1

/-- Whether a format code is a floating type, E4M3 and E5M2 included. -/
def isFloatFmt (c : Nat) : Bool := (4 ≤ c && c ≤ 7) || c = 9 || c = 10

/-- The sign bit's position. -/
def signPos (c : Nat) : Nat := expBits c + fracBits c

/-- The exponent bias. -/
def expBias (c : Nat) : Nat := 2 ^ (expBits c - 1) - 1

/-- The bits of the largest finite value. -/
def maxFinite (c : Nat) : Nat := if c = 9 then 0x7E else (2 ^ expBits c - 1) * 2 ^ fracBits c - 1

/-- The bits of plus infinity; for E4M3, which has none, the NaN that stands in its place (12 R297). -/
def infBits (c : Nat) : Nat := if c = 9 then 0x7F else (2 ^ expBits c - 1) * 2 ^ fracBits c

/-- The canonical NaN (12 R294, R296). -/
def canonNaN (c : Nat) : Nat := if c = 9 then 0x7F else infBits c + 2 ^ (fracBits c - 1)

/-- The exponent of the least subnormal. -/
def minExp (c : Nat) : Int := 1 - (expBias c : Int) - (fracBits c : Int)

/-- A decoded floating value: a finite one is m × 2^e with its sign. -/
inductive FVal where
  | nan (signalling : Bool)
  | inf (neg : Bool)
  | fin (neg : Bool) (m : Nat) (e : Int)
deriving DecidableEq, Repr

/-- Decode the bits of a floating value (12 R295). -/
def decodeF (c v : Nat) : FVal :=
  let neg := v.testBit (signPos c)
  let ef := fld v (signPos c - 1) (fracBits c)
  let f := v % 2 ^ fracBits c
  if c = 9 then
    if ef = 15 ∧ f = 7 then .nan false
    else if ef = 0 then .fin neg f (minExp c) else .fin neg (8 + f) (minExp c + (ef : Int) - 1)
  else if ef = 2 ^ expBits c - 1 then
    if f = 0 then .inf neg else .nan (c ≠ 10 && !f.testBit (fracBits c - 1))
  else if ef = 0 then .fin neg f (minExp c)
  else .fin neg (2 ^ fracBits c + f) (minExp c + (ef : Int) - 1)

/-- Whether a value is a signalling NaN. -/
def FVal.snan : FVal → Bool
  | .nan s => s
  | _ => false

/-- Whether a value is NaN. -/
def FVal.isNaN : FVal → Bool
  | .nan _ => true
  | _ => false

/-- The sign bit of a value. -/
def FVal.neg : FVal → Bool
  | .nan _ => false
  | .inf n => n
  | .fin n _ _ => n

/-- The number of bits of a magnitude. -/
def bitLen (m : Nat) : Nat := if m = 0 then 0 else Nat.log2 m + 1

/-- m × 2^e for a natural number, where the exponent is not negative. -/
def shl (m : Nat) (e : Int) : Nat := m * 2 ^ e.toNat

/-- Whether a rounding mode moves a magnitude n up, with the remainder rem of 2^k and a sticky rest below it. -/
def roundsUp (rm : Nat) (neg : Bool) (n rem half : Nat) (sticky : Bool) : Bool :=
  let inexact := rem ≠ 0 || sticky
  match rm with
  | 0 => rem > half || (rem = half && (sticky || n % 2 = 1))
  | 1 => false
  | 2 => neg && inexact
  | 3 => !neg && inexact
  | _ => rem ≥ half && inexact

/-- Round the magnitude m × 2^e (with something below it where sticky) to a multiple of 2^q: the count of 2^q, and whether
the value changed. -/
def roundAt (rm : Nat) (neg : Bool) (m : Nat) (e q : Int) (sticky : Bool) : Nat × Bool :=
  if q ≤ e then
    let n := shl m (e - q)
    (if roundsUp rm neg n 0 1 sticky ∧ sticky then n + 1 else n, sticky)
  else
    let k := (q - e).toNat
    let n := m / 2 ^ k
    let rem := m % 2 ^ k
    let half := 2 ^ (k - 1)
    (if roundsUp rm neg n rem half sticky then n + 1 else n, rem ≠ 0 || sticky)

/-- ROUND into a floating format (12 R297, R298): the value is m × 2^e with its sign; sticky says that the exact value lies
strictly between m and m + 1 of those units. -/
def roundF (c rm : Nat) (sat neg : Bool) (m : Nat) (e : Int) (sticky : Bool) : FRes :=
  let s := natOf neg * 2 ^ signPos c
  if m = 0 ∧ !sticky then { bits := s }
  else
    let top : Int := e + (bitLen m : Int) - 1
    let fb : Int := fracBits c
    let q := max (top - fb) (minExp c)
    let (n, nx) := roundAt rm neg m e q sticky
    let body := ((q - minExp c).toNat) * 2 ^ fracBits c + n
    let body := if q = minExp c then n else body
    let tiny := top < minExp c + fb
      && !(top = minExp c + fb - 1 && (roundAt rm neg m e (top - fb) sticky).1 = 2 ^ (fracBits c + 1))
    let nxf := if nx then flagNX else 0
    if body > maxFinite c then
      let toInf := rm = 0 || rm = 4 || (rm = 2 && neg) || (rm = 3 && !neg)
      if toInf ∧ !sat then { bits := s * natOf (c ≠ 9) + infBits c, flags := flagOF + flagNX }
      else { bits := s + maxFinite c, flags := flagOF + flagNX, sat := toInf }
    else { bits := s + body, flags := nxf + (if tiny ∧ nx then flagUF else 0) }

/-- The canonical NaN with NV where asked. -/
def nanRes (c : Nat) (nv : Bool) : FRes := { bits := canonNaN c, flags := if nv then flagNV else 0 }

/-- An infinity of a format. -/
def infRes (c : Nat) (neg : Bool) : FRes := { bits := infBits c + natOf neg * 2 ^ signPos c }

/-- A zero of a format. -/
def zeroRes (c : Nat) (neg : Bool) : FRes := { bits := natOf neg * 2 ^ signPos c }

/-- A signed integer of a magnitude. -/
def signed (neg : Bool) (m : Nat) : Int := if neg then -(m : Int) else (m : Int)

/-- The exact sum of two finite values, with the sign rules of a zero sum (15 R383). -/
def addFin (c rm : Nat) (sat : Bool) (n1 : Bool) (m1 : Nat) (e1 : Int) (n2 : Bool) (m2 : Nat) (e2 : Int) : FRes :=
  let e := min e1 e2
  let v := signed n1 (shl m1 (e1 - e)) + signed n2 (shl m2 (e2 - e))
  if v = 0 then
    if m1 = 0 ∧ m2 = 0 ∧ n1 = n2 then zeroRes c n1 else zeroRes c (rm = 2)
  else roundF c rm sat (v < 0) v.natAbs e false

/-- a + b. -/
def fAddV (c rm : Nat) (sat : Bool) (a b : FVal) : FRes :=
  match a, b with
  | .nan s, y => nanRes c (s || y.snan)
  | _, .nan s => nanRes c s
  | .inf n, .inf k => if n = k then infRes c n else nanRes c true
  | .inf n, _ => infRes c n
  | _, .inf n => infRes c n
  | .fin n1 m1 e1, .fin n2 m2 e2 => addFin c rm sat n1 m1 e1 n2 m2 e2

/-- A value with its sign flipped. -/
def FVal.negate : FVal → FVal
  | .nan s => .nan s
  | .inf n => .inf (!n)
  | .fin n m e => .fin (!n) m e

/-- a + b on bits. -/
def fAdd (c rm : Nat) (sat : Bool) (a b : Nat) : FRes := fAddV c rm sat (decodeF c a) (decodeF c b)

/-- a − b on bits. -/
def fSub (c rm : Nat) (sat : Bool) (a b : Nat) : FRes := fAddV c rm sat (decodeF c a) (decodeF c b).negate

/-- a × b on bits. -/
def fMul (c rm : Nat) (sat : Bool) (a b : Nat) : FRes :=
  match decodeF c a, decodeF c b with
  | .nan s, y => nanRes c (s || y.snan)
  | _, .nan s => nanRes c s
  | .inf n, .inf k => infRes c (n ≠ k)
  | .inf n, .fin k m _ => if m = 0 then nanRes c true else infRes c (n ≠ k)
  | .fin k m _, .inf n => if m = 0 then nanRes c true else infRes c (n ≠ k)
  | .fin n1 m1 e1, .fin n2 m2 e2 =>
    if m1 * m2 = 0 then zeroRes c (n1 ≠ n2) else roundF c rm sat (n1 ≠ n2) (m1 * m2) (e1 + e2) false

/-- ±(a × b) ± z with one rounding (12 R313). -/
def fFma (c rm : Nat) (sat np nc : Bool) (a b z : Nat) : FRes :=
  let x := decodeF c a
  let y := decodeF c b
  let w := decodeF c z
  let w := if nc then w.negate else w
  let zeroInf := match x, y with
    | .inf _, .fin _ m _ => m = 0
    | .fin _ m _, .inf _ => m = 0
    | _, _ => false
  if x.isNaN ∨ y.isNaN ∨ w.isNaN then nanRes c (x.snan || y.snan || w.snan || zeroInf)
  else if zeroInf then nanRes c true
  else
    let p : FVal := match x, y with
      | .fin n1 m1 e1, .fin n2 m2 e2 => .fin ((n1 ≠ n2) ≠ np) (m1 * m2) (e1 + e2)
      | u, v => .inf ((u.neg ≠ v.neg) ≠ np)
    fAddV c rm sat p w

/-- a / b. -/
def fDiv (c rm : Nat) (sat : Bool) (a b : Nat) : FRes :=
  match decodeF c a, decodeF c b with
  | .nan s, y => nanRes c (s || y.snan)
  | _, .nan s => nanRes c s
  | .inf _, .inf _ => nanRes c true
  | .inf n, .fin k _ _ => infRes c (n ≠ k)
  | .fin n _ _, .inf k => zeroRes c (n ≠ k)
  | .fin n1 m1 e1, .fin n2 m2 e2 =>
    if m2 = 0 then
      if m1 = 0 then nanRes c true else { infRes c (n1 ≠ n2) with flags := flagDZ }
    else if m1 = 0 then zeroRes c (n1 ≠ n2)
    else
      let k := fracBits c + 6 + bitLen m2
      let m := m1 * 2 ^ k
      roundF c rm sat (n1 ≠ n2) (m / m2) (e1 - e2 - k) (m % m2 ≠ 0)

/-- The integer square root, one bit of the root at a time from bit i downwards. -/
def isqrtFrom (n : Nat) : Nat → Nat → Nat
  | 0, r => r
  | i + 1, r => if (r + 2 ^ i) * (r + 2 ^ i) ≤ n then isqrtFrom n i (r + 2 ^ i) else isqrtFrom n i r

/-- The integer square root. -/
def isqrt (n : Nat) : Nat := isqrtFrom n (bitLen n / 2 + 1) 0

/-- √a. -/
def fSqrt (c rm : Nat) (sat : Bool) (a : Nat) : FRes :=
  match decodeF c a with
  | .nan s => nanRes c s
  | .inf n => if n then nanRes c true else infRes c false
  | .fin n m e =>
    if m = 0 then zeroRes c n
    else if n then nanRes c true
    else
      let k := 2 * (fracBits c + 4) + (if e % 2 = 0 then 0 else 1)
      let w := m * 2 ^ k
      let r := isqrt w
      roundF c rm sat false r ((e - k) / 2) (r * r ≠ w)

/-- 1 / a. -/
def fRcp (c rm : Nat) (sat : Bool) (a : Nat) : FRes :=
  match decodeF c a with
  | .nan s => nanRes c s
  | .inf n => zeroRes c n
  | .fin n m e =>
    if m = 0 then { infRes c n with flags := flagDZ }
    else
      let k := fracBits c + 6 + bitLen m
      roundF c rm sat n (2 ^ k / m) (-e - k) (2 ^ k % m ≠ 0)

/-- 1 / √a: exact only where a is an even power of two. -/
def fRsqrt (c rm : Nat) (sat : Bool) (a : Nat) : FRes :=
  match decodeF c a with
  | .nan s => nanRes c s
  | .inf n => if n then nanRes c true else zeroRes c false
  | .fin n m e =>
    if m = 0 then { infRes c n with flags := flagDZ }
    else if n then nanRes c true
    else
      let m2 := if e % 2 = 0 then m else 2 * m
      let e2 := if e % 2 = 0 then e else e - 1
      let k := fracBits c + 6 + bitLen m2
      let r := isqrt (2 ^ (2 * k) / m2)
      roundF c rm sat false r (-(e2 / 2) - k) (r * r * m2 ≠ 2 ^ (2 * k))

/- Comparison and selection. -/

/-- The order of two values that are no NaN: −1, 0 or 1, with −0 equal to +0. -/
def cmpV (a b : FVal) : Int :=
  let side : FVal → Int := fun v => match v with
    | .inf n => if n then -1 else 1
    | _ => 0
  match a, b with
  | .fin n1 m1 e1, .fin n2 m2 e2 =>
    let e := min e1 e2
    let x := signed n1 (shl m1 (e1 - e))
    let y := signed n2 (shl m2 (e2 - e))
    if x < y then -1 else if x = y then 0 else 1
  | u, v => if side u < side v then -1 else if side u = side v then 0 else 1

/-- VFMIN and VFMAX of two elements (15 R384): −0 lies below +0; one NaN gives the other operand. -/
def fMinMax (c : Nat) (wantMax : Bool) (a b : Nat) : FRes :=
  let x := decodeF c a
  let y := decodeF c b
  let nv := if x.snan ∨ y.snan then flagNV else 0
  if x.isNaN ∧ y.isNaN then { bits := canonNaN c, flags := nv }
  else if x.isNaN then { bits := b, flags := nv }
  else if y.isNaN then { bits := a, flags := nv }
  else
    let less := cmpV x y < 0 || (cmpV x y = 0 && x.neg && !y.neg)
    { bits := if less = wantMax then b else a, flags := nv }

/-- VFCLASS (15 R384). -/
def fClass (c v : Nat) : Nat :=
  match decodeF c v with
  | .inf n => if n then 1 else 128
  | .nan s => if s then 256 else 512
  | .fin n m _ =>
    if m = 0 then (if n then 8 else 16)
    else if m < 2 ^ fracBits c then (if n then 4 else 32)
    else (if n then 2 else 64)

/- Conversions to integers (12 R293, R300). -/

/-- Round to an integer: the value and whether it changed. -/
def roundInt (rm : Nat) (neg : Bool) (m : Nat) (e : Int) (sticky : Bool) : Int × Bool :=
  let (n, nx) := roundAt rm neg m e 0 sticky
  (signed neg n, nx)

/-- The least value of an integer format of w bytes. -/
def intMin (w : Nat) : Int := -((2 ^ (8 * w - 1) : Nat) : Int)

/-- The greatest value of an integer format of w bytes. -/
def intMax (w : Nat) : Int := ((2 ^ (8 * w - 1) : Nat) : Int) - 1

/-- SAT to a signed integer format: the bits, and whether it clamped. -/
def satInt (w : Nat) (v : Int) : Nat × Bool :=
  if v < intMin w then (wrapInt (8 * w) (intMin w), true)
  else if v > intMax w then (wrapInt (8 * w) (intMax w), true)
  else (wrapInt (8 * w) v, false)

/-- A finite value into an integer format, as a conversion clamps it: outside the type, SAT with NV. -/
def finToInt (w rm : Nat) (sat neg : Bool) (m : Nat) (e : Int) (sticky : Bool) : FRes :=
  let (v, nx) := roundInt rm neg m e sticky
  let (b, clamped) := satInt w v
  if clamped then { bits := b, flags := flagNV, sat := sat } else { bits := b, flags := if nx then flagNX else 0 }

/-- The number of steps k of 0 to 3 with m^8 above 2^(8 (bitLen m − 1) + 2k + 1): how far 4 log2 of the significand rounds. -/
def l6Steps (m : Nat) : Nat :=
  let b := 8 * (bitLen m - 1)
  ((List.range 4).filter (fun k => m ^ 8 > 2 ^ (b + 2 * k + 1))).length

/-- A finite value into L6 (12 R303). -/
def finToL6 (sat neg : Bool) (m : Nat) (e : Int) : FRes :=
  if m = 0 then { bits := 0x10 }
  else
    let lam : Int := 4 * (e + (bitLen m : Int) - 1) + (l6Steps m : Int)
    let s := natOf neg * 32
    let pow2 := m = 2 ^ (bitLen m - 1)
    if lam > 15 then
      if sat then { bits := s + 15, flags := flagOF + flagNX, sat := true } else { bits := 0x30, flags := flagOF + flagNX }
    else if lam < -15 then { bits := 0x10, flags := flagUF + flagNX }
    else { bits := s + wrapInt 5 lam, flags := if pow2 then 0 else flagNX }

/-- An L6 code as a magnitude with enough bits for any format: m × 2^e, and whether the exact value lies above m (R304). -/
def l6Value (code : Nat) (scale : Int) : Nat × Int × Bool :=
  let lam := sintOf 5 code
  let q := lam / 4
  let r := (lam % 4).toNat
  if r = 0 then (2 ^ 140, q + scale - 140, false)
  else (isqrt (isqrt (2 ^ (r + 4 * 140))), q + scale - 140, true)

/-- A finite value into any format. -/
def finTo (dst rm : Nat) (sat neg : Bool) (m : Nat) (e : Int) (sticky : Bool) : FRes :=
  if dst < 4 then finToInt (fmtBytes dst) rm sat neg m e sticky
  else if dst = 8 then finToL6 sat neg m e
  else roundF dst rm sat neg m e sticky

/-- VCVT of one element (12 R300–R304). -/
def convert (src dst rm : Nat) (sat : Bool) (scale : Int) (v : Nat) : FRes :=
  if src < 4 then
    let w := fmtBytes src
    let x := sintOf (8 * w) v
    if dst < 4 then
      -- a scaled integer is rounded before it is narrowed; no flag is raised (notes/assumptions/13.md)
      let y := (roundInt rm (x < 0) x.natAbs scale false).1
      if sat then
        let (b, k) := satInt (fmtBytes dst) y
        { bits := b, sat := k }
      else { bits := wrapInt (8 * fmtBytes dst) y }
    else finTo dst rm sat (x < 0) x.natAbs scale false
  else if src = 8 then
    let code := v % 64
    if code = 0x10 then { bits := 0 }
    else if code = 0x30 then
      if dst < 4 then { bits := 0, flags := flagNV } else nanRes dst true
    else
      let (m, e, st) := l6Value code scale
      finTo dst rm sat (code.testBit 5) m e st
  else
    match decodeF src v with
    | .nan s =>
      if dst < 4 then { bits := wrapInt (8 * fmtBytes dst) (intMax (fmtBytes dst)), flags := flagNV, sat := sat }
      else if dst = 8 then { bits := 0x30, flags := flagNV }
      else nanRes dst s
    | .inf n =>
      if dst < 4 then
        let w := fmtBytes dst
        { bits := wrapInt (8 * w) (if n then intMin w else intMax w), flags := flagNV, sat := sat }
      else if dst = 8 then { bits := 0x30, flags := flagNV }
      else if dst = 9 then
        if sat then { bits := natOf n * 0x80 + 0x7E, flags := flagNV, sat := true } else { bits := 0x7F, flags := flagNV }
      else infRes dst n
    | .fin n m e =>
      if m = 0 ∧ isFloatFmt dst then zeroRes dst n else finTo dst rm sat n m (e + scale) false

/- Exact sums and accumulators. -/

/-- A finite value as a multiple of the least subnormal of its format. -/
def asQuanta (c : Nat) (neg : Bool) (m : Nat) (e : Int) : Int := signed neg (shl m (e - minExp c))

/-- The floating VREDSUM of a list of elements (12 R312); no element gives +0. -/
def fSum (c rm : Nat) (sat : Bool) (vs : List Nat) : FRes :=
  let xs := vs.map (decodeF c)
  if xs.any FVal.isNaN then nanRes c (xs.any FVal.snan)
  else
    let pinf := xs.any (fun x => x = .inf false)
    let ninf := xs.any (fun x => x = .inf true)
    if pinf ∧ ninf then nanRes c true
    else if pinf then infRes c false
    else if ninf then infRes c true
    else
      let total : Int := xs.foldl (fun t x => match x with
        | .fin n m e => t + asQuanta c n m e
        | _ => t) 0
      if total = 0 then
        if xs = [] then zeroRes c false
        else if xs.all FVal.neg then zeroRes c true
        else zeroRes c (rm = 2 && xs.any (fun x => match x with
          | .fin n m _ => n || m ≠ 0
          | _ => false))
      else roundF c rm sat (total < 0) total.natAbs (minExp c) false

/-- VLDACC's conversion of an accumulator (12 R311): N × 2^p into ty; overflow always saturates and raises neither OF nor
NV, but NX as R297 raises it. -/
def accTo (ty rm : Nat) (n : Int) (p : Int) : FRes :=
  if ty < 4 then
    let (v, nx) := roundInt rm (n < 0) n.natAbs p false
    let (b, k) := satInt (fmtBytes ty) v
    { bits := b, flags := if nx then flagNX else 0, sat := k }
  else if n = 0 then { bits := 0 }
  else
    let r := roundF ty rm true (n < 0) n.natAbs p false
    if bitOf r.flags 2 then { r with flags := r.flags - flagOF, sat := true } else r

/-- VRRED's contribution (12 R316): the count of 2^−64 and the flags; none for an element that contributes nothing. -/
def contribution (ty v : Nat) : Option Nat × Nat :=
  let fin (neg : Bool) (m : Nat) (e : Int) : Option Nat × Nat :=
    let (k, nx) := roundInt 0 neg m (e + 64) false
    let big := k < -((2 ^ 127 : Nat) : Int) ∨ k ≥ ((2 ^ 127 : Nat) : Int)
    (some (wrapInt 128 k), (if nx then flagNX else 0) + (if big then flagOF else 0))
  if ty < 4 then
    let x := sintOf (8 * fmtBytes ty) v
    fin (x < 0) x.natAbs 0
  else match decodeF ty v with
    | .fin n m e => fin n m e
    | _ => (none, flagNV)

/- The correctly rounded transcendentals (12 R313, R314). A value strictly between two integers lo and hi of some unit is
rounded from its floor in a coarser unit; where even the finest unit leaves two floors, Config.roundUp chooses (log entry
8). -/

/-- An enclosure: the value lies strictly between lo and hi, in units of 2^−w. -/
structure Encl where
  lo : Nat
  hi : Nat
deriving DecidableEq, Repr

/-- The product of two enclosures in units of 2^−w. -/
def Encl.mul (w : Nat) (a b : Encl) : Encl := { lo := a.lo * b.lo / 2 ^ w, hi := a.hi * b.hi / 2 ^ w + 1 }

/-- The quotient of an enclosure by a natural number. -/
def Encl.divN (a : Encl) (n : Nat) : Encl := { lo := a.lo / n, hi := a.hi / n + 1 }

/-- The quotient of two enclosures. -/
def Encl.div (w : Nat) (a b : Encl) : Encl := { lo := a.lo * 2 ^ w / b.hi, hi := a.hi * 2 ^ w / b.lo + 1 }

/-- The sum of two enclosures. -/
def Encl.add (a b : Encl) : Encl := { lo := a.lo + b.lo, hi := a.hi + b.hi }

/-- The difference of two enclosures, the first being the greater. -/
def Encl.sub (a b : Encl) : Encl := { lo := a.lo - b.hi, hi := a.hi - b.lo }

/-- An enclosure widened by a number of units, for a series cut off where its terms are below a unit. -/
def Encl.widen (a : Encl) (n : Nat) : Encl := { lo := a.lo - n, hi := a.hi + n }

/-- The sums of the even and of the odd terms of a series whose term k + 1 is term k × y / c k. -/
def series (w : Nat) (y : Encl) (c : Nat → Nat) : Nat → Nat → Encl → Encl × Encl → Encl × Encl
  | 0, _, _, acc => acc
  | n + 1, k, term, (even, odd) =>
    let acc := if k % 2 = 0 then (even.add term, odd) else (even, odd.add term)
    series w y c n (k + 1) ((term.mul w y).divN (c k)) acc

/-- A number as an enclosure in units of 2^−w. -/
def enclOf (w n : Nat) : Encl := { lo := n * 2 ^ w, hi := n * 2 ^ w }

/-- arctan (1/x) or artanh (1/x), by its series with terms 1 / ((2k + 1) x^(2k + 1)). -/
def arcSeries (w x : Nat) (alternate : Bool) : Nat → Nat → Nat → Encl × Encl → Encl
  | 0, _, _, (even, odd) => (if alternate then even.sub odd else even.add odd).widen 4
  | n + 1, k, p, (even, odd) =>
    let t := p / (2 * k + 1)
    let term : Encl := { lo := t, hi := t + 2 }
    let acc := if k % 2 = 0 then (even.add term, odd) else (even, odd.add term)
    arcSeries w x alternate n (k + 1) (p / (x * x)) acc

/-- π. -/
def piEncl (w : Nat) : Encl :=
  let a := arcSeries w 5 true (w / 4 + 2) 0 (2 ^ w / 5) (⟨0, 0⟩, ⟨0, 0⟩)
  let b := arcSeries w 239 true (w / 15 + 2) 0 (2 ^ w / 239) (⟨0, 0⟩, ⟨0, 0⟩)
  (Encl.sub ⟨16 * a.lo, 16 * a.hi⟩ ⟨4 * b.lo, 4 * b.hi⟩).widen 64

/-- ln 2 = 2 artanh (1/3). -/
def ln2Encl (w : Nat) : Encl :=
  let a := arcSeries w 3 false (w / 3 + 2) 0 (2 ^ w / 3) (⟨0, 0⟩, ⟨0, 0⟩)
  (Encl.mk (2 * a.lo) (2 * a.hi)).widen 64

/-- m × 2^e in units of 2^−w, as an enclosure. -/
def dyEncl (w m : Nat) (e : Int) : Encl :=
  let k : Int := e + w
  if 0 ≤ k then ⟨shl m k, shl m k⟩ else ⟨m / 2 ^ (-k).toNat, m / 2 ^ (-k).toNat + 1⟩

/-- Round a value enclosed in units of 2^e: from its floor in units of 2^(e + g) where that is settled. -/
def settle (c rm : Nat) (sat neg : Bool) (x : Encl) (e : Int) (g : Nat) : Option FRes :=
  if x.lo / 2 ^ g = (x.hi - 1) / 2 ^ g then some (roundF c rm sat neg (x.lo / 2 ^ g) (e + g) true) else none

/-- Try the working precisions in turn; where none settles the value, Config.roundUp chooses between the two floors. -/
def tryWidths (c rm : Nat) (sat neg : Bool) (seed : Nat) (f : Nat → Encl × Int) : List Nat → FRes
  | [] =>
    let (x, e) := f 1024
    let m := if Config.roundUp c seed then (x.hi - 1) / 2 ^ 64 else x.lo / 2 ^ 64
    roundF c rm sat neg m (e + 64) true
  | w :: rest =>
    let (x, e) := f w
    match settle c rm sat neg x e 64 with
    | some r => r
    | none => tryWidths c rm sat neg seed f rest

/-- The working precisions, in bits. -/
def widths : List Nat := [192, 448, 1024]

/-- 2^f for 0 < f < 1 (f = m × 2^e), in units of 2^−w. -/
def exp2Frac (w m : Nat) (e : Int) : Encl :=
  let y := (dyEncl w m e).mul w (ln2Encl w)
  let (a, b) := series w y (fun k => k + 1) (w / 4 + 12) 0 (enclOf w 1) (⟨0, 0⟩, ⟨0, 0⟩)
  let s := (a.add b).widen 8
  ⟨max s.lo (2 ^ w), min s.hi (2 ^ (w + 1))⟩

/-- VFEXP2 of one element. -/
def fExp2 (c rm : Nat) (sat : Bool) (a : Nat) : FRes :=
  match decodeF c a with
  | .nan s => nanRes c s
  | .inf n => if n then zeroRes c false else infRes c false
  | .fin n m e =>
    if m = 0 then roundF c rm sat false 1 0 false
    else if e + (bitLen m : Int) > 14 then
      -- beyond every format: 2^(±16,384) and more
      roundF c rm sat false (2 ^ 80) (if n then -16384 else 16384) true
    else
      let fracBitsOf := (-e).toNat
      let whole : Int := if 0 ≤ e then signed n (shl m e) else (signed n m) / (2 ^ fracBitsOf : Nat)
      let frac : Nat := if 0 ≤ e then 0 else ((signed n m) % ((2 ^ fracBitsOf : Nat) : Int)).toNat
      if frac = 0 then roundF c rm sat false 1 whole false
      else tryWidths c rm sat false a (fun w => (exp2Frac w frac (-(fracBitsOf : Int)), whole - w)) widths

/-- ln of (den + num) / (den − num) is 2 artanh (num / den): the series in (num / den)², in units of 2^−w. -/
def artanhEncl (w num den : Nat) : Encl :=
  let z : Encl := ⟨num * 2 ^ w / den, num * 2 ^ w / den + 1⟩
  let y := z.mul w z
  let rec go : Nat → Nat → Encl → Encl → Encl
    | 0, _, _, acc => acc
    | n + 1, k, p, acc => go n (k + 1) (p.mul w y) (acc.add (p.divN (2 * k + 1)))
  (go (w / 4 + 4) 0 z ⟨0, 0⟩).widen 8

/-- VFLOG2 of one element. -/
def fLog2 (c rm : Nat) (sat : Bool) (a : Nat) : FRes :=
  match decodeF c a with
  | .nan s => nanRes c s
  | .inf n => if n then nanRes c true else infRes c false
  | .fin n m e =>
    if m = 0 then { infRes c true with flags := flagDZ }
    else if n then nanRes c true
    else
      let b := bitLen m - 1
      if m = 2 ^ b then
        let v : Int := e + b
        if v = 0 then zeroRes c false else roundF c rm sat (v < 0) v.natAbs 0 false
      else
        -- x = m / 2^b in (1, 2), or halved when above about the root of two
        let half := 2 * m * m > 2 ^ (2 * b + 2)
        let big : Int := e + b + (if half then 1 else 0)
        let den0 := if half then 2 ^ (b + 1) else 2 ^ b
        let num := if half then den0 - m else m - den0
        let neg := if big = 0 then half else big < 0
        tryWidths c rm sat neg a (fun w =>
          let t := artanhEncl w num (m + den0)
          let l := (Encl.mk (2 * t.lo) (2 * t.hi)).div w (ln2Encl w)
          let base := big.natAbs * 2 ^ w
          let x : Encl :=
            if big = 0 then l
            else if (big < 0) = half then ⟨base + l.lo, base + l.hi⟩
            else ⟨base - l.hi, base - l.lo⟩
          (x, -(w : Int))) widths

/-- sin (π t) for t = m × 2^e in (0, 1/2), as m times an enclosure of sin (π t) / t in units of 2^−w. -/
def sinEncl (w m : Nat) (e : Int) : Encl :=
  let p := piEncl w
  let t := dyEncl w m e
  let pt := p.mul w t
  let y := pt.mul w pt
  let (a, b) := series w y (fun k => (2 * k + 2) * (2 * k + 3)) (w / 6 + 12) 0 (enclOf w 1) (⟨0, 0⟩, ⟨0, 0⟩)
  let s := (a.sub b).widen 8
  let s : Encl := ⟨s.lo, min s.hi (2 ^ w)⟩
  let q := p.mul w s
  ⟨m * q.lo, m * q.hi⟩

/-- cos (π t) for t = m × 2^e in (0, 1/4], in units of 2^−w. -/
def cosEncl (w m : Nat) (e : Int) : Encl :=
  let p := piEncl w
  let pt := p.mul w (dyEncl w m e)
  let y := pt.mul w pt
  let (a, b) := series w y (fun k => (2 * k + 1) * (2 * k + 2)) (w / 6 + 12) 0 (enclOf w 1) (⟨0, 0⟩, ⟨0, 0⟩)
  let s := (a.sub b).widen 8
  ⟨s.lo, min s.hi (2 ^ w)⟩

/-- sin (π t), for t = k / 2^j in (0, 1/2), rounded with a sign. -/
def sinpiQ (c rm : Nat) (sat neg : Bool) (seed k j : Nat) : FRes :=
  tryWidths c rm sat neg seed (fun w => (sinEncl w k (-(j : Int)), -(j : Int) - w)) widths

/-- cos (π t), for t = k / 2^j in (0, 1/2), rounded with a sign. -/
def cospiQ (c rm : Nat) (sat neg : Bool) (seed k j : Nat) : FRes :=
  if 4 * k ≤ 2 ^ j then tryWidths c rm sat neg seed (fun w => (cosEncl w k (-(j : Int)), -(w : Int))) widths
  else sinpiQ c rm sat neg seed (2 ^ j - 2 * k) (j + 1)

/-- VFSINPI and VFCOSPI of one element: |a| mod 2 is k / 2^j with j at least 1. -/
def fSinCosPi (c rm : Nat) (sat isCos : Bool) (a : Nat) : FRes :=
  match decodeF c a with
  | .nan s => nanRes c s
  | .inf _ => nanRes c true
  | .fin n m e =>
    let j := max 1 (-e).toNat
    let k := (shl m (e + j)) % 2 ^ (j + 1)
    let one := 2 ^ j
    let h := 2 ^ (j - 1)
    if isCos then
      if k = h ∨ k = one + h then zeroRes c false
      else if k = 0 then roundF c rm sat false 1 0 false
      else if k = one then roundF c rm sat true 1 0 false
      else
        let k1 := if k > one then 2 * one - k else k
        if k1 < h then cospiQ c rm sat false a k1 j else cospiQ c rm sat true a (one - k1) j
    else
      if k = 0 ∨ k = one then zeroRes c n
      else
        let neg := n ≠ (decide (k > one))
        let k1 := if k > one then k - one else k
        if k1 = h then roundF c rm sat neg 1 0 false
        else if k1 < h then sinpiQ c rm sat neg a k1 j
        else sinpiQ c rm sat neg a (one - k1) j

/-- tanh a for a = m × 2^e in (0, 64), as m times an enclosure of tanh a / a in units of 2^−w. -/
def tanhEncl (w m : Nat) (e : Int) : Encl :=
  let t := dyEncl w m e
  let y := t.mul w t
  let (a, b) := series w y (fun k => (2 * k + 2) * (2 * k + 3)) (w / 3 + 200) 0 (enclOf w 1) (⟨0, 0⟩, ⟨0, 0⟩)
  let (p, q) := series w y (fun k => (2 * k + 1) * (2 * k + 2)) (w / 3 + 200) 0 (enclOf w 1) (⟨0, 0⟩, ⟨0, 0⟩)
  let r := ((a.add b).widen 8).div w ((p.add q).widen 8)
  ⟨m * r.lo, m * min r.hi (2 ^ w)⟩

/-- VFTANH of one element. -/
def fTanh (c rm : Nat) (sat : Bool) (a : Nat) : FRes :=
  match decodeF c a with
  | .nan s => nanRes c s
  | .inf n => roundF c rm sat n 1 0 false
  | .fin n m e =>
    if m = 0 then zeroRes c n
    else if e + (bitLen m : Int) > 6 then roundF c rm sat n (2 ^ 128 - 1) (-128) true
    else tryWidths c rm sat n a (fun w => (tanhEncl w m e, e - w)) widths

end Sys2Proof.Machine
end

