-- ==== Sys2Proof/Syntax.lean ====
section
/-! DEFINITION. The instructions and events of the K3: one constructor of Instr for each row of spec/opcode_table.json.
The 32-bit rows carry the operand fields of the standard formats and of the Agzen short format (13 R330, R331), the
64-bit rows carry the fields of the long format (13 R320), and the rows that are no words (what the host, the links,
the command cores and the engines do) carry the operands that name what they act on. -/

namespace Sys2Proof

/-- The fields of a 64-bit long instruction (13 R320). -/
structure LongFields where
  /-- destination, or the data source of a store -/
  d : Reg := 0
  /-- element type -/
  ty : BitVec 3 := 0
  /-- first source, or base address register -/
  a : Reg := 0
  /-- second source, or row-stride register -/
  b : Reg := 0
  /-- third source, or low part of the offset -/
  c : Reg := 0
  /-- predicate pk that narrows p0, or the access kind of SAMO -/
  pg : BitVec 4 := 0
  /-- repeat count minus one -/
  rep : BitVec 3 := 0
  /-- trap if the register of field a is empty -/
  ta : Bool := false
  /-- trap if the register of field b is empty -/
  tb : Bool := false
  /-- trap if the register of field c is empty -/
  tc : Bool := false
  /-- posted-store wait -/
  w : BitVec 2 := 0
  /-- rounding mode -/
  rm : BitVec 3 := 0
  /-- saturate -/
  sat : Bool := false
  /-- class-specific flag -/
  nt : Bool := false
  /-- axis or direction flag -/
  ax : Bool := false
  /-- immediate, condition, mask code or offset high bits -/
  imm : BitVec 6 := 0
deriving DecidableEq, Repr

/-- A signed image as a boot stage or a recovery upload presents it (01 R32): the measurement register its stage
extends, its SM3 digest, the public key that signed it, the signature and the security version. -/
structure BootImage where
  mr : Nat
  digest : BitVec 256
  key : BitVec 512
  signature : BitVec 512
  version : Nat
deriving DecidableEq, Repr

/-- A change that an optimiser engine performs (06 R145): a rotation exchanges a child slot of one node with a child
slot of a node below it; a re-insertion moves one primitive slot into a free slot of another node. The engine's choice
is its own (R145), so the event names it. -/
inductive OptChange where
  | rotate (parent child : Word) (parentSlot childSlot : Nat)
  | reinsert (source target : Word) (sourceSlot : Nat)
deriving DecidableEq, Repr

/-- An access that another K3 sends over a haul link (01 R23): it names DRAM of this device. -/
inductive RemoteAccess where
  | load (addr : Nat) (bytes : Nat)
  | store (addr : Nat) (data : List Byte)
  | contribute (addr : Nat) (count : BitVec 128)
deriving DecidableEq, Repr

/-- The instructions of the opcode table. -/
inductive Instr where
  /-- ADD (R342): rd = rs1 + rs2. -/
  | add (rd rs1 rs2 : Reg)
  /-- SUB (R342): rd = rs1 - rs2. -/
  | sub (rd rs1 rs2 : Reg)
  /-- SLL (R342): Shift left by rs2[5:0]. -/
  | sll (rd rs1 rs2 : Reg)
  /-- SLT (R342): Signed set-less-than. -/
  | slt (rd rs1 rs2 : Reg)
  /-- SLTU (R342): Unsigned set-less-than. -/
  | sltu (rd rs1 rs2 : Reg)
  /-- XOR (R342): Bitwise XOR. -/
  | xor (rd rs1 rs2 : Reg)
  /-- SRL (R342): Logical right shift. -/
  | srl (rd rs1 rs2 : Reg)
  /-- SRA (R342): Arithmetic right shift. -/
  | sra (rd rs1 rs2 : Reg)
  /-- OR (R342): Bitwise OR. -/
  | or (rd rs1 rs2 : Reg)
  /-- AND (R342): Bitwise AND. -/
  | and (rd rs1 rs2 : Reg)
  /-- ADDW (R342): 32-bit add, sign-extended. -/
  | addw (rd rs1 rs2 : Reg)
  /-- SUBW (R342): 32-bit subtract, sign-extended. -/
  | subw (rd rs1 rs2 : Reg)
  /-- SLLW (R342): 32-bit left shift. -/
  | sllw (rd rs1 rs2 : Reg)
  /-- SRLW (R342): 32-bit logical right shift. -/
  | srlw (rd rs1 rs2 : Reg)
  /-- SRAW (R342): 32-bit arithmetic right shift. -/
  | sraw (rd rs1 rs2 : Reg)
  /-- ADDI (R342): rd = rs1 + sext(imm). -/
  | addi (rd rs1 : Reg) (imm : BitVec 12)
  /-- SLTI (R342): Signed compare with an immediate. -/
  | slti (rd rs1 : Reg) (imm : BitVec 12)
  /-- SLTIU (R342): Unsigned compare with sext(imm). -/
  | sltiu (rd rs1 : Reg) (imm : BitVec 12)
  /-- XORI (R342): XOR with an immediate. -/
  | xori (rd rs1 : Reg) (imm : BitVec 12)
  /-- ORI (R342): OR with an immediate. -/
  | ori (rd rs1 : Reg) (imm : BitVec 12)
  /-- ANDI (R342): AND with an immediate. -/
  | andi (rd rs1 : Reg) (imm : BitVec 12)
  /-- SLLI (R342): Shift left by shamt. -/
  | slli (rd rs1 : Reg) (shamt : BitVec 6)
  /-- SRLI (R342): Logical right shift by shamt. -/
  | srli (rd rs1 : Reg) (shamt : BitVec 6)
  /-- SRAI (R342): Arithmetic right shift by shamt. -/
  | srai (rd rs1 : Reg) (shamt : BitVec 6)
  /-- ADDIW (R342): 32-bit add of an immediate. -/
  | addiw (rd rs1 : Reg) (imm : BitVec 12)
  /-- SLLIW (R342): 32-bit left shift by shamt. -/
  | slliw (rd rs1 : Reg) (shamt : BitVec 5)
  /-- SRLIW (R342): 32-bit logical right shift by shamt. -/
  | srliw (rd rs1 : Reg) (shamt : BitVec 5)
  /-- SRAIW (R342): 32-bit arithmetic right shift by shamt. -/
  | sraiw (rd rs1 : Reg) (shamt : BitVec 5)
  /-- LUI (R342): rd = sext(imm << 12). -/
  | lui (rd : Reg) (imm : BitVec 20)
  /-- AUIPC (R342): rd = pc + sext(imm << 12). -/
  | auipc (rd : Reg) (imm : BitVec 20)
  /-- JAL (R342): Jump and link. -/
  | jal (rd : Reg) (imm : BitVec 20)
  /-- JALR (R342): Indirect jump and link. -/
  | jalr (rd rs1 : Reg) (imm : BitVec 12)
  /-- BEQ (R342): Branch if equal. -/
  | beq (rs1 rs2 : Reg) (imm : BitVec 12)
  /-- BNE (R342): Branch if not equal. -/
  | bne (rs1 rs2 : Reg) (imm : BitVec 12)
  /-- BLT (R342): Branch if less, signed. -/
  | blt (rs1 rs2 : Reg) (imm : BitVec 12)
  /-- BGE (R342): Branch if greater or equal, signed. -/
  | bge (rs1 rs2 : Reg) (imm : BitVec 12)
  /-- BLTU (R342): Branch if less, unsigned. -/
  | bltu (rs1 rs2 : Reg) (imm : BitVec 12)
  /-- BGEU (R342): Branch if greater or equal, unsigned. -/
  | bgeu (rs1 rs2 : Reg) (imm : BitVec 12)
  /-- LB (R343): Load a sign-extended byte. -/
  | lb (rd rs1 : Reg) (imm : BitVec 12)
  /-- LH (R343): Load a sign-extended halfword. -/
  | lh (rd rs1 : Reg) (imm : BitVec 12)
  /-- LW (R343): Load a sign-extended word. -/
  | lw (rd rs1 : Reg) (imm : BitVec 12)
  /-- LD (R343): Load a doubleword. -/
  | ld (rd rs1 : Reg) (imm : BitVec 12)
  /-- LBU (R343): Load a zero-extended byte. -/
  | lbu (rd rs1 : Reg) (imm : BitVec 12)
  /-- LHU (R343): Load a zero-extended halfword. -/
  | lhu (rd rs1 : Reg) (imm : BitVec 12)
  /-- LWU (R343): Load a zero-extended word. -/
  | lwu (rd rs1 : Reg) (imm : BitVec 12)
  /-- SB (R343): Store a byte, to L1 or posted. -/
  | sb (rs1 rs2 : Reg) (imm : BitVec 12)
  /-- SH (R343): Store a halfword. -/
  | sh (rs1 rs2 : Reg) (imm : BitVec 12)
  /-- SW (R343): Store a word. -/
  | sw (rs1 rs2 : Reg) (imm : BitVec 12)
  /-- SD (R343): Store a doubleword. -/
  | sd (rs1 rs2 : Reg) (imm : BitVec 12)
  /-- MUL (R344): Low 64 bits of the product; rd is empty for 8 cycles. -/
  | mul (rd rs1 rs2 : Reg)
  /-- MULH (R344): High 64 bits, signed x signed. -/
  | mulh (rd rs1 rs2 : Reg)
  /-- MULHSU (R344): High 64 bits, signed x unsigned. -/
  | mulhsu (rd rs1 rs2 : Reg)
  /-- MULHU (R344): High 64 bits, unsigned x unsigned. -/
  | mulhu (rd rs1 rs2 : Reg)
  /-- DIV (R344): Signed quotient, with no trap. -/
  | div (rd rs1 rs2 : Reg)
  /-- DIVU (R344): Unsigned quotient. -/
  | divu (rd rs1 rs2 : Reg)
  /-- REM (R344): Signed remainder. -/
  | rem (rd rs1 rs2 : Reg)
  /-- REMU (R344): Unsigned remainder. -/
  | remu (rd rs1 rs2 : Reg)
  /-- MULW (R344): 32-bit multiply. -/
  | mulw (rd rs1 rs2 : Reg)
  /-- DIVW (R344): 32-bit signed divide. -/
  | divw (rd rs1 rs2 : Reg)
  /-- DIVUW (R344): 32-bit unsigned divide. -/
  | divuw (rd rs1 rs2 : Reg)
  /-- REMW (R344): 32-bit signed remainder. -/
  | remw (rd rs1 rs2 : Reg)
  /-- REMUW (R344): 32-bit unsigned remainder. -/
  | remuw (rd rs1 rs2 : Reg)
  /-- LR (R345): Load-reserved on a 128-byte sector. -/
  | lr (wide aq rl : Bool) (rd rs1 : Reg)
  /-- SC (R345): Store-conditional. -/
  | sc (wide aq rl : Bool) (rd rs1 rs2 : Reg)
  /-- AMOSWAP (R345): Atomic swap. -/
  | amoswap (wide aq rl : Bool) (rd rs1 rs2 : Reg)
  /-- AMOADD (R345): Atomic add. -/
  | amoadd (wide aq rl : Bool) (rd rs1 rs2 : Reg)
  /-- AMOXOR (R345): Atomic XOR. -/
  | amoxor (wide aq rl : Bool) (rd rs1 rs2 : Reg)
  /-- AMOAND (R345): Atomic AND. -/
  | amoand (wide aq rl : Bool) (rd rs1 rs2 : Reg)
  /-- AMOOR (R345): Atomic OR. -/
  | amoor (wide aq rl : Bool) (rd rs1 rs2 : Reg)
  /-- AMOMIN (R345): Atomic signed minimum. -/
  | amomin (wide aq rl : Bool) (rd rs1 rs2 : Reg)
  /-- AMOMAX (R345): Atomic signed maximum. -/
  | amomax (wide aq rl : Bool) (rd rs1 rs2 : Reg)
  /-- AMOMINU (R345): Atomic unsigned minimum. -/
  | amominu (wide aq rl : Bool) (rd rs1 rs2 : Reg)
  /-- AMOMAXU (R345): Atomic unsigned maximum. -/
  | amomaxu (wide aq rl : Bool) (rd rs1 rs2 : Reg)
  /-- FENCE (R346): Acts as FENCE.S both at system scope when both of its sets are non-empty. -/
  | fence (pred succ : BitVec 4)
  /-- CSRRW (R347): Atomic CSR read and write. -/
  | csrrw (rd rs1 : Reg) (csr : BitVec 12)
  /-- CSRRS (R347): CSR read and set bits. -/
  | csrrs (rd rs1 : Reg) (csr : BitVec 12)
  /-- CSRRC (R347): CSR read and clear bits. -/
  | csrrc (rd rs1 : Reg) (csr : BitVec 12)
  /-- CSRRWI (R347): CSR write of an immediate. -/
  | csrrwi (rd uimm : Reg) (csr : BitVec 12)
  /-- CSRRSI (R347): CSR set of immediate bits. -/
  | csrrsi (rd uimm : Reg) (csr : BitVec 12)
  /-- CSRRCI (R347): CSR clear of immediate bits. -/
  | csrrci (rd uimm : Reg) (csr : BitVec 12)
  /-- SFENCE_VMA (R238): Partition-wide invalidation of translations. -/
  | sfenceVma (rs1 rs2 : Reg)
  /-- TSPAWN (R353): Starts the next thread of a launch record on a free context. -/
  | tspawn (rd rs1 rs2 : Reg)
  /-- TREAP (R354): Frees an exited context after its stores and copies drain, and returns its completion counter address. -/
  | treap (rd rs1 : Reg)
  /-- TKILL (R355): Ends a thread, aborts its copies, waits for its writes and frees the context. -/
  | tkill (rs1 : Reg)
  /-- TSTAT (R356): Reports a context's state or a sub-queue's head record. -/
  | tstat (rd rs1 : Reg)
  /-- TSELF (R357): Returns own tag, die, cluster index and thread index. -/
  | tself (rd : Reg)
  /-- GJOIN (R359): Joins a live gang or creates a dynamic gang. -/
  | gjoin (rd rs1 : Reg)
  /-- GLEAVE (R360): Leaves the gang, possibly completing a generation. -/
  | gleave (rd : Reg)
  /-- GBAR (R360): Arrives at the current generation and waits for it to complete. -/
  | gbar (rd : Reg)
  /-- GSIZE (R360): Returns the membership count. -/
  | gsize (rd : Reg)
  /-- GRANK (R360): Returns the caller's rank. -/
  | grank (rd : Reg)
  /-- HPUSH (R414): Pushes a Hoist request, waiting for FIFO room. -/
  | hpush (rs1 : Reg)
  /-- HPUSHT (R414): Pushes a Hoist request if the FIFO has room; otherwise returns 1. -/
  | hpusht (rd rs1 : Reg)
  /-- CWAIT (R416): Waits until a counter reaches a target, then acquires. -/
  | cwait (rs1 rs2 : Reg)
  /-- DRAIN (R417): Waits for earlier Hoist copies into a local memory. -/
  | drain (mem : Reg)
  /-- HQLEN (R415): Reports the Hoist request counts. -/
  | hqlen (rd : Reg)
  /-- MSEND (R361): Performs a release and appends a payload to a target's q7. -/
  | msend (rs1 rs2 : Reg)
  /-- RQPUSH (R364): Appends a task identifier to a ready-queue FIFO. -/
  | rqpush (rs1 rs2 : Reg)
  /-- RQPOP (R365): Pops the most urgent task, waiting when the queue is empty. -/
  | rqpop (rd : Reg)
  /-- RQTRY (R365): Pops the most urgent task, or returns -1. -/
  | rqtry (rd : Reg)
  /-- QPOP (R363): Pops q7 with its tag as an acquire, waiting when q7 is empty. -/
  | qpop (rd rt : Reg)
  /-- QPOPT (R363): Pops q7, or returns tag -1 without waiting. -/
  | qpopt (rd rt : Reg)
  /-- FEPROBE (R367): Reports a register's full/empty state. -/
  | feprobe (rd reg bank : Reg)
  /-- FEMARK (R368): Marks a register empty. -/
  | femark (reg bank : Reg)
  /-- FENCE_S (R369): Scoped acquire, release or full fence. -/
  | fenceS (kind : BitVec 2) (scope : BitVec 3)
  /-- SETVL (R376): Grants vector lengths and type, or traps with cause 31 on pending pre-emption. -/
  | setvl (f : LongFields)
  /-- VMV (R378): Copies vector elements. -/
  | vmv (f : LongFields)
  /-- VBCAST (R378): Broadcasts a scalar into the elements. -/
  | vbcast (f : LongFields)
  /-- VEXT (R378): Extracts one element into xd. -/
  | vext (f : LongFields)
  /-- VINS (R378): Inserts a scalar into one element. -/
  | vins (f : LongFields)
  /-- VSEL (R378): Selects elements by predicate pk. -/
  | vsel (f : LongFields)
  /-- VIOTA (R379): Prefix count of ACTIVE slots. -/
  | viota (f : LongFields)
  /-- VSLIDE (R379): Slides elements by x[b]. -/
  | vslide (f : LongFields)
  /-- VSHUF (R379): Permutes elements by index. -/
  | vshuf (f : LongFields)
  /-- VTRN (R378): Transposes the strip. -/
  | vtrn (f : LongFields)
  /-- VHASH (R380): CRC-64 of the strip into xd. -/
  | vhash (f : LongFields)
  /-- VSAVE (R381): Stores all 1,024 bytes of a vector register. -/
  | vsave (f : LongFields)
  /-- VRSTR (R381): Loads all 1,024 bytes of a vector register. -/
  | vrstr (f : LongFields)
  /-- VADD (R382): Integer add. -/
  | vadd (f : LongFields)
  /-- VSUB (R382): Integer subtract. -/
  | vsub (f : LongFields)
  /-- VMUL (R382): Integer multiply. -/
  | vmul (f : LongFields)
  /-- VMULH (R382): High half of a signed product. -/
  | vmulh (f : LongFields)
  /-- VMULHU (R382): High half of an unsigned product. -/
  | vmulhu (f : LongFields)
  /-- VMADD (R382): Integer multiply-add. -/
  | vmadd (f : LongFields)
  /-- VDIV (R382): Signed divide. -/
  | vdiv (f : LongFields)
  /-- VDIVU (R382): Unsigned divide. -/
  | vdivu (f : LongFields)
  /-- VREM (R382): Signed remainder. -/
  | vrem (f : LongFields)
  /-- VREMU (R382): Unsigned remainder. -/
  | vremu (f : LongFields)
  /-- VMIN (R382): Signed minimum. -/
  | vmin (f : LongFields)
  /-- VMINU (R382): Unsigned minimum. -/
  | vminu (f : LongFields)
  /-- VMAX (R382): Signed maximum. -/
  | vmax (f : LongFields)
  /-- VMAXU (R382): Unsigned maximum. -/
  | vmaxu (f : LongFields)
  /-- VAND (R382): Bitwise AND. -/
  | vand (f : LongFields)
  /-- VOR (R382): Bitwise OR. -/
  | vor (f : LongFields)
  /-- VXOR (R382): Bitwise XOR. -/
  | vxor (f : LongFields)
  /-- VSLL (R382): Shift left. -/
  | vsll (f : LongFields)
  /-- VSRL (R382): Logical shift right. -/
  | vsrl (f : LongFields)
  /-- VSRA (R382): Arithmetic shift right. -/
  | vsra (f : LongFields)
  /-- VABS (R382): Absolute value. -/
  | vabs (f : LongFields)
  /-- VCLZ (R382): Count leading zeros. -/
  | vclz (f : LongFields)
  /-- VPOPC (R382): Count set bits. -/
  | vpopc (f : LongFields)
  /-- VADDI (R382): Add a 6-bit immediate. -/
  | vaddi (f : LongFields)
  /-- VFADD (R383): Floating add, correctly rounded. -/
  | vfadd (f : LongFields)
  /-- VFSUB (R383): Floating subtract. -/
  | vfsub (f : LongFields)
  /-- VFMUL (R383): Floating multiply. -/
  | vfmul (f : LongFields)
  /-- VFMA (R383): Fused multiply-add, with signs chosen by imm6. -/
  | vfma (f : LongFields)
  /-- VFDIV (R383): Floating divide. -/
  | vfdiv (f : LongFields)
  /-- VFSQRT (R383): Square root. -/
  | vfsqrt (f : LongFields)
  /-- VFRCP (R383): Reciprocal. -/
  | vfrcp (f : LongFields)
  /-- VFRSQRT (R383): Reciprocal square root. -/
  | vfrsqrt (f : LongFields)
  /-- VFMIN (R384): Floating minimum. -/
  | vfmin (f : LongFields)
  /-- VFMAX (R384): Floating maximum. -/
  | vfmax (f : LongFields)
  /-- VFEXP2 (R383): 2^a, correctly rounded. -/
  | vfexp2 (f : LongFields)
  /-- VFLOG2 (R383): log2 a, correctly rounded. -/
  | vflog2 (f : LongFields)
  /-- VFSINPI (R383): sin(pi a), correctly rounded. -/
  | vfsinpi (f : LongFields)
  /-- VFCOSPI (R383): cos(pi a), correctly rounded. -/
  | vfcospi (f : LongFields)
  /-- VFTANH (R383): tanh a, correctly rounded. -/
  | vftanh (f : LongFields)
  /-- VFABS (R384): Clears the sign bit. -/
  | vfabs (f : LongFields)
  /-- VFNEG (R384): Flips the sign bit. -/
  | vfneg (f : LongFields)
  /-- VFCLASS (R384): Classifies each element. -/
  | vfclass (f : LongFields)
  /-- VFSGNJ (R384): Takes the sign of b. -/
  | vfsgnj (f : LongFields)
  /-- VFSGNJN (R384): Takes the inverted sign of b. -/
  | vfsgnjn (f : LongFields)
  /-- VFSGNJX (R384): Takes the XOR of the signs. -/
  | vfsgnjx (f : LongFields)
  /-- VCVT (R385): Scaled conversion between types, L6, E4M3 and E5M2. -/
  | vcvt (f : LongFields)
  /-- VCMP (R386): Compares into a predicate. -/
  | vcmp (f : LongFields)
  /-- VMAND (R387): Predicate AND. -/
  | vmand (f : LongFields)
  /-- VMOR (R387): Predicate OR. -/
  | vmor (f : LongFields)
  /-- VMXOR (R387): Predicate XOR. -/
  | vmxor (f : LongFields)
  /-- VMANDN (R387): Predicate AND-NOT. -/
  | vmandn (f : LongFields)
  /-- VMNOT (R387): Predicate NOT. -/
  | vmnot (f : LongFields)
  /-- VMSBF (R387): Sets the bits before the first set bit. -/
  | vmsbf (f : LongFields)
  /-- VMPUSH (R388): Pushes top AND pa onto the mask stack. -/
  | vmpush (f : LongFields)
  /-- VMELSE (R388): Inverts the top under the entry below. -/
  | vmelse (f : LongFields)
  /-- VMPOP (R388): Pops the mask stack. -/
  | vmpop (f : LongFields)
  /-- VMPOPC (R387): Counts the set in-length bits. -/
  | vmpopc (f : LongFields)
  /-- VMFIRST (R387): Index of the first set in-length bit. -/
  | vmfirst (f : LongFields)
  /-- VMMOV_TO_PREDICATE (R389): With ax = 0, copies a mask into a predicate. -/
  | vmmovToPredicate (f : LongFields)
  /-- VMMOV_TO_MASK (R389): With ax = 1, copies a predicate into a mask. -/
  | vmmovToMask (f : LongFields)
  /-- VREDSUM (R390): Exact sum, rounded once. -/
  | vredsum (f : LongFields)
  /-- VREDMIN (R390): Minimum reduction. -/
  | vredmin (f : LongFields)
  /-- VREDMAX (R390): Maximum reduction. -/
  | vredmax (f : LongFields)
  /-- VREDAND (R390): AND reduction. -/
  | vredand (f : LongFields)
  /-- VREDOR (R390): OR reduction. -/
  | vredor (f : LongFields)
  /-- VREDXOR (R390): XOR reduction. -/
  | vredxor (f : LongFields)
  /-- VLD (R399): Strided or packed vector load. -/
  | vld (f : LongFields)
  /-- VLDFF (R400): Fault-first load that trims p0. -/
  | vldff (f : LongFields)
  /-- VGATHER (R401): Indexed load. -/
  | vgather (f : LongFields)
  /-- VST (R402): Strided or packed store, with optional progress adds. -/
  | vst (f : LongFields)
  /-- VSCATTER (R403): Indexed store. -/
  | vscatter (f : LongFields)
  /-- VRRED (R404): Contributes elements into A128 words. -/
  | vrred (f : LongFields)
  /-- VAMOADD (R405): Atomic add of elements into memory. -/
  | vamoadd (f : LongFields)
  /-- VLDACC (R406): Reads and converts accumulators or A128 words. -/
  | vldacc (f : LongFields)
  /-- SAMO_LOAD (R408): Scoped load. -/
  | samoLoad (f : LongFields)
  /-- SAMO_STORE (R408): Scoped store. -/
  | samoStore (f : LongFields)
  /-- SAMO_ADD (R408): Scoped atomic add. -/
  | samoAdd (f : LongFields)
  /-- SAMO_SWAP (R408): Scoped atomic swap. -/
  | samoSwap (f : LongFields)
  /-- SAMO_AND (R408): Scoped atomic AND. -/
  | samoAnd (f : LongFields)
  /-- SAMO_OR (R408): Scoped atomic OR. -/
  | samoOr (f : LongFields)
  /-- SAMO_XOR (R408): Scoped atomic XOR. -/
  | samoXor (f : LongFields)
  /-- SAMO_MIN (R408): Scoped atomic signed minimum. -/
  | samoMin (f : LongFields)
  /-- SAMO_MAX (R408): Scoped atomic signed maximum. -/
  | samoMax (f : LongFields)
  /-- SAMO_MINU (R408): Scoped atomic unsigned minimum. -/
  | samoMinu (f : LongFields)
  /-- SAMO_MAXU (R408): Scoped atomic unsigned maximum. -/
  | samoMaxu (f : LongFields)
  /-- SAMO_CAS (R408): Scoped compare-and-swap. -/
  | samoCas (f : LongFields)
  /-- BFMT_FORMAT (R424): OP 0: sets a format context's input pair and anchor. -/
  | bfmtFormat (f : LongFields)
  /-- BFMT_ROW_SCALES (R424): OP 1: loads the 256 row scales. -/
  | bfmtRowScales (f : LongFields)
  /-- BFMT_COLUMN_SCALES (R424): OP 2: loads the 64 column scales. -/
  | bfmtColumnScales (f : LongFields)
  /-- BLS (R425): Loads the shadow weight plane from a W buffer. -/
  | bls (f : LongFields)
  /-- BSWAP (R426): Makes the shadow plane active. -/
  | bswap (f : LongFields)
  /-- BSTREAM (R427): Streams activation rows past the active plane into accumulators. -/
  | bstream (f : LongFields)
  /-- BCLR (R429): Clears the accumulators of the masked columns. -/
  | bclr (f : LongFields)
  /-- BSTAT (R431): Reads, and optionally clears, a format context's status. -/
  | bstat (f : LongFields)
  /-- BSYNC (R430): Sends a token after earlier Bench work. -/
  | bsync (f : LongFields)
  /-- BSAVE (R432): Saves a format context to memory. -/
  | bsave (f : LongFields)
  /-- BRSTR (R432): Restores a format context from memory. -/
  | brstr (f : LongFields)
  /-- VTEX (R436): Samples a texture with quad derivatives. -/
  | vtex (f : LongFields)
  /-- VTEXLOD (R436): Samples a texture at an explicit lambda. -/
  | vtexlod (f : LongFields)
  /-- RQ (R437): Closest-hit ray query. -/
  | rq (f : LongFields)
  /-- RQANY (R437): Any-hit ray query. -/
  | rqany (f : LongFields)
  /-- XPAIR (R439): Dual-hierarchy pair traversal into a ring, resumable after PARTIAL. -/
  | xpair (f : LongFields)
  /-- AGPUSH (R440): Releases, then pushes or stages a record into a list queue bin, optionally closing it. -/
  | agpush (f : LongFields)
  /-- AGPOP (R441): Pops a q6 record and stores it to memory. -/
  | agpop (f : LongFields)
  /-- LOAD_DATA_RETURN (R4): A load's data arrive and fill its destination register. -/
  | loadDataReturn (hart : Nat) (rd : Reg)
  /-- POSTED_ENTRY_TIMEOUT (R220): A posted-store buffer entry is sent at the latest 32 cycles after its creation. -/
  | postedEntryTimeout (core entry : Nat)
  /-- POSTED_STORE_ACK (R241): The destination performs a posted store and acknowledges it, and the class count falls. -/
  | postedStoreAck (core entry : Nat)
  /-- VECTOR_EXECUTE (R371): The vector instruction queue executes its head instruction: it performs elements or retires by reuse, writes results or takes faults. -/
  | vectorExecute (core : Nat)
  /-- HOIST_REQUEST_START (R412): The Hoist starts a request, translates its counter and writes it piece by piece. -/
  | hoistRequestStart (core request : Nat)
  /-- HOIST_REQUEST_COMPLETE (R413): A completed request adds 1 to its counter and places its token in q7. -/
  | hoistRequestComplete (core request : Nat)
  /-- BENCH_EXECUTE (R420): The Bench executes its oldest accepted instruction, in acceptance order. -/
  | benchExecute (cluster : Nat)
  /-- WAIT_RELEASE (R170): A waiting context's condition is satisfied, and it becomes eligible. -/
  | waitRelease (hart : Nat)
  /-- INTERRUPT_ENTRY (R269): An enabled pending interrupt is taken at the context's next slot boundary. -/
  | interruptEntry (hart : Nat)
  /-- ROUTER_FORWARD (R254): Once earlier accesses are acknowledged, the router forwards the parked release in parking order. -/
  | routerForward (cluster entry : Nat)
  /-- SCRATCH_LOCK_LEASE_EXPIRY (R173): A bank lock's 64-cycle lease expires; the lock lapses and passes on. -/
  | scratchLockLeaseExpiry (core bank : Nat)
  /-- CORE_TIMER_EXPIRY (R268): cycle reaches ktimecmp, and interrupt 16 becomes pending. -/
  | coreTimerExpiry (hart : Nat)
  /-- WAIT_SATISFIED (R75): A WAIT completes when a read returns a counter at or above its value. -/
  | waitSatisfied (fn q : Nat)
  /-- ADMIT_POPULATION (R110): The admission owner admits the head of the most urgent list once its counter slot, stack window, gang identifier and placement are available. -/
  | admitPopulation (partition : Nat)
  /-- LAUNCH_RECORD_WRITE (R113): A launch record is written into a core's sub-queue once that sub-queue has room. -/
  | launchRecordWrite (partition : Nat)
  /-- POPULATION_COMPLETE (R115): A completion counter reaches count; the owner performs the done_counter add and frees the population's resources. -/
  | populationComplete (partition popid : Nat)
  /-- GRAPH_NODE_START (R82): A POP, COPY, WAIT or ADD node starts once its dependencies are complete, and acts as the packet of its kind. -/
  | graphNodeStart (graph node : Nat)
  /-- COND_NODE (R82): A COND node reads its counter as an acquire, and either completes or re-arms the graph. -/
  | condNode (graph node : Nat)
  /-- BATCH_FORM (R123): A ready bin forms a batch, advances HEAD and hands a TEMPLATE population to the admission owner. -/
  | batchForm (queue bin : Nat)
  /-- QUEUE_FINISH (R124): A closed, empty list queue with its populations complete closes DOWN, adds to DONE and sets FINISHED. -/
  | queueFinish (queue : Nat)
  /-- GRAPH_PASS_REARM (R82): Once a re-armed pass's work is complete, the queues detach, the nodes reset and a new pass begins. -/
  | graphPassRearm (graph : Nat)
  /-- GRAPH_END (R82): A graph ends when a pass and its populations are complete, and its done_counter add follows. -/
  | graphEnd (graph : Nat)
  /-- COLD_RESET (R31): A cold reset starts command core 0 of I/O die 8 in M-mode at the boot ROM, and each boot stage verifies and measures the next before handing over control. -/
  | coldReset (images : List BootImage)
  /-- RECOVERY_IMAGE_UPLOAD (R34): In recovery, the PF uploads a new signed image through capability 0x0021. -/
  | recoveryImageUpload (fn : Nat) (image : BootImage)
  /-- ATTESTATION_QUOTE_REQUEST (R35): On request from the PF or a VF, the monitor returns a quote signed with the attestation key. -/
  | attestationQuoteRequest (fn : Nat) (nonce : BitVec 256)
  /-- IDENTITY_CERTIFICATE_REQUEST (R35): On request, capability 0x0020 returns Kwedrisyn's certificate of the identity key. -/
  | identityCertificateRequest (fn : Nat)
  /-- POWER_EVALUATION (R14): Every 20 us, a compute die's power controller compares power and temperature with its limits, and lowers the arithmetic clock by one step or raises it by at most one step per millisecond. -/
  | powerEvaluation (die milliwatts tjC : Nat)
  /-- THERMAL_SHUTDOWN (R15): A junction temperature of 115 C makes I/O die 8 hold every die in reset and report a fatal error until power is cycled. -/
  | thermalShutdown (die tjC : Nat)
  /-- LINK_CRC_REPLAY (R28): A flit whose link CRC fails is replayed up to 8 times, after which the link retrains and replays again. -/
  | linkCrcReplay (die failures : Nat)
  /-- HAUL_LANE_RETRAIN (R22): A haul port whose lanes fail retrains to 4 lanes and reports the change in its port status. -/
  | haulLaneRetrain (port : Nat)
  /-- HOST_BAR4_READ (R264): A host read through BAR 4 is served inside the device's memory system; a read of a failing sector completes with Completer Abort. -/
  | hostBar4Read (fn : Nat) (addr : Word) (bytes tag : Nat)
  /-- HOST_BAR4_WRITE (R37): A host write through BAR 4 reaches device memory; a write that fails ECRC, or that targets a frozen region, is discarded and reported through AER. -/
  | hostBar4Write (fn : Nat) (addr : Word) (data : List Byte) (ecrcOk poisoned : Bool)
  /-- HOST_COMPLETION_TIMEOUT (R4): A host read that reaches the completion timeout makes its load take cause 5. -/
  | hostCompletionTimeout (hart : Nat)
  /-- ROUTE_TABLE_WRITE (R24): The PF writes a route-table entry for a port that carries no traffic. -/
  | routeTableWrite (fn dev port : Nat) (valid : Bool)
  /-- NOTIFY_WRITE (R48): A write of TAIL to a notify register is accepted, discarded or put into the error state. -/
  | notifyWrite (fn q : Nat) (value : Word32)
  /-- FUNC_EN_WRITE (R47): A write to FUNC_EN enables or disables notify writes, and a write of 1 clears DROPS. -/
  | funcEnWrite (fn : Nat) (value : Word32)
  /-- QUEUE_ENABLE_WRITE (R48): A write of EN = 1 is refused on a bad QBASE, SIZE or QWB; otherwise it resets HEAD and TAIL and assigns a command core. -/
  | queueEnableWrite (fn q : Nat) (value : Word32)
  /-- REGISTER_WRITE (R47): A write to a control register without behaviour of its own stores the value, or is ignored where the register's rules forbid it. -/
  | registerWrite (fn addr bytes : Nat) (value : Word)
  /-- PLUGIN_LOAD (R65): A write of PLUGIN_LOAD = 1 copies the image, clears the data region, extends MR4 and sets PLUGIN_ACTIVE. -/
  | pluginLoad (fn : Nat)
  /-- PLUGIN_CALL (R64): The scheduler calls the plug-in with the summary page and uses the queue and priority that it returns. -/
  | pluginCall (partition : Nat) (a0 a1 : Word)
  /-- PLUGIN_TIMEOUT (R63): A plug-in run longer than 10,000 command-core cycles ends as a fault, and the default choice applies. -/
  | pluginTimeout (partition : Nat)
  /-- FUNCTION_LEVEL_RESET (R51): A VF FLR disables its queues and drops or kills its accepted packets. -/
  | functionLevelReset (fn : Nat)
  /-- FLR_KILL_TIMEOUT (R52): A VF kill not complete within 100 ms of the FLR resets the partition. -/
  | flrKillTimeout (fn : Nat)
  /-- FLIP (R54): A FLIP write latches the surface and settings into a flip slot, or is refused and counted. -/
  | flip (fn head : Nat) (seq : Word32)
  /-- ENCODE_SLOT (R55): At each 4 us slot, an AV1 engine serves one accepted flip, writes frame records and advances DONE. -/
  | encodeSlot (engine : Nat)
  /-- FREEZE_WRITE (R59): A PF write of FREEZE = 1 performs earlier writes, writes back and discards cached copies and clears BUSY; a write of 0 is ignored while any partition holds the region. -/
  | freezeWrite (fn region : Nat) (freeze : Bool)
  /-- TLB_INVALIDATE_PAGE (R238): A GO write invalidates INVVA across the function's cores. -/
  | tlbInvalidatePage (fn : Nat)
  /-- TLB_INVALIDATE_ALL (R238): A GO write with ALL invalidates every VA of the function's ASID. -/
  | tlbInvalidateAll (fn : Nat)
  /-- TLB_INVALIDATE_STAGE2 (R238): A PF GO write with STAGE2 invalidates partition PSEL's second-stage entries and records frame owners, or sets REFUSED. -/
  | tlbInvalidateStage2 (fn : Nat) (psel : Nat)
  /-- POPULATE (R72): A POPULATE packet starts and is handed to the admission owner. -/
  | populate (fn q : Nat)
  /-- GRAPH (R81): A GRAPH packet reads its node table once and starts pass 1. -/
  | graph (fn q : Nat)
  /-- COPY (R76): A COPY packet copies or fills a range in indivisible 128-byte units, then adds to its done_counter. -/
  | copy (fn q : Nat)
  /-- WAIT (R75): A WAIT packet registers as a waiter on a counter and reads it with acquires. -/
  | wait (fn q : Nat)
  /-- ADD_PACKET (R79): An ADD packet adds to a counter as a release and may post a coalescing event. -/
  | addPacket (fn q : Nat)
  /-- PATCH (R80): A PATCH writes every text replica, invalidates instruction caches, releases and adds to its done_counter. -/
  | patch (fn q : Nat)
  /-- FENCE_PACKET (R79): A FENCE packet performs a release at its scope once earlier packets are complete. -/
  | fencePacket (fn q : Nat)
  /-- KILL (R83): A KILL drops queued packets, stops started work, aborts Hoist requests, waits for writes and adds to its done_counter. -/
  | kill (fn q : Nat)
  /-- KILL_TIMEOUT (R83): A KILL not complete within 100 ms resets the partition. -/
  | killTimeout (fn q : Nat)
  /-- CUT_CHECKPOINT (R84): A mode-0 CUT takes a consistent cut, writes the image and resumes. -/
  | cutCheckpoint (fn q : Nat)
  /-- CUT_STOP (R84): A mode-1 CUT takes a cut, writes the image and frees the contexts. -/
  | cutStop (fn q : Nat)
  /-- CUT_RESTORE (R84): A mode-2 CUT restores an image onto the partition and completes when the work resumes. -/
  | cutRestore (fn q : Nat)
  /-- HOSTINT (R87): A HOSTINT packet optionally loads the coalescing settings, writes its status as a system-scope release and posts an event. -/
  | hostint (fn q : Nat)
  /-- NOP (R75): A NOP packet is complete at its start. -/
  | nop (fn q : Nat)
  /-- RESIZE (R44): A RESIZE validates its descriptor, cuts the affected clusters, moves state, re-homes lines, resumes and writes its status. -/
  | resize (fn q : Nat)
  /-- WATCHDOG_EXPIRY (R85): A packet that exceeds WDT x 1,024 command-core cycles is killed, and its queue enters QSTATE 3 with ERR = 6. -/
  | watchdogExpiry (fn q seqNo : Nat)
  /-- SAVE_TIMEOUT (R85): A save not ended 1,000,000 command-core cycles after a watchdog expiry resets the partition. -/
  | saveTimeout (fn q seqNo : Nat)
  /-- COALESCE_TIMER_EXPIRY (R87): A vector's coalescing timer reaches its limit, and the vector fires. -/
  | coalesceTimerExpiry (fn vec : Nat)
  /-- AGENT_NODE (R122): An AGENT node attaches its list queues and takes ownership of its unit instance. -/
  | agentNode (graph node : Nat)
  /-- FLUSH_EXPIRY (R123): A bin's oldest record has waited FLUSH cycles, and a partial batch forms. -/
  | flushExpiry (queue bin : Nat)
  /-- MESH_DISTRIBUTE (R131): The mesh distributor takes a DRAW record and pushes MESHLET records in triangle order. -/
  | meshDistribute (graph node : Nat)
  /-- RASTERISE (R133): A rasteriser takes a TRI record and emits BLOCK records into tile bins. -/
  | rasterise (graph node bin : Nat)
  /-- BLEND (R134): A blend unit takes a COLOUR record, then depth-tests, blends and rounds the covered pixels. -/
  | blend (graph node bin : Nat)
  /-- RAY_TRAVERSAL (R149): A Gallery takes a RAY record, traverses the hierarchy and pushes a HIT record. -/
  | rayTraversal (graph node bin : Nat)
  /-- OPTIMISER_CHANGE (R145): The optimiser claims EPOCH, performs one rotation or re-insertion in locked order, and releases EPOCH. -/
  | optimiserChange (cluster : Nat) (root : Word) (change : OptChange)
  /-- PREEMPT_REQUEST (R116): A population that has waited PREWAIT cycles has victims chosen, save slots reserved and interrupt 18 sent. -/
  | preemptRequest (partition : Nat) (victims : List Nat)
  /-- HARD_PREEMPT_CUT (R119): A victim without a trapping SETVL 240,000 cycles after its request is taken by a cut of its cluster. -/
  | hardPreemptCut (partition cluster : Nat)
  /-- PREEMPT_RESTORE (R118): A saved thread is restored from its save record when its population is placed again. -/
  | preemptRestore (partition slot hart : Nat)
  /-- CUT_ARM (R284): The arm command sets kcut.ARM; the unit stops issue, drains and sends markers. -/
  | cutArm (unit : Nat)
  /-- CUT_MARKER_ARRIVAL (R284): A marker arrives on an input channel; earlier peer arrivals on that channel are logged. -/
  | cutMarkerArrival (core channel : Nat)
  /-- CUT_RESUME (R287): Timers are rebased, logged arrivals are delivered, REC is cleared and STATE returns to 1. -/
  | cutResume (partition : Nat)
  /-- SLACQ (R172): An 8-byte load of SLACQ waits for the bank lock, then grants it and returns 1. -/
  | slacq (hart bank : Nat) (rd : Reg)
  /-- SLREL (R172): An 8-byte load of SLREL releases the lock, returning 1 if it was held and 0 otherwise. -/
  | slrel (hart bank : Nat) (rd : Reg)
  /-- DIRECTORY_RECORD_POP (R225): A load of the LINE register pops an overflow record. -/
  | directoryRecordPop (core : Nat) (rd : Reg)
  /-- DIRECTORY_INVALIDATE (R225): A store sends an invalidation of LINE to CORE and completes on its acknowledgement. -/
  | directoryInvalidate (core : Nat) (value : Word)
  /-- DIRECTORY_DONE (R226): A store to DONE lets the slice clear OVF and perform the held write. -/
  | directoryDone (core : Nat) (value : Word)
  /-- ROUTER_RECORD_POP (R255): A context-0 load pops the oldest parked-release record of its core. -/
  | routerRecordPop (core : Nat) (rd : Reg)
  /-- ROUTER_WIDEN (R254): A store to WIDEN asks the core for acknowledgement of the context's earlier accesses. -/
  | routerWiden (core : Nat) (value : Word)
  /-- DEBUG_HALT_REQUEST (R290): A halt request stops and drains a core, clears its reuse table and sets allhalted. -/
  | debugHaltRequest (core : Nat)
  /-- DEBUG_RESUME_REQUEST (R290): A resume request restarts the halted core. -/
  | debugResumeRequest (core : Nat)
  /-- DEBUG_SINGLE_STEP (R292): A step retires at most one instruction, or takes one trap, and halts again. -/
  | debugSingleStep (hart : Nat)
  /-- DEBUG_ACCESS_REGISTER (R291): An Access Register command reads or writes an x register or a CSR of a halted context. -/
  | debugAccessRegister (hart regno : Nat) (write : Bool) (value : Word)
  /-- DEBUG_PROGRAM_BUFFER (R291): Program-buffer instructions run in debug mode, and an exception sets cmderr to 3. -/
  | debugProgramBuffer (hart : Nat)
  /-- REMOTE_DEVICE_ACCESS (R23): A load, store or A128 contribution from another K3 arrives over a haul link and is performed at this device's home, which then acknowledges or replies. -/
  | remoteDeviceAccess (access : RemoteAccess)
  /-- HOST_ERROR_COMPLETION (R4): A host read completes with Unsupported Request or Completer Abort, and the load takes cause 5 at the element or access concerned. -/
  | hostErrorCompletion (hart : Nat) (abort : Bool)
  /-- MSIX_UNMASK (R87): The host unmasks an MSI-X vector whose PCIe pending bit is set, and the device then sends the message it kept. -/
  | msixUnmask (fn vec : Nat)
  /-- PAGE_REQUEST_RESPONSE (R234): The host answers a Page Request that the device sent through PRI, after which a retried access to that HOST page is no longer refused for lack of an answer. -/
  | pageRequestResponse (fn : Nat) (page : Nat) (granted : Bool)
  /-- CONFIGURATION_REQUEST (R52): A configuration request reaches a function, and a VF whose FLR kill is not yet complete answers it with Request Retry Status. -/
  | configurationRequest (fn tag : Nat)
  /-- HOST_LINK_TRAINING (R36): The host link trains, or retrains, to a width and a data rate from x16 at 128 GT/s down to x1 at any earlier PCIe rate. -/
  | hostLinkTraining (width gts : Nat)
  /-- PF_FUNCTION_LEVEL_RESET (R52): A PF FLR disables every VF, kills all work and restores the partition table. -/
  | pfFunctionLevelReset
  /-- FORWARDED_PACKET_ACCEPT (R68): The Weighbridge processor checks a forwarded POPULATE against the Sieve and places it in the target inbox, or makes it a bad packet. -/
  | forwardedPacketAccept
  /-- FENCE_TSO (R346): Acts as FENCE.S both at system scope. -/
  | fenceTso
  /-- FENCE_I (R346): Orders this core's fetches after its stores and invalidates its instruction cache. -/
  | fenceI
  /-- ECALL (R349): Cause 8 from U-mode, or cause 9 from S-mode to the monitor. -/
  | ecall
  /-- EBREAK (R349): Debug entry or cause 3. -/
  | ebreak
  /-- SRET (R350): Return from S-mode: clears HND, applies resume, retries stopped copies. -/
  | sret
  /-- MRET (R350): Return from M-mode. -/
  | mret
  /-- WFI (R349): Wait until an interrupt is pending. -/
  | wfi
  /-- TEXIT (R358): Leaves the gang, releases locks, sends an exit notice and sets the context EXITED. -/
  | texit
deriving DecidableEq, Repr

end Sys2Proof
end

