-- ==== Sys2Proof/WellFormed.lean ====
section
/-! DEFINITION. Which instructions are well formed: the field rules of the long format (13 R321, R322, R327–R329) and the
field ranges of the short format (13 R330). A word whose instruction is not well formed is an illegal instruction. -/

namespace Sys2Proof

/-- What a register field of a long instruction holds (13 R321). -/
inductive FieldClass where
  | none | v | x | p | imm
deriving DecidableEq, Repr

/-- The element types an instruction permits (13 R325). -/
inductive TySet where
  | any | ints | floats | zero | f32
deriving DecidableEq, Repr

/-- What imm6 holds (13 R325, R327–R329). -/
inductive ImmClass where
  | zero | free | upTo (n : Nat) | exactly (n : Nat) | cvt | cmp | samo
deriving DecidableEq, Repr

/-- A row of the long-format opcode map (13 R325): the op10 value, the class of each register field, the permitted types,
the use of imm6, the optional fields (m, P, R, S, A, N, W), the operand groups of the rendering instructions (R435),
the kind that pg holds for SAMO (R329), the direction that ax fixes for VMMOV (R326), and whether nt makes c a
progress-word register (VST, R324). -/
structure LongSpec where
  op : Nat
  d : FieldClass
  a : FieldClass
  b : FieldClass
  c : FieldClass
  ty : TySet
  imm : ImmClass
  m : Bool := false
  p : Bool := false
  r : Bool := false
  s : Bool := false
  axf : Bool := false
  ntf : Bool := false
  wf : Bool := false
  dGroup : Nat := 0
  bGroup : Nat := 0
  pgKind : Option Nat := Option.none
  axIs : Option Bool := Option.none
  progress : Bool := false
deriving DecidableEq, Repr

/-- The row of R325 of a long instruction, and its fields; none for a 32-bit instruction or an event. -/
def Instr.long? : Instr → Option (LongFields × LongSpec)
  | .setvl f => some (f, { op := 0x000, d := .x, a := .x, b := .x, c := .none, ty := .any, imm := .zero })
  | .vmv f => some (f, { op := 0x001, d := .v, a := .v, b := .none, c := .none, ty := .any, imm := .zero, m := true })
  | .vbcast f => some (f, { op := 0x002, d := .v, a := .x, b := .none, c := .none, ty := .any, imm := .zero, m := true })
  | .vext f => some (f, { op := 0x003, d := .x, a := .v, b := .x, c := .none, ty := .any, imm := .zero })
  | .vins f => some (f, { op := 0x004, d := .v, a := .x, b := .x, c := .none, ty := .any, imm := .zero })
  | .vsel f => some (f, { op := 0x005, d := .v, a := .v, b := .v, c := .p, ty := .any, imm := .zero, m := true })
  | .viota f => some (f, { op := 0x006, d := .v, a := .none, b := .none, c := .none, ty := .ints, imm := .zero, m := true, axf := true })
  | .vslide f => some (f, { op := 0x007, d := .v, a := .v, b := .x, c := .none, ty := .any, imm := .zero, m := true, axf := true })
  | .vshuf f => some (f, { op := 0x008, d := .v, a := .v, b := .v, c := .none, ty := .any, imm := .zero, m := true, axf := true })
  | .vtrn f => some (f, { op := 0x009, d := .v, a := .v, b := .none, c := .none, ty := .any, imm := .zero, m := true })
  | .vhash f => some (f, { op := 0x00A, d := .x, a := .v, b := .none, c := .none, ty := .any, imm := .zero })
  | .vsave f => some (f, { op := 0x00C, d := .v, a := .x, b := .none, c := .imm, ty := .zero, imm := .free, wf := true })
  | .vrstr f => some (f, { op := 0x00D, d := .v, a := .x, b := .none, c := .imm, ty := .zero, imm := .free, wf := true })
  | .vadd f => some (f, { op := 0x040, d := .v, a := .v, b := .v, c := .none, ty := .ints, imm := .zero, m := true, p := true, s := true })
  | .vsub f => some (f, { op := 0x041, d := .v, a := .v, b := .v, c := .none, ty := .ints, imm := .zero, m := true, p := true, s := true })
  | .vmul f => some (f, { op := 0x042, d := .v, a := .v, b := .v, c := .none, ty := .ints, imm := .zero, m := true, p := true, s := true })
  | .vmulh f => some (f, { op := 0x043, d := .v, a := .v, b := .v, c := .none, ty := .ints, imm := .zero, m := true, p := true })
  | .vmulhu f => some (f, { op := 0x044, d := .v, a := .v, b := .v, c := .none, ty := .ints, imm := .zero, m := true, p := true })
  | .vdiv f => some (f, { op := 0x046, d := .v, a := .v, b := .v, c := .none, ty := .ints, imm := .zero, m := true, p := true })
  | .vdivu f => some (f, { op := 0x047, d := .v, a := .v, b := .v, c := .none, ty := .ints, imm := .zero, m := true, p := true })
  | .vrem f => some (f, { op := 0x048, d := .v, a := .v, b := .v, c := .none, ty := .ints, imm := .zero, m := true, p := true })
  | .vremu f => some (f, { op := 0x049, d := .v, a := .v, b := .v, c := .none, ty := .ints, imm := .zero, m := true, p := true })
  | .vmin f => some (f, { op := 0x04A, d := .v, a := .v, b := .v, c := .none, ty := .ints, imm := .zero, m := true, p := true })
  | .vminu f => some (f, { op := 0x04B, d := .v, a := .v, b := .v, c := .none, ty := .ints, imm := .zero, m := true, p := true })
  | .vmax f => some (f, { op := 0x04C, d := .v, a := .v, b := .v, c := .none, ty := .ints, imm := .zero, m := true, p := true })
  | .vmaxu f => some (f, { op := 0x04D, d := .v, a := .v, b := .v, c := .none, ty := .ints, imm := .zero, m := true, p := true })
  | .vand f => some (f, { op := 0x04E, d := .v, a := .v, b := .v, c := .none, ty := .ints, imm := .zero, m := true, p := true })
  | .vor f => some (f, { op := 0x04F, d := .v, a := .v, b := .v, c := .none, ty := .ints, imm := .zero, m := true, p := true })
  | .vxor f => some (f, { op := 0x050, d := .v, a := .v, b := .v, c := .none, ty := .ints, imm := .zero, m := true, p := true })
  | .vsll f => some (f, { op := 0x051, d := .v, a := .v, b := .v, c := .none, ty := .ints, imm := .zero, m := true, p := true, s := true })
  | .vsrl f => some (f, { op := 0x052, d := .v, a := .v, b := .v, c := .none, ty := .ints, imm := .zero, m := true, p := true })
  | .vsra f => some (f, { op := 0x053, d := .v, a := .v, b := .v, c := .none, ty := .ints, imm := .zero, m := true, p := true })
  | .vmadd f => some (f, { op := 0x045, d := .v, a := .v, b := .v, c := .v, ty := .ints, imm := .zero, m := true, p := true, s := true })
  | .vabs f => some (f, { op := 0x054, d := .v, a := .v, b := .none, c := .none, ty := .ints, imm := .zero, m := true, s := true })
  | .vclz f => some (f, { op := 0x055, d := .v, a := .v, b := .none, c := .none, ty := .ints, imm := .zero, m := true })
  | .vpopc f => some (f, { op := 0x056, d := .v, a := .v, b := .none, c := .none, ty := .ints, imm := .zero, m := true })
  | .vaddi f => some (f, { op := 0x057, d := .v, a := .v, b := .none, c := .none, ty := .ints, imm := .free, m := true, s := true })
  | .vfadd f => some (f, { op := 0x080, d := .v, a := .v, b := .v, c := .none, ty := .floats, imm := .zero, m := true, p := true, r := true, s := true })
  | .vfsub f => some (f, { op := 0x081, d := .v, a := .v, b := .v, c := .none, ty := .floats, imm := .zero, m := true, p := true, r := true, s := true })
  | .vfmul f => some (f, { op := 0x082, d := .v, a := .v, b := .v, c := .none, ty := .floats, imm := .zero, m := true, p := true, r := true, s := true })
  | .vfdiv f => some (f, { op := 0x084, d := .v, a := .v, b := .v, c := .none, ty := .floats, imm := .zero, m := true, p := true, r := true, s := true })
  | .vfma f => some (f, { op := 0x083, d := .v, a := .v, b := .v, c := .v, ty := .floats, imm := .upTo 3, m := true, p := true, r := true, s := true })
  | .vfsqrt f => some (f, { op := 0x085, d := .v, a := .v, b := .none, c := .none, ty := .floats, imm := .zero, m := true, r := true, s := true })
  | .vfrcp f => some (f, { op := 0x086, d := .v, a := .v, b := .none, c := .none, ty := .floats, imm := .zero, m := true, r := true, s := true })
  | .vfrsqrt f => some (f, { op := 0x087, d := .v, a := .v, b := .none, c := .none, ty := .floats, imm := .zero, m := true, r := true, s := true })
  | .vfexp2 f => some (f, { op := 0x08A, d := .v, a := .v, b := .none, c := .none, ty := .floats, imm := .zero, m := true, r := true, s := true })
  | .vflog2 f => some (f, { op := 0x08B, d := .v, a := .v, b := .none, c := .none, ty := .floats, imm := .zero, m := true, r := true, s := true })
  | .vfsinpi f => some (f, { op := 0x08C, d := .v, a := .v, b := .none, c := .none, ty := .floats, imm := .zero, m := true, r := true, s := true })
  | .vfcospi f => some (f, { op := 0x08D, d := .v, a := .v, b := .none, c := .none, ty := .floats, imm := .zero, m := true, r := true, s := true })
  | .vftanh f => some (f, { op := 0x08E, d := .v, a := .v, b := .none, c := .none, ty := .floats, imm := .zero, m := true, r := true, s := true })
  | .vfmin f => some (f, { op := 0x088, d := .v, a := .v, b := .v, c := .none, ty := .floats, imm := .zero, m := true, p := true })
  | .vfmax f => some (f, { op := 0x089, d := .v, a := .v, b := .v, c := .none, ty := .floats, imm := .zero, m := true, p := true })
  | .vfabs f => some (f, { op := 0x08F, d := .v, a := .v, b := .none, c := .none, ty := .floats, imm := .zero, m := true })
  | .vfneg f => some (f, { op := 0x090, d := .v, a := .v, b := .none, c := .none, ty := .floats, imm := .zero, m := true })
  | .vfclass f => some (f, { op := 0x091, d := .v, a := .v, b := .none, c := .none, ty := .floats, imm := .zero, m := true })
  | .vfsgnj f => some (f, { op := 0x092, d := .v, a := .v, b := .v, c := .none, ty := .floats, imm := .exactly 0, m := true, p := true })
  | .vfsgnjn f => some (f, { op := 0x092, d := .v, a := .v, b := .v, c := .none, ty := .floats, imm := .exactly 1, m := true, p := true })
  | .vfsgnjx f => some (f, { op := 0x092, d := .v, a := .v, b := .v, c := .none, ty := .floats, imm := .exactly 2, m := true, p := true })
  | .vcvt f => some (f, { op := 0x0C0, d := .v, a := .v, b := .x, c := .none, ty := .any, imm := .cvt, m := true, r := true, s := true })
  | .vcmp f => some (f, { op := 0x0E0, d := .p, a := .v, b := .v, c := .none, ty := .any, imm := .cmp, m := true })
  | .vmand f => some (f, { op := 0x0E1, d := .p, a := .p, b := .p, c := .none, ty := .zero, imm := .zero })
  | .vmor f => some (f, { op := 0x0E2, d := .p, a := .p, b := .p, c := .none, ty := .zero, imm := .zero })
  | .vmxor f => some (f, { op := 0x0E3, d := .p, a := .p, b := .p, c := .none, ty := .zero, imm := .zero })
  | .vmandn f => some (f, { op := 0x0E4, d := .p, a := .p, b := .p, c := .none, ty := .zero, imm := .zero })
  | .vmnot f => some (f, { op := 0x0E5, d := .p, a := .p, b := .none, c := .none, ty := .zero, imm := .zero })
  | .vmsbf f => some (f, { op := 0x0E9, d := .p, a := .p, b := .none, c := .none, ty := .zero, imm := .zero })
  | .vmpush f => some (f, { op := 0x0E6, d := .none, a := .p, b := .none, c := .none, ty := .zero, imm := .zero })
  | .vmelse f => some (f, { op := 0x0E7, d := .none, a := .none, b := .none, c := .none, ty := .zero, imm := .zero })
  | .vmpop f => some (f, { op := 0x0E8, d := .none, a := .none, b := .none, c := .none, ty := .zero, imm := .zero })
  | .vmpopc f => some (f, { op := 0x0EA, d := .x, a := .p, b := .none, c := .none, ty := .zero, imm := .zero })
  | .vmfirst f => some (f, { op := 0x0EB, d := .x, a := .p, b := .none, c := .none, ty := .zero, imm := .zero })
  | .vmmovToPredicate f => some (f, { op := 0x0EC, d := .p, a := .none, b := .none, c := .none, ty := .zero, imm := .upTo 50, axIs := some false })
  | .vmmovToMask f => some (f, { op := 0x0EC, d := .none, a := .p, b := .none, c := .none, ty := .zero, imm := .upTo 50, axf := true, axIs := some true })
  | .vredsum f => some (f, { op := 0x100, d := .v, a := .v, b := .none, c := .none, ty := .any, imm := .zero, m := true, r := true, s := true, axf := true })
  | .vredmin f => some (f, { op := 0x101, d := .v, a := .v, b := .none, c := .none, ty := .any, imm := .zero, m := true, axf := true })
  | .vredmax f => some (f, { op := 0x102, d := .v, a := .v, b := .none, c := .none, ty := .any, imm := .zero, m := true, axf := true })
  | .vredand f => some (f, { op := 0x103, d := .v, a := .v, b := .none, c := .none, ty := .ints, imm := .zero, m := true, axf := true })
  | .vredor f => some (f, { op := 0x104, d := .v, a := .v, b := .none, c := .none, ty := .ints, imm := .zero, m := true, axf := true })
  | .vredxor f => some (f, { op := 0x105, d := .v, a := .v, b := .none, c := .none, ty := .ints, imm := .zero, m := true, axf := true })
  | .vld f => some (f, { op := 0x140, d := .v, a := .x, b := .x, c := .imm, ty := .any, imm := .free, m := true, ntf := true, wf := true })
  | .vldff f => some (f, { op := 0x141, d := .v, a := .x, b := .x, c := .imm, ty := .any, imm := .free, m := true, ntf := true, wf := true })
  | .vgather f => some (f, { op := 0x142, d := .v, a := .x, b := .v, c := .imm, ty := .any, imm := .free, m := true, ntf := true, wf := true })
  | .vst f => some (f, { op := 0x143, d := .v, a := .x, b := .x, c := .imm, ty := .any, imm := .free, m := true, ntf := true, wf := true, progress := true })
  | .vscatter f => some (f, { op := 0x144, d := .v, a := .x, b := .v, c := .imm, ty := .any, imm := .free, m := true, wf := true })
  | .vrred f => some (f, { op := 0x145, d := .v, a := .x, b := .v, c := .imm, ty := .any, imm := .free, m := true, wf := true })
  | .vamoadd f => some (f, { op := 0x146, d := .v, a := .x, b := .v, c := .imm, ty := .any, imm := .free, m := true, wf := true })
  | .vldacc f => some (f, { op := 0x147, d := .v, a := .x, b := .x, c := .imm, ty := .any, imm := .free, m := true, r := true, wf := true })
  | .samoLoad f => some (f, { op := 0x148, d := .x, a := .x, b := .none, c := .none, ty := .ints, imm := .samo, wf := true, pgKind := some 0 })
  | .samoStore f => some (f, { op := 0x148, d := .none, a := .x, b := .x, c := .none, ty := .ints, imm := .samo, wf := true, pgKind := some 1 })
  | .samoAdd f => some (f, { op := 0x148, d := .x, a := .x, b := .x, c := .none, ty := .ints, imm := .samo, wf := true, pgKind := some 2 })
  | .samoSwap f => some (f, { op := 0x148, d := .x, a := .x, b := .x, c := .none, ty := .ints, imm := .samo, wf := true, pgKind := some 3 })
  | .samoAnd f => some (f, { op := 0x148, d := .x, a := .x, b := .x, c := .none, ty := .ints, imm := .samo, wf := true, pgKind := some 4 })
  | .samoOr f => some (f, { op := 0x148, d := .x, a := .x, b := .x, c := .none, ty := .ints, imm := .samo, wf := true, pgKind := some 5 })
  | .samoXor f => some (f, { op := 0x148, d := .x, a := .x, b := .x, c := .none, ty := .ints, imm := .samo, wf := true, pgKind := some 6 })
  | .samoMin f => some (f, { op := 0x148, d := .x, a := .x, b := .x, c := .none, ty := .ints, imm := .samo, wf := true, pgKind := some 7 })
  | .samoMax f => some (f, { op := 0x148, d := .x, a := .x, b := .x, c := .none, ty := .ints, imm := .samo, wf := true, pgKind := some 8 })
  | .samoMinu f => some (f, { op := 0x148, d := .x, a := .x, b := .x, c := .none, ty := .ints, imm := .samo, wf := true, pgKind := some 9 })
  | .samoMaxu f => some (f, { op := 0x148, d := .x, a := .x, b := .x, c := .none, ty := .ints, imm := .samo, wf := true, pgKind := some 10 })
  | .samoCas f => some (f, { op := 0x148, d := .x, a := .x, b := .x, c := .x, ty := .ints, imm := .samo, wf := true, pgKind := some 11 })
  | .bfmtFormat f => some (f, { op := 0x180, d := .none, a := .x, b := .x, c := .none, ty := .zero, imm := .zero })
  | .bfmtRowScales f => some (f, { op := 0x180, d := .none, a := .x, b := .x, c := .none, ty := .zero, imm := .zero })
  | .bfmtColumnScales f => some (f, { op := 0x180, d := .none, a := .x, b := .x, c := .none, ty := .zero, imm := .zero })
  | .bls f => some (f, { op := 0x181, d := .none, a := .x, b := .x, c := .none, ty := .zero, imm := .zero })
  | .bswap f => some (f, { op := 0x182, d := .none, a := .none, b := .none, c := .none, ty := .zero, imm := .zero })
  | .bstream f => some (f, { op := 0x183, d := .none, a := .x, b := .x, c := .x, ty := .zero, imm := .zero })
  | .bclr f => some (f, { op := 0x184, d := .none, a := .x, b := .x, c := .none, ty := .zero, imm := .zero })
  | .bstat f => some (f, { op := 0x185, d := .x, a := .x, b := .none, c := .none, ty := .zero, imm := .zero })
  | .bsync f => some (f, { op := 0x186, d := .none, a := .x, b := .x, c := .none, ty := .zero, imm := .zero })
  | .bsave f => some (f, { op := 0x187, d := .none, a := .x, b := .x, c := .none, ty := .zero, imm := .zero })
  | .brstr f => some (f, { op := 0x188, d := .none, a := .x, b := .x, c := .none, ty := .zero, imm := .zero })
  | .vtex f => some (f, { op := 0x1C0, d := .v, a := .x, b := .v, c := .none, ty := .f32, imm := .zero, m := true, dGroup := 4, bGroup := 2 })
  | .vtexlod f => some (f, { op := 0x1C1, d := .v, a := .x, b := .v, c := .v, ty := .f32, imm := .zero, m := true, dGroup := 4, bGroup := 2 })
  | .rq f => some (f, { op := 0x1C2, d := .v, a := .x, b := .v, c := .none, ty := .f32, imm := .zero, m := true, dGroup := 4, bGroup := 8 })
  | .rqany f => some (f, { op := 0x1C3, d := .v, a := .x, b := .v, c := .none, ty := .f32, imm := .zero, m := true, dGroup := 4, bGroup := 8 })
  | .xpair f => some (f, { op := 0x1C4, d := .x, a := .x, b := .x, c := .x, ty := .zero, imm := .zero })
  | .agpush f => some (f, { op := 0x1C5, d := .none, a := .x, b := .x, c := .x, ty := .zero, imm := .zero, ntf := true })
  | .agpop f => some (f, { op := 0x1C6, d := .x, a := .x, b := .none, c := .none, ty := .zero, imm := .zero })
  | _ => Option.none

/-- Whether ty lies in the permitted set (13 R322). -/
def TySet.allows : TySet → BitVec 3 → Bool
  | .any, _ => true
  | .ints, t => t.toNat < 4
  | .floats, t => 4 ≤ t.toNat
  | .zero, t => t = 0
  | .f32, t => t = 6

/-- Whether a register field holds a code of its class (13 R321). -/
def FieldClass.allows : FieldClass → Reg → Bool
  | .none, f => f = 0
  | .v, f => f.toNat < 24
  | .x, _ => true
  | .p, f => f.toNat < 16
  | .imm, _ => true

/-- Whether a t bit may be set on a field of this class (13 R322). -/
def FieldClass.allowsT : FieldClass → Bool
  | .v => true
  | .x => true
  | _ => false

/-- Whether imm6 holds a value its class permits; ty decides for the conditions of VCMP (13 R327, R328, R329). -/
def ImmClass.allows (k : ImmClass) (ty : BitVec 3) (pg : Nat) (i : BitVec 6) : Bool :=
  match k with
  | .zero => i = 0
  | .free => true
  | .upTo n => i.toNat ≤ n
  | .exactly n => i.toNat = n
  | .cvt => i.toNat % 32 < 16 && i.toNat % 16 ≤ 10
  | .cmp =>
    if i.toNat < 6 then true
    else if i.toNat < 10 then ty.toNat < 4
    else if i.toNat = 10 then 4 ≤ ty.toNat
    else false
  | .samo =>
    i.toNat < 32 && i.toNat % 8 ≤ 4 && !(pg = 0 && 16 ≤ i.toNat) && !(pg = 1 && (i.toNat / 8) % 2 = 1)

/-- Whether a group of n registers from a field stays within v15, and names no queue (13 R321). -/
def groupFits (f : Reg) (n : Nat) : Bool := f.toNat + n ≤ 16

/-- Whether a stepping field stays within v15; a queue pops one entry a step (08 R194). -/
def stepFits (k : FieldClass) (f : Reg) (rep : Nat) : Bool :=
  match k with
  | .v => 16 ≤ f.toNat || f.toNat + rep ≤ 15
  | _ => true

/-- The field rules of a row (13 R321, R322). -/
def LongSpec.allows (s : LongSpec) (f : LongFields) : Bool :=
  let cClass := if s.progress && f.nt then FieldClass.x else s.c
  s.ty.allows f.ty && s.d.allows f.d && s.a.allows f.a && s.b.allows f.b && cClass.allows f.c
    && s.imm.allows f.ty f.pg.toNat f.imm
    && (!f.ta || s.a.allowsT) && (!f.tb || s.b.allowsT) && (!f.tc || cClass.allowsT)
    && (match s.pgKind with
        | some k => f.pg.toNat = k
        | Option.none => s.m || f.pg = 0)
    && (s.p || f.rep = 0) && (s.r || f.rm = 0) && f.rm ≠ 5 && f.rm ≠ 6
    && (s.s || !f.sat) && (s.ntf || !f.nt) && (s.wf || f.w = 0)
    && (match s.axIs with
        | some v => f.ax = v
        | Option.none => s.axf || !f.ax)
    && stepFits s.d f.d f.rep.toNat && stepFits s.b f.b f.rep.toNat
    && (f.c ≠ f.d || stepFits s.c f.c f.rep.toNat)
    && (s.dGroup = 0 || 16 ≤ f.d.toNat || groupFits f.d s.dGroup)
    && (s.bGroup = 0 || groupFits f.b s.bGroup)

/-- Whether an instruction is well formed: the assignable words and no others. An event is no word. -/
def Instr.wellFormed (i : Instr) : Bool :=
  match i.long? with
  | some (f, s) => s.allows f
  | Option.none =>
    match i with
    | .hpush rs1 => 1 ≤ rs1.toNat && rs1.toNat ≤ 28
    | .hpusht _ rs1 => 1 ≤ rs1.toNat && rs1.toNat ≤ 28
    | .drain mem => mem.toNat < 4
    | .qpop rd rt => rd ≠ rt || rd = 0
    | .qpopt rd rt => rd ≠ rt || rd = 0
    | .feprobe _ reg bank => (bank = 0 && reg ≠ 0) || (bank = 1 && reg.toNat < 16)
    | .femark reg bank => (bank = 0 && reg ≠ 0) || (bank = 1 && reg.toNat < 16)
    | .fenceS kind scope => kind ≠ 3 && scope.toNat ≤ 4
    | _ => true

end Sys2Proof
end

