-- ==== Sys2Proof/Decode.lean ====
section
/-! DEFINITION. The decoder and the encoder, written from the same tables of the manual (13 R319–R331; 14 R342–R349,
R353–R369). The decoder is total on any bytes and answers none where the word is an illegal instruction. -/

namespace Sys2Proof

/-- Bits [lo + n - 1 : lo] of an instruction word. -/
def bits (w lo n : Nat) : Nat := (w / 2 ^ lo) % 2 ^ n

/-- One bit of an instruction word. -/
def bit (w lo : Nat) : Bool := bits w lo 1 = 1

/-- A register field. -/
def reg (w lo : Nat) : Reg := BitVec.ofNat 5 (bits w lo 5)

/-- The length in bytes that the low seven bits of the first word give; none for the 16-bit, 48-bit and 80-bit markers
(13 R319). -/
def lengthOf (w : Nat) : Option Nat :=
  if bits w 0 2 ≠ 3 then none
  else if bits w 2 3 ≠ 7 then some 4
  else if bits w 0 7 = 0x3F then some 8
  else none

/-- OP (14 R342, R344). -/
def decodeOp (w : Nat) (rd rs1 rs2 : Reg) : Option Instr :=
  match bits w 25 7, bits w 12 3 with
  | 0x00, 0 => some (.add rd rs1 rs2)
  | 0x20, 0 => some (.sub rd rs1 rs2)
  | 0x00, 1 => some (.sll rd rs1 rs2)
  | 0x00, 2 => some (.slt rd rs1 rs2)
  | 0x00, 3 => some (.sltu rd rs1 rs2)
  | 0x00, 4 => some (.xor rd rs1 rs2)
  | 0x00, 5 => some (.srl rd rs1 rs2)
  | 0x20, 5 => some (.sra rd rs1 rs2)
  | 0x00, 6 => some (.or rd rs1 rs2)
  | 0x00, 7 => some (.and rd rs1 rs2)
  | 0x01, 0 => some (.mul rd rs1 rs2)
  | 0x01, 1 => some (.mulh rd rs1 rs2)
  | 0x01, 2 => some (.mulhsu rd rs1 rs2)
  | 0x01, 3 => some (.mulhu rd rs1 rs2)
  | 0x01, 4 => some (.div rd rs1 rs2)
  | 0x01, 5 => some (.divu rd rs1 rs2)
  | 0x01, 6 => some (.rem rd rs1 rs2)
  | 0x01, 7 => some (.remu rd rs1 rs2)
  | _, _ => none

/-- OP-32 (14 R342, R344). -/
def decodeOp32 (w : Nat) (rd rs1 rs2 : Reg) : Option Instr :=
  match bits w 25 7, bits w 12 3 with
  | 0x00, 0 => some (.addw rd rs1 rs2)
  | 0x20, 0 => some (.subw rd rs1 rs2)
  | 0x00, 1 => some (.sllw rd rs1 rs2)
  | 0x00, 5 => some (.srlw rd rs1 rs2)
  | 0x20, 5 => some (.sraw rd rs1 rs2)
  | 0x01, 0 => some (.mulw rd rs1 rs2)
  | 0x01, 4 => some (.divw rd rs1 rs2)
  | 0x01, 5 => some (.divuw rd rs1 rs2)
  | 0x01, 6 => some (.remw rd rs1 rs2)
  | 0x01, 7 => some (.remuw rd rs1 rs2)
  | _, _ => none

/-- OP-IMM (14 R342). -/
def decodeOpImm (w : Nat) (rd rs1 : Reg) (imm : BitVec 12) : Option Instr :=
  let sh := BitVec.ofNat 6 (bits w 20 6)
  match bits w 12 3 with
  | 0 => some (.addi rd rs1 imm)
  | 1 => if bits w 26 6 = 0 then some (.slli rd rs1 sh) else none
  | 2 => some (.slti rd rs1 imm)
  | 3 => some (.sltiu rd rs1 imm)
  | 4 => some (.xori rd rs1 imm)
  | 5 =>
    if bits w 26 6 = 0 then some (.srli rd rs1 sh)
    else if bits w 26 6 = 0x10 then some (.srai rd rs1 sh)
    else none
  | 6 => some (.ori rd rs1 imm)
  | _ => some (.andi rd rs1 imm)

/-- OP-IMM-32 (14 R342). -/
def decodeOpImm32 (w : Nat) (rd rs1 : Reg) (imm : BitVec 12) : Option Instr :=
  let sh := BitVec.ofNat 5 (bits w 20 5)
  match bits w 12 3 with
  | 0 => some (.addiw rd rs1 imm)
  | 1 => if bits w 25 7 = 0 then some (.slliw rd rs1 sh) else none
  | 5 =>
    if bits w 25 7 = 0 then some (.srliw rd rs1 sh)
    else if bits w 25 7 = 0x20 then some (.sraiw rd rs1 sh)
    else none
  | _ => none

/-- LOAD (14 R343). -/
def decodeLoad (w : Nat) (rd rs1 : Reg) (imm : BitVec 12) : Option Instr :=
  match bits w 12 3 with
  | 0 => some (.lb rd rs1 imm)
  | 1 => some (.lh rd rs1 imm)
  | 2 => some (.lw rd rs1 imm)
  | 3 => some (.ld rd rs1 imm)
  | 4 => some (.lbu rd rs1 imm)
  | 5 => some (.lhu rd rs1 imm)
  | 6 => some (.lwu rd rs1 imm)
  | _ => none

/-- STORE (14 R343); the immediate is {[31:25], [11:7]}. -/
def decodeStore (w : Nat) (rs1 rs2 : Reg) : Option Instr :=
  let imm := BitVec.ofNat 12 (bits w 25 7 * 32 + bits w 7 5)
  match bits w 12 3 with
  | 0 => some (.sb rs1 rs2 imm)
  | 1 => some (.sh rs1 rs2 imm)
  | 2 => some (.sw rs1 rs2 imm)
  | 3 => some (.sd rs1 rs2 imm)
  | _ => none

/-- BRANCH (14 R342); the operand is imm[12:1]: {[31], [7], [30:25], [11:8]}. -/
def decodeBranch (w : Nat) (rs1 rs2 : Reg) : Option Instr :=
  let imm := BitVec.ofNat 12 (bits w 31 1 * 2048 + bits w 7 1 * 1024 + bits w 25 6 * 16 + bits w 8 4)
  match bits w 12 3 with
  | 0 => some (.beq rs1 rs2 imm)
  | 1 => some (.bne rs1 rs2 imm)
  | 4 => some (.blt rs1 rs2 imm)
  | 5 => some (.bge rs1 rs2 imm)
  | 6 => some (.bltu rs1 rs2 imm)
  | 7 => some (.bgeu rs1 rs2 imm)
  | _ => none

/-- AMO (14 R345). -/
def decodeAmo (w : Nat) (rd rs1 rs2 : Reg) : Option Instr :=
  if bits w 13 2 ≠ 1 then none
  else
    let wide := bit w 12
    let aq := bit w 26
    let rl := bit w 25
    match bits w 27 5 with
    | 0x00 => some (.amoadd wide aq rl rd rs1 rs2)
    | 0x01 => some (.amoswap wide aq rl rd rs1 rs2)
    | 0x02 => if rs2 = 0 then some (.lr wide aq rl rd rs1) else none
    | 0x03 => some (.sc wide aq rl rd rs1 rs2)
    | 0x04 => some (.amoxor wide aq rl rd rs1 rs2)
    | 0x08 => some (.amoor wide aq rl rd rs1 rs2)
    | 0x0C => some (.amoand wide aq rl rd rs1 rs2)
    | 0x10 => some (.amomin wide aq rl rd rs1 rs2)
    | 0x14 => some (.amomax wide aq rl rd rs1 rs2)
    | 0x18 => some (.amominu wide aq rl rd rs1 rs2)
    | 0x1C => some (.amomaxu wide aq rl rd rs1 rs2)
    | _ => none

/-- MISC-MEM (14 R346): the PI to PW and SI to SW sets, FENCE.TSO and FENCE.I. -/
def decodeMiscMem (w : Nat) : Option Instr :=
  if bits w 7 5 = 0 ∧ bits w 15 5 = 0 then
    match bits w 12 3 with
    | 0 =>
      if bits w 28 4 = 0 then some (.fence (BitVec.ofNat 4 (bits w 24 4)) (BitVec.ofNat 4 (bits w 20 4)))
      else if bits w 20 12 = 0x833 then some .fenceTso
      else none
    | 1 => if bits w 20 12 = 0 then some .fenceI else none
    | _ => none
  else none

/-- SYSTEM (14 R347, R349). -/
def decodeSystem (w : Nat) (rd rs1 rs2 : Reg) (csr : BitVec 12) : Option Instr :=
  match bits w 12 3 with
  | 0 =>
    if w = 0x00000073 then some .ecall
    else if w = 0x00100073 then some .ebreak
    else if w = 0x10200073 then some .sret
    else if w = 0x30200073 then some .mret
    else if w = 0x10500073 then some .wfi
    else if bits w 25 7 = 0x09 ∧ bits w 7 5 = 0 then some (.sfenceVma rs1 rs2)
    else none
  | 1 => some (.csrrw rd rs1 csr)
  | 2 => some (.csrrs rd rs1 csr)
  | 3 => some (.csrrc rd rs1 csr)
  | 5 => some (.csrrwi rd rs1 csr)
  | 6 => some (.csrrsi rd rs1 csr)
  | 7 => some (.csrrci rd rs1 csr)
  | _ => none

/-- custom-0, the Agzen short format (13 R330): unused register fields are zero. -/
def decodeShort (w : Nat) (rd rs1 rs2 : Reg) : Option Instr :=
  match bits w 12 3, bits w 25 7 with
  | 0, 0 => some (.tspawn rd rs1 rs2)
  | 0, 1 => if rs2 = 0 then some (.treap rd rs1) else none
  | 0, 2 => if rd = 0 ∧ rs2 = 0 then some (.tkill rs1) else none
  | 0, 3 => if rs2 = 0 then some (.tstat rd rs1) else none
  | 0, 4 => if rs1 = 0 ∧ rs2 = 0 then some (.tself rd) else none
  | 0, 5 => if rd = 0 ∧ rs1 = 0 ∧ rs2 = 0 then some .texit else none
  | 1, 0 => if rs2 = 0 then some (.gjoin rd rs1) else none
  | 1, 1 => if rs1 = 0 ∧ rs2 = 0 then some (.gleave rd) else none
  | 1, 2 => if rs1 = 0 ∧ rs2 = 0 then some (.gbar rd) else none
  | 1, 3 => if rs1 = 0 ∧ rs2 = 0 then some (.gsize rd) else none
  | 1, 4 => if rs1 = 0 ∧ rs2 = 0 then some (.grank rd) else none
  | 2, 0 => if rd = 0 ∧ rs2 = 0 then some (.hpush rs1) else none
  | 2, 1 => if rs2 = 0 then some (.hpusht rd rs1) else none
  | 2, 2 => if rd = 0 then some (.cwait rs1 rs2) else none
  | 2, 3 => if rd = 0 ∧ rs1 = 0 then some (.drain rs2) else none
  | 2, 4 => if rs1 = 0 ∧ rs2 = 0 then some (.hqlen rd) else none
  | 3, 0 => if rd = 0 then some (.msend rs1 rs2) else none
  | 3, 1 => if rd = 0 then some (.rqpush rs1 rs2) else none
  | 3, 2 => if rs1 = 0 ∧ rs2 = 0 then some (.rqpop rd) else none
  | 3, 3 => if rs1 = 0 ∧ rs2 = 0 then some (.rqtry rd) else none
  | 3, 4 => if rs2 = 0 then some (.qpop rd rs1) else none
  | 3, 5 => if rs2 = 0 then some (.qpopt rd rs1) else none
  | 4, 0 => some (.feprobe rd rs1 rs2)
  | 4, 1 => if rd = 0 then some (.femark rs1 rs2) else none
  | 5, 0 => if rd = 0 ∧ rs1 = 0 then some (.fenceS (BitVec.ofNat 2 (bits w 23 2)) (BitVec.ofNat 3 (bits w 20 3))) else none
  | _, _ => none

/-- A 32-bit instruction before the field ranges are checked (13 R330, R331). -/
def decode32 (w : Nat) : Option Instr :=
  let rd := reg w 7
  let rs1 := reg w 15
  let rs2 := reg w 20
  let imm := BitVec.ofNat 12 (bits w 20 12)
  match bits w 0 7 with
  | 0x33 => decodeOp w rd rs1 rs2
  | 0x3B => decodeOp32 w rd rs1 rs2
  | 0x13 => decodeOpImm w rd rs1 imm
  | 0x1B => decodeOpImm32 w rd rs1 imm
  | 0x37 => some (.lui rd (BitVec.ofNat 20 (bits w 12 20)))
  | 0x17 => some (.auipc rd (BitVec.ofNat 20 (bits w 12 20)))
  | 0x6F =>
    some (.jal rd (BitVec.ofNat 20 (bits w 31 1 * 2 ^ 19 + bits w 12 8 * 2 ^ 11 + bits w 20 1 * 2 ^ 10 + bits w 21 10)))
  | 0x67 => if bits w 12 3 = 0 then some (.jalr rd rs1 imm) else none
  | 0x63 => decodeBranch w rs1 rs2
  | 0x03 => decodeLoad w rd rs1 imm
  | 0x23 => decodeStore w rs1 rs2
  | 0x2F => decodeAmo w rd rs1 rs2
  | 0x0F => decodeMiscMem w
  | 0x73 => decodeSystem w rd rs1 rs2 imm
  | 0x0B => decodeShort w rd rs1 rs2
  | _ => none

/-- The fields of a long instruction (13 R320). -/
def longFields (w : Nat) : LongFields :=
  { d := reg w 7, ty := BitVec.ofNat 3 (bits w 12 3), a := reg w 15, b := reg w 20, c := reg w 25
    pg := BitVec.ofNat 4 (bits w 40 4), rep := BitVec.ofNat 3 (bits w 44 3)
    ta := bit w 47, tb := bit w 48, tc := bit w 49
    w := BitVec.ofNat 2 (bits w 50 2), rm := BitVec.ofNat 3 (bits w 52 3)
    sat := bit w 55, nt := bit w 56, ax := bit w 57, imm := BitVec.ofNat 6 (bits w 58 6) }

/-- The row of R325 that an op10 value names; the kind of SAMO, the sign form of VFSGNJ and the direction of VMMOV pick
among the rows that share a value. BFMT is one word for its three rows: x[a] picks the part it sets (17 R424). -/
def longInstr (op : Nat) (f : LongFields) : Option Instr :=
  match op with
  | 0x000 => some (.setvl f)
  | 0x001 => some (.vmv f)
  | 0x002 => some (.vbcast f)
  | 0x003 => some (.vext f)
  | 0x004 => some (.vins f)
  | 0x005 => some (.vsel f)
  | 0x006 => some (.viota f)
  | 0x007 => some (.vslide f)
  | 0x008 => some (.vshuf f)
  | 0x009 => some (.vtrn f)
  | 0x00A => some (.vhash f)
  | 0x00C => some (.vsave f)
  | 0x00D => some (.vrstr f)
  | 0x040 => some (.vadd f)
  | 0x041 => some (.vsub f)
  | 0x042 => some (.vmul f)
  | 0x043 => some (.vmulh f)
  | 0x044 => some (.vmulhu f)
  | 0x046 => some (.vdiv f)
  | 0x047 => some (.vdivu f)
  | 0x048 => some (.vrem f)
  | 0x049 => some (.vremu f)
  | 0x04A => some (.vmin f)
  | 0x04B => some (.vminu f)
  | 0x04C => some (.vmax f)
  | 0x04D => some (.vmaxu f)
  | 0x04E => some (.vand f)
  | 0x04F => some (.vor f)
  | 0x050 => some (.vxor f)
  | 0x051 => some (.vsll f)
  | 0x052 => some (.vsrl f)
  | 0x053 => some (.vsra f)
  | 0x045 => some (.vmadd f)
  | 0x054 => some (.vabs f)
  | 0x055 => some (.vclz f)
  | 0x056 => some (.vpopc f)
  | 0x057 => some (.vaddi f)
  | 0x080 => some (.vfadd f)
  | 0x081 => some (.vfsub f)
  | 0x082 => some (.vfmul f)
  | 0x084 => some (.vfdiv f)
  | 0x083 => some (.vfma f)
  | 0x085 => some (.vfsqrt f)
  | 0x086 => some (.vfrcp f)
  | 0x087 => some (.vfrsqrt f)
  | 0x08A => some (.vfexp2 f)
  | 0x08B => some (.vflog2 f)
  | 0x08C => some (.vfsinpi f)
  | 0x08D => some (.vfcospi f)
  | 0x08E => some (.vftanh f)
  | 0x088 => some (.vfmin f)
  | 0x089 => some (.vfmax f)
  | 0x08F => some (.vfabs f)
  | 0x090 => some (.vfneg f)
  | 0x091 => some (.vfclass f)
  | 0x092 => if f.imm = 0 then some (.vfsgnj f) else if f.imm = 1 then some (.vfsgnjn f) else some (.vfsgnjx f)
  | 0x0C0 => some (.vcvt f)
  | 0x0E0 => some (.vcmp f)
  | 0x0E1 => some (.vmand f)
  | 0x0E2 => some (.vmor f)
  | 0x0E3 => some (.vmxor f)
  | 0x0E4 => some (.vmandn f)
  | 0x0E5 => some (.vmnot f)
  | 0x0E9 => some (.vmsbf f)
  | 0x0E6 => some (.vmpush f)
  | 0x0E7 => some (.vmelse f)
  | 0x0E8 => some (.vmpop f)
  | 0x0EA => some (.vmpopc f)
  | 0x0EB => some (.vmfirst f)
  | 0x0EC => if f.ax then some (.vmmovToMask f) else some (.vmmovToPredicate f)
  | 0x100 => some (.vredsum f)
  | 0x101 => some (.vredmin f)
  | 0x102 => some (.vredmax f)
  | 0x103 => some (.vredand f)
  | 0x104 => some (.vredor f)
  | 0x105 => some (.vredxor f)
  | 0x140 => some (.vld f)
  | 0x141 => some (.vldff f)
  | 0x142 => some (.vgather f)
  | 0x143 => some (.vst f)
  | 0x144 => some (.vscatter f)
  | 0x145 => some (.vrred f)
  | 0x146 => some (.vamoadd f)
  | 0x147 => some (.vldacc f)
  | 0x148 =>
    match f.pg.toNat with
    | 0 => some (.samoLoad f)
    | 1 => some (.samoStore f)
    | 2 => some (.samoAdd f)
    | 3 => some (.samoSwap f)
    | 4 => some (.samoAnd f)
    | 5 => some (.samoOr f)
    | 6 => some (.samoXor f)
    | 7 => some (.samoMin f)
    | 8 => some (.samoMax f)
    | 9 => some (.samoMinu f)
    | 10 => some (.samoMaxu f)
    | 11 => some (.samoCas f)
    | _ => none
  | 0x180 => some (.bfmtFormat f)
  | 0x181 => some (.bls f)
  | 0x182 => some (.bswap f)
  | 0x183 => some (.bstream f)
  | 0x184 => some (.bclr f)
  | 0x185 => some (.bstat f)
  | 0x186 => some (.bsync f)
  | 0x187 => some (.bsave f)
  | 0x188 => some (.brstr f)
  | 0x1C0 => some (.vtex f)
  | 0x1C1 => some (.vtexlod f)
  | 0x1C2 => some (.rq f)
  | 0x1C3 => some (.rqany f)
  | 0x1C4 => some (.xpair f)
  | 0x1C5 => some (.agpush f)
  | 0x1C6 => some (.agpop f)
  | _ => none

/-- A 64-bit instruction before its field rules are checked. -/
def decode64 (w : Nat) : Option Instr := longInstr (bits w 30 10) (longFields w)

/-- Keep an instruction that is well formed. -/
def keepWellFormed (o : Option Instr) : Option Instr :=
  match o with
  | some i => if i.wellFormed then some i else none
  | none => none

/-- The instruction of a word whose length is known: 4 or 8 bytes. -/
def decodeWord (len w : Nat) : Option Instr :=
  if len = 8 then keepWellFormed (decode64 w) else keepWellFormed (decode32 w)

/-- Bytes as a little-endian number (00 R6). -/
def bytesNat : List Byte → Nat
  | [] => 0
  | b :: rest => b.toNat + 256 * bytesNat rest

/-- Decode the first instruction of a byte stream: the instruction and the bytes after it, or none where the stream is
too short or the encoding is illegal (13 R319). -/
def decode (bs : List Byte) : Option (Instr × List Byte) :=
  if bs.length < 4 then none
  else
    match lengthOf (bytesNat (bs.take 4)) with
    | none => none
    | some n =>
      if bs.length < n then none
      else
        match decodeWord n (bytesNat (bs.take n)) with
        | some i => some (i, bs.drop n)
        | none => none

/-- The n low bytes of a number, least significant first. -/
def natBytes : Nat → Nat → List Byte
  | 0, _ => []
  | n + 1, v => BitVec.ofNat 8 v :: natBytes n (v / 256)

/-- The instruction that the decoder reads from bits numbered as spec/opcode_table.json numbers them; every bit above
nbits is 0. -/
def decodeTableWord (nbits w : Nat) : Option Instr :=
  match decode (natBytes 8 (w % 2 ^ nbits)) with
  | some (i, _) => some i
  | none => none

/-- An R-format word. -/
def encR (op f3 f7 : Nat) (rd rs1 rs2 : Reg) : Nat :=
  op + rd.toNat * 2 ^ 7 + f3 * 2 ^ 12 + rs1.toNat * 2 ^ 15 + rs2.toNat * 2 ^ 20 + f7 * 2 ^ 25

/-- An I-format word. -/
def encI (op f3 : Nat) (rd rs1 : Reg) (imm : Nat) : Nat :=
  op + rd.toNat * 2 ^ 7 + f3 * 2 ^ 12 + rs1.toNat * 2 ^ 15 + imm * 2 ^ 20

/-- An S-format word. -/
def encS (op f3 : Nat) (rs1 rs2 : Reg) (imm : BitVec 12) : Nat :=
  op + (imm.toNat % 32) * 2 ^ 7 + f3 * 2 ^ 12 + rs1.toNat * 2 ^ 15 + rs2.toNat * 2 ^ 20 + (imm.toNat / 32) * 2 ^ 25

/-- A B-format word; the operand is imm[12:1]. -/
def encB (f3 : Nat) (rs1 rs2 : Reg) (imm : BitVec 12) : Nat :=
  0x63 + (imm.toNat / 1024 % 2) * 2 ^ 7 + (imm.toNat % 16) * 2 ^ 8 + f3 * 2 ^ 12 + rs1.toNat * 2 ^ 15
    + rs2.toNat * 2 ^ 20 + (imm.toNat / 16 % 64) * 2 ^ 25 + (imm.toNat / 2048) * 2 ^ 31

/-- A U-format word. -/
def encU (op : Nat) (rd : Reg) (imm : BitVec 20) : Nat := op + rd.toNat * 2 ^ 7 + imm.toNat * 2 ^ 12

/-- A J-format word; the operand is imm[20:1]. -/
def encJ (rd : Reg) (imm : BitVec 20) : Nat :=
  0x6F + rd.toNat * 2 ^ 7 + (imm.toNat / 2 ^ 11 % 256) * 2 ^ 12 + (imm.toNat / 1024 % 2) * 2 ^ 20
    + (imm.toNat % 1024) * 2 ^ 21 + (imm.toNat / 2 ^ 19) * 2 ^ 31

/-- 1 for true. -/
def b1 (b : Bool) : Nat := if b then 1 else 0

/-- An AMO word. -/
def encA (f5 : Nat) (wide aq rl : Bool) (rd rs1 rs2 : Reg) : Nat :=
  0x2F + rd.toNat * 2 ^ 7 + (2 + b1 wide) * 2 ^ 12 + rs1.toNat * 2 ^ 15 + rs2.toNat * 2 ^ 20
    + b1 rl * 2 ^ 25 + b1 aq * 2 ^ 26 + f5 * 2 ^ 27

/-- A short-format word. -/
def encC (f3 f7 : Nat) (rd rs1 rs2 : Reg) : Nat := encR 0x0B f3 f7 rd rs1 rs2

/-- A long-format word (13 R320). -/
def encLong (op : Nat) (f : LongFields) : Nat :=
  0x3F + f.d.toNat * 2 ^ 7 + f.ty.toNat * 2 ^ 12 + f.a.toNat * 2 ^ 15 + f.b.toNat * 2 ^ 20 + f.c.toNat * 2 ^ 25
    + op * 2 ^ 30 + f.pg.toNat * 2 ^ 40 + f.rep.toNat * 2 ^ 44 + b1 f.ta * 2 ^ 47 + b1 f.tb * 2 ^ 48 + b1 f.tc * 2 ^ 49
    + f.w.toNat * 2 ^ 50 + f.rm.toNat * 2 ^ 52 + b1 f.sat * 2 ^ 55 + b1 f.nt * 2 ^ 56 + b1 f.ax * 2 ^ 57
    + f.imm.toNat * 2 ^ 58

/-- The 32-bit word of a scalar or short-format instruction; none for a long instruction or an event. -/
def encode32 : Instr → Option Nat
  | .add rd rs1 rs2 => some (encR 0x33 0 0x00 rd rs1 rs2)
  | .sub rd rs1 rs2 => some (encR 0x33 0 0x20 rd rs1 rs2)
  | .sll rd rs1 rs2 => some (encR 0x33 1 0x00 rd rs1 rs2)
  | .slt rd rs1 rs2 => some (encR 0x33 2 0x00 rd rs1 rs2)
  | .sltu rd rs1 rs2 => some (encR 0x33 3 0x00 rd rs1 rs2)
  | .xor rd rs1 rs2 => some (encR 0x33 4 0x00 rd rs1 rs2)
  | .srl rd rs1 rs2 => some (encR 0x33 5 0x00 rd rs1 rs2)
  | .sra rd rs1 rs2 => some (encR 0x33 5 0x20 rd rs1 rs2)
  | .or rd rs1 rs2 => some (encR 0x33 6 0x00 rd rs1 rs2)
  | .and rd rs1 rs2 => some (encR 0x33 7 0x00 rd rs1 rs2)
  | .mul rd rs1 rs2 => some (encR 0x33 0 0x01 rd rs1 rs2)
  | .mulh rd rs1 rs2 => some (encR 0x33 1 0x01 rd rs1 rs2)
  | .mulhsu rd rs1 rs2 => some (encR 0x33 2 0x01 rd rs1 rs2)
  | .mulhu rd rs1 rs2 => some (encR 0x33 3 0x01 rd rs1 rs2)
  | .div rd rs1 rs2 => some (encR 0x33 4 0x01 rd rs1 rs2)
  | .divu rd rs1 rs2 => some (encR 0x33 5 0x01 rd rs1 rs2)
  | .rem rd rs1 rs2 => some (encR 0x33 6 0x01 rd rs1 rs2)
  | .remu rd rs1 rs2 => some (encR 0x33 7 0x01 rd rs1 rs2)
  | .addw rd rs1 rs2 => some (encR 0x3B 0 0x00 rd rs1 rs2)
  | .subw rd rs1 rs2 => some (encR 0x3B 0 0x20 rd rs1 rs2)
  | .sllw rd rs1 rs2 => some (encR 0x3B 1 0x00 rd rs1 rs2)
  | .srlw rd rs1 rs2 => some (encR 0x3B 5 0x00 rd rs1 rs2)
  | .sraw rd rs1 rs2 => some (encR 0x3B 5 0x20 rd rs1 rs2)
  | .mulw rd rs1 rs2 => some (encR 0x3B 0 0x01 rd rs1 rs2)
  | .divw rd rs1 rs2 => some (encR 0x3B 4 0x01 rd rs1 rs2)
  | .divuw rd rs1 rs2 => some (encR 0x3B 5 0x01 rd rs1 rs2)
  | .remw rd rs1 rs2 => some (encR 0x3B 6 0x01 rd rs1 rs2)
  | .remuw rd rs1 rs2 => some (encR 0x3B 7 0x01 rd rs1 rs2)
  | .addi rd rs1 imm => some (encI 0x13 0 rd rs1 imm.toNat)
  | .slti rd rs1 imm => some (encI 0x13 2 rd rs1 imm.toNat)
  | .sltiu rd rs1 imm => some (encI 0x13 3 rd rs1 imm.toNat)
  | .xori rd rs1 imm => some (encI 0x13 4 rd rs1 imm.toNat)
  | .ori rd rs1 imm => some (encI 0x13 6 rd rs1 imm.toNat)
  | .andi rd rs1 imm => some (encI 0x13 7 rd rs1 imm.toNat)
  | .slli rd rs1 sh => some (encI 0x13 1 rd rs1 sh.toNat)
  | .srli rd rs1 sh => some (encI 0x13 5 rd rs1 sh.toNat)
  | .srai rd rs1 sh => some (encI 0x13 5 rd rs1 (0x400 + sh.toNat))
  | .addiw rd rs1 imm => some (encI 0x1B 0 rd rs1 imm.toNat)
  | .slliw rd rs1 sh => some (encI 0x1B 1 rd rs1 sh.toNat)
  | .srliw rd rs1 sh => some (encI 0x1B 5 rd rs1 sh.toNat)
  | .sraiw rd rs1 sh => some (encI 0x1B 5 rd rs1 (0x400 + sh.toNat))
  | .lui rd imm => some (encU 0x37 rd imm)
  | .auipc rd imm => some (encU 0x17 rd imm)
  | .jal rd imm => some (encJ rd imm)
  | .jalr rd rs1 imm => some (encI 0x67 0 rd rs1 imm.toNat)
  | .beq rs1 rs2 imm => some (encB 0 rs1 rs2 imm)
  | .bne rs1 rs2 imm => some (encB 1 rs1 rs2 imm)
  | .blt rs1 rs2 imm => some (encB 4 rs1 rs2 imm)
  | .bge rs1 rs2 imm => some (encB 5 rs1 rs2 imm)
  | .bltu rs1 rs2 imm => some (encB 6 rs1 rs2 imm)
  | .bgeu rs1 rs2 imm => some (encB 7 rs1 rs2 imm)
  | .lb rd rs1 imm => some (encI 0x03 0 rd rs1 imm.toNat)
  | .lh rd rs1 imm => some (encI 0x03 1 rd rs1 imm.toNat)
  | .lw rd rs1 imm => some (encI 0x03 2 rd rs1 imm.toNat)
  | .ld rd rs1 imm => some (encI 0x03 3 rd rs1 imm.toNat)
  | .lbu rd rs1 imm => some (encI 0x03 4 rd rs1 imm.toNat)
  | .lhu rd rs1 imm => some (encI 0x03 5 rd rs1 imm.toNat)
  | .lwu rd rs1 imm => some (encI 0x03 6 rd rs1 imm.toNat)
  | .sb rs1 rs2 imm => some (encS 0x23 0 rs1 rs2 imm)
  | .sh rs1 rs2 imm => some (encS 0x23 1 rs1 rs2 imm)
  | .sw rs1 rs2 imm => some (encS 0x23 2 rs1 rs2 imm)
  | .sd rs1 rs2 imm => some (encS 0x23 3 rs1 rs2 imm)
  | .lr wd aq rl rd rs1 => some (encA 0x02 wd aq rl rd rs1 0)
  | .sc wd aq rl rd rs1 rs2 => some (encA 0x03 wd aq rl rd rs1 rs2)
  | .amoswap wd aq rl rd rs1 rs2 => some (encA 0x01 wd aq rl rd rs1 rs2)
  | .amoadd wd aq rl rd rs1 rs2 => some (encA 0x00 wd aq rl rd rs1 rs2)
  | .amoxor wd aq rl rd rs1 rs2 => some (encA 0x04 wd aq rl rd rs1 rs2)
  | .amoand wd aq rl rd rs1 rs2 => some (encA 0x0C wd aq rl rd rs1 rs2)
  | .amoor wd aq rl rd rs1 rs2 => some (encA 0x08 wd aq rl rd rs1 rs2)
  | .amomin wd aq rl rd rs1 rs2 => some (encA 0x10 wd aq rl rd rs1 rs2)
  | .amomax wd aq rl rd rs1 rs2 => some (encA 0x14 wd aq rl rd rs1 rs2)
  | .amominu wd aq rl rd rs1 rs2 => some (encA 0x18 wd aq rl rd rs1 rs2)
  | .amomaxu wd aq rl rd rs1 rs2 => some (encA 0x1C wd aq rl rd rs1 rs2)
  | .fence p s => some (encI 0x0F 0 0 0 (p.toNat * 16 + s.toNat))
  | .fenceTso => some 0x8330000F
  | .fenceI => some 0x0000100F
  | .csrrw rd rs1 csr => some (encI 0x73 1 rd rs1 csr.toNat)
  | .csrrs rd rs1 csr => some (encI 0x73 2 rd rs1 csr.toNat)
  | .csrrc rd rs1 csr => some (encI 0x73 3 rd rs1 csr.toNat)
  | .csrrwi rd u csr => some (encI 0x73 5 rd u csr.toNat)
  | .csrrsi rd u csr => some (encI 0x73 6 rd u csr.toNat)
  | .csrrci rd u csr => some (encI 0x73 7 rd u csr.toNat)
  | .ecall => some 0x00000073
  | .ebreak => some 0x00100073
  | .sret => some 0x10200073
  | .mret => some 0x30200073
  | .wfi => some 0x10500073
  | .sfenceVma rs1 rs2 => some (encR 0x73 0 0x09 0 rs1 rs2)
  | .tspawn rd rs1 rs2 => some (encC 0 0 rd rs1 rs2)
  | .treap rd rs1 => some (encC 0 1 rd rs1 0)
  | .tkill rs1 => some (encC 0 2 0 rs1 0)
  | .tstat rd rs1 => some (encC 0 3 rd rs1 0)
  | .tself rd => some (encC 0 4 rd 0 0)
  | .texit => some (encC 0 5 0 0 0)
  | .gjoin rd rs1 => some (encC 1 0 rd rs1 0)
  | .gleave rd => some (encC 1 1 rd 0 0)
  | .gbar rd => some (encC 1 2 rd 0 0)
  | .gsize rd => some (encC 1 3 rd 0 0)
  | .grank rd => some (encC 1 4 rd 0 0)
  | .hpush rs1 => some (encC 2 0 0 rs1 0)
  | .hpusht rd rs1 => some (encC 2 1 rd rs1 0)
  | .cwait rs1 rs2 => some (encC 2 2 0 rs1 rs2)
  | .drain mem => some (encC 2 3 0 0 mem)
  | .hqlen rd => some (encC 2 4 rd 0 0)
  | .msend rs1 rs2 => some (encC 3 0 0 rs1 rs2)
  | .rqpush rs1 rs2 => some (encC 3 1 0 rs1 rs2)
  | .rqpop rd => some (encC 3 2 rd 0 0)
  | .rqtry rd => some (encC 3 3 rd 0 0)
  | .qpop rd rt => some (encC 3 4 rd rt 0)
  | .qpopt rd rt => some (encC 3 5 rd rt 0)
  | .feprobe rd r bank => some (encC 4 0 rd r bank)
  | .femark r bank => some (encC 4 1 0 r bank)
  | .fenceS kind scope => some (encI 0x0B 5 0 0 (kind.toNat * 8 + scope.toNat))
  | _ => none

/-- The length in bytes of an instruction's encoding; none for an event. -/
def Instr.length? (i : Instr) : Option Nat :=
  match i.long? with
  | some _ => some 8
  | none => if (encode32 i).isSome then some 4 else none

/-- The word of a well-formed instruction; none for an event. -/
def encode (i : Instr) : Option Nat :=
  match i.long? with
  | some (f, s) => some (encLong s.op f)
  | none => encode32 i

/-- The bytes of an instruction as memory holds them; none for an event. -/
def encodeBytes (i : Instr) : Option (List Byte) :=
  match i.length?, encode i with
  | some n, some w => some (natBytes n w)
  | _, _ => none

end Sys2Proof
end

