-- ==== Sys2Proof/Machine/State.lean ====
section
/-! DEFINITION. The state of the K3: every piece of state the manual names, as plain data (INVENTORY.md, State). Tables
(Tbl) are sparse: an entry that is not listed holds its record's reset value. -/

namespace Sys2Proof.Machine

/-- Privilege modes of a hart (11 R266). -/
inductive Priv where
  | user | supervisor | machine
deriving DecidableEq, Repr

/-- The full/empty bit of a register (08 R183): full, marked empty by FEMARK, a result that arrives at a known cycle
(07 R168: multiply and divide), or a result in flight from memory or from a queued vector instruction. -/
inductive Fe where
  | full | marked | due (cycle : Nat) | inFlight
deriving DecidableEq, Repr

/-- The state of a context (07 R163); HALTED is a property of the core (Core.dbg). -/
inductive RunState where
  | free | running | exited
deriving DecidableEq, Repr

/-- The condition a context waits on (07 R170). A waiting instruction executes again from the start (R171). -/
inductive Wait where
  | xreg (r : Nat)
  | vreg (r : Nat)
  | queueEntry (q : Nat)
  | queueRoom (q n : Nat)
  | vecRoom
  | vecHeld
  | vecRetired
  | hoistRoom
  | messageRoom (target : Nat)
  | readyTask
  | message
  | counter (addr target : Word)
  | drain (mem requests : Nat)
  | classes (mask : BitVec 4)
  | loads
  | barrier
  | bank (core bank : Nat)
  | lock (core bank : Nat)
  | interrupt
  | reap (ctx : Nat)
  | killed (ctx : Nat)
  | notice
  | benchRoom
  | benchIdle
  | binSlot (queue bin entry : Nat)
  | epoch (root : Nat)
  | postedRoom
  | rehoming
  | hostRead
  | acquire
  | atomics
  | sector (addr : Nat)
  | invalidation (partition bound : Nat)
  | nodeLock (addr : Nat)
  | holds (addr : Nat)
deriving DecidableEq, Repr

/-- An entry of q0–q5 (08 R191, R193), which readers see from a cycle on; an incomplete entry belongs to a faulting load (11 R272). -/
structure QEntry where
  data : VReg
  complete : Bool
  visible : Nat := 0
deriving DecidableEq, Repr

/-- A 64-bit word of a context's storage under SECDED (08 R206): an x register, or a word of a predicate, an entry of the mask stack, a special
mask (the class masks 0 to 4, then vsat and vflt), or an entry of a queue. -/
inductive Spoiled where
  | x (r : Nat)
  | predicate (p word : Nat)
  | stack (entry word : Nat)
  | special (mask word : Nat)
  | queue (q entry word : Nat)
deriving DecidableEq, Repr

/-- The vector part of a context (08 R186–R193, R210). vfirst is the cycle in which the first element group of a register was written (08 R195),
failing lists the words under integrity hold. -/
structure VecCtx where
  v : Tbl VReg := []
  vname : Tbl Nat := []
  vfe : Tbl Fe := []
  vfirst : Tbl Nat := []
  p : Tbl Mask := []
  stack : Tbl Mask := [(0, BitVec.allOnes 1024)]
  vmsp : Nat := 0
  flagMask : Tbl Mask := []
  vsat : Mask := 0
  vflt : Mask := 0
  q : Tbl (List QEntry) := []
  q6 : List (BitVec 512) := []
  failing : List Spoiled := []
  vlc : Nat := 32
  vlr : Nat := 8
  vty : BitVec 3 := 6
  vmt : BitVec 3 := 0
  vxcls : Word := 0
  vreuse : BitVec 2 := 0
  vrm : BitVec 3 := 0
  vfflags : BitVec 5 := 0
  vrqctl : Word := 0x3E0
  vrhit : Word := 0
  vrlook : Word := 0
  vrshare : Word := 0
  vsmiss : Word := 0
deriving DecidableEq, Repr

/-- kstat (08 R210). -/
structure KStat where
  resume : Bool := false
  pend : Bool := false
  hnd : Bool := false
  owe : Bool := false
  owRow : Nat := 0
deriving DecidableEq, Repr

/-- The privileged CSRs of M and S mode and the debug CSRs of a hart (08 R209, R473; 11 R266, R289). mie holds sie
too, since sie is a view of it. -/
structure Csrs where
  mstatus : Word := 0
  misa : Word := 0x8000000000141101
  medeleg : Word := 0
  mideleg : Word := 0
  mie : Word := 0
  mtvec : Word := 0
  mcounteren : Word := 0
  menvcfg : Word := 0
  mscratch : Word := 0
  mepc : Word := 0
  mcause : Word := 0
  mtval : Word := 0
  pmpcfg : Tbl Word := []
  pmpaddr : Tbl Word := []
  stvec : Word := 0
  scounteren : Word := 0
  senvcfg : Word := 0
  sscratch : Word := 0
  sepc : Word := 0
  scause : Word := 0
  stval : Word := 0
  satp : Word := 0
  ktimecmp : Word := BitVec.allOnes 64
  kinstr : Word := 0
  kbfail : Word := 0
  kqsel : Word := 0
  dcsr : Word := 0
  dpc : Word := 0
  dscratch0 : Word := 0
  dscratch1 : Word := 0
deriving DecidableEq, Repr

/-- What a thread keeps of its launch record (14 R353, 04 R95), and where its gang membership stands (07 R175). -/
structure ThreadInfo where
  popid : Word32 := 0
  index : Word32 := 0
  comp : Word := 0
  as : Word := 0
  partition : Nat := 64
  gang : Nat := 0
  batch : Option (Nat × Nat × Nat) := none
deriving DecidableEq, Repr

/-- The state of a host read that a load waits for (00 R4). -/
inductive HostRead where
  | pending | ready | failed
deriving DecidableEq, Repr

/-- One hart: a context of a vector core or of a control core, a command core or the Weighbridge processor (07 R160). hostDone lists the host
sectors that its vector load has waited for, and whether each came back; xHeld lists its x registers under integrity hold (08 R206); bankSince is
the scratch bank (core, bank) that an access of its waits for, with the cycle of its arrival there (07 R173). -/
structure Hart where
  pc : Word := 0
  priv : Priv := .machine
  run : RunState := .free
  waiting : Option Wait := none
  reserved : Bool := false
  lastIssue : Nat := 0
  issued : Bool := false
  readyAt : Nat := 0
  widening : Bool := false
  fencing : Option Nat := none
  bankSince : Option (Nat × Nat × Nat) := none
  x : Tbl Word := []
  fe : Tbl Fe := []
  xHeld : List Nat := []
  loads : List (Nat × Word) := []
  csr : Csrs := {}
  kstat : KStat := {}
  instret : Word := 0
  reservation : Option Nat := none
  irqPending : BitVec 64 := 0
  hostRead : Option (Nat × HostRead) := none
  hostDone : List (Nat × Bool) := []
  q7 : List (Word × BitVec 16) := []
  tkilling : Bool := false
  resuming : Bool := false
  oweFirst : Nat := 0
  vec : VecCtx := {}
  thread : ThreadInfo := {}
deriving DecidableEq, Repr

/-- An entry of the vector instruction queue with what it captured at issue (15 R371); its context waits for one that is held, which retires when it
executes (11 R271). -/
structure VecEntry where
  hart : Nat
  instr : Instr
  pc : Word
  vlc : Nat
  vlr : Nat
  vty : BitVec 3
  vmt : BitVec 3
  rm : BitVec 3
  sa : Word
  sb : Word
  sc : Word
  held : Bool := false
deriving DecidableEq, Repr

/-- The key of a result-reuse entry (08 R200). Sources are the physical names. -/
structure ReuseKey where
  op : Nat
  ty : BitVec 3
  imm : BitVec 6
  rm : BitVec 3
  sat : Bool
  pg : BitVec 4
  nt : Bool
  ax : Bool
  fields : Nat × Nat × Nat × Nat
  vlc : Nat
  vlr : Nat
  vmt : Nat
  masks : List Mask
  names : List Nat
  scalars : List Word
  dOld : Option Nat
deriving DecidableEq, Repr

/-- The result and the flags of a result-reuse entry (08 R200, R202); covered sectors of a load entry (R203). -/
structure ReuseEntry where
  key : ReuseKey
  result : VReg
  name : Nat
  scalar : Option Word
  flagMask : Tbl Mask
  vsat : Mask
  flags : BitVec 5
  covers : List (Nat × Nat)
deriving DecidableEq, Repr

/-- L1 line states (09 R219); I is a line that is not listed. -/
inductive L1State where
  | shared | exclusive | modified
deriving DecidableEq, Repr

/-- A line of the L1 data cache: tags only, its bytes are those of memory (10 R241). -/
structure L1Line where
  line : Nat
  st : L1State
  valid : BitVec 8
  dirty : BitVec 8
deriving DecidableEq, Repr

/-- What a posted access performs at its destination (09 R220, R227; 10 R262, R263). A progress add keeps the number of the
first access of its VST, and the number past the last access of its row. -/
inductive PostedOp where
  | bytes (cells : List Host.Cell)
  | packet (owner : Nat) (cells : List Host.Cell)
  | packetAdd (owner : Nat) (adds : List (Nat × BitVec 3 × Word))
  | packetAmo (owner : Nat) (off : Nat) (kind : Nat) (width : Nat) (value compare : Word) (rd : Reg)
  | amo (addr : Nat) (kind : Nat) (width : Nat) (value compare : Word) (rd : Reg)
  | fadd (addr : Nat) (ty : BitVec 3) (value : Word)
  | contribute (addr : Nat) (count : BitVec 128)
  | progress (addr : Nat) (count : Nat) (first last : Nat)
deriving DecidableEq, Repr

/-- A posted access of a context until its acknowledgement (09 R220, R221; 10 R248, R253); came is the cycle at which a packet arrived at a locked
scratch bank (07 R173). -/
structure Posted where
  id : Nat
  hart : Nat
  sector : Nat
  op : PostedOp
  cls : Nat
  sent : Bool
  release : Bool
  scope : Nat
  nBit : Bool
  parked : Bool
  refused : Bool
  acq : Option Nat
  came : Option Nat := none
deriving DecidableEq, Repr

/-- A Hoist request (16 R410–R413; 11 R277), came being the scratch bank (core, bank) at which its piece waits and the cycle of its arrival (07
R173) and slot the cycle promised to its next piece (16 R412): its words, the captured shape and privilege, and how far it has come. -/
structure HoistReq where
  id : Nat
  hart : Nat
  w0 : Word
  w1 : Word
  w2 : Word
  w3 : Word
  vlr : Nat
  vlc : Nat
  vty : BitVec 3
  priv : Priv
  progress : Nat
  started : Bool
  stopped : Option (Nat × Word)
  written : Bool
  came : Option (Nat × Nat × Nat) := none
  slot : Option Nat := none
deriving DecidableEq, Repr

/-- A launch record (04 R95) with the threads that TSPAWN has started (14 R353) and the cycle at which it came to the head of its
sub-queue (05 R116). -/
structure LaunchRec where
  pc : Word
  seed0 : Word
  seed1 : Word
  seed2 : Word
  seed3 : Word
  first : Nat
  size : Nat
  nthr : Nat
  prio : Nat
  privS : Bool
  coresident : Bool
  quota : Nat
  gang : Nat
  stktop : Word
  stkbytes : Word
  popid : Word32
  comp : Word
  as : Word
  partition : Nat
  batch : Option (Nat × Nat × Nat)
  perThread : Nat
  records : List (BitVec 512)
  started : Nat
  headAt : Option Nat
deriving DecidableEq, Repr

/-- kflog (08 R210). -/
structure KFlog where
  addr : BitVec 48 := 0
  src : BitVec 4 := 0
  ctx : BitVec 4 := 0
  ovf : Bool := false
  valid : Bool := false
deriving DecidableEq, Repr

/-- kcut (08 R210). -/
structure KCut where
  arm : Bool := false
  recorded : Bool := false
  pend : BitVec 8 := 0
  log : List (Nat × Word × BitVec 16) := []
deriving DecidableEq, Repr

/-- The debug module of a core (11 R289–R292). hartsel is the context that its commands select, resumeack whether the last resume request
has been met; stepping is the hart that a single step lets go; prog is the hart that runs the program buffer and the index of its next word. -/
structure Debug where
  halted : Bool := false
  haltreq : Bool := false
  cmderr : Nat := 0
  data0 : Word := 0
  progbuf : Tbl Word32 := []
  stepping : Option Nat := none
  prog : Option (Nat × Nat) := none
  hartsel : Nat := 0
  resumeack : Bool := false
deriving DecidableEq, Repr

/-- A record of the directory overflow FIFO (09 R225). -/
structure OvfRecord where
  line : Nat
  core : Nat
  write : Bool
deriving DecidableEq, Repr

/-- A line of a slice with its directory entry (09 R223, R224): its owner in E or M, its four pointers, OVF, the accesses (unit, entry)
that wait for DONE and whether its eviction does (R226), the sectors that the slice has filled, and those of them that are dirty. -/
structure DirEntry where
  line : Nat
  owner : Option Nat := none
  sharers : List Nat := []
  ovf : Bool := false
  held : List (Nat × Nat) := []
  leaving : Bool := false
  filled : BitVec 8 := 0
  dirty : BitVec 8 := 0
deriving DecidableEq, Repr

/-- A second-stage translation (09 R232): the physical address, the size of its page, HOST, SHR, and what its leaf permits. -/
structure Stage2 where
  pa : Nat
  bits : Nat
  host : Bool
  shr : Bool
  r : Bool
  w : Bool
  x : Bool
deriving DecidableEq, Repr

/-- A combined translation held in a TLB (09 R236): the page of 2^bits bytes at va maps to the partition address part and to pa, with the flags of
its first-stage leaf and what the second stage permits. tables is false where no second stage with tables took part. -/
structure TlbEntry where
  partition : Nat
  asid : Nat
  global : Bool
  va : Nat
  part : Nat
  pa : Nat
  bits : Nat
  host : Bool
  perm : BitVec 8
  tables : Bool
  shr : Bool
  r2 : Bool
  w2 : Bool
  x2 : Bool
deriving DecidableEq, Repr

/-- An entry of a cluster's walk cache (09 R236): the next table of a non-leaf first-stage entry at a level, for the VAs with a prefix, or a
second-stage translation of a page of partition addresses. -/
inductive WalkEntry where
  | table (partition asid level key next : Nat)
  | second (partition page : Nat) (stage : Stage2)
deriving DecidableEq, Repr

/-- A line of the L1 instruction cache (09 R238): the sectors that it holds and their bytes that are not 0. -/
structure ILine where
  line : Nat
  valid : BitVec 8
  cells : List Host.Cell
deriving DecidableEq, Repr

/-- The slot that a core is forming (07 R167): the context, the counts of class S and X, the x registers that its
instructions wrote, and its 64-byte block. -/
structure Slot where
  hart : Nat
  ns : Nat
  nx : Nat
  writes : List Nat
  block : Nat
deriving DecidableEq, Repr

/-- A vector core (07 R161; 08 R195–R208; 09 R212–R226; 14 R364). The lanes are busy until a cycle; an entry that reads one of the registers
(context, register) of chain, which the lanes are writing, may start from chainFrom; pieceFree is the first cycle promised to no piece of the Hoist
(16 R412). parity lists the slices (physical register, lane, or 32 for the check
lane) whose parity fails and that no read has met, failingLanes those under integrity hold, failingWords the local words (space, word)
under hold; an environment gives them. -/
structure Core where
  last : Nat := 15
  slot : Option Slot := none
  vq : List VecEntry := []
  lanesUntil : Nat := 0
  chainFrom : Nat := 0
  chain : List (Nat × Nat) := []
  nextName : Nat := 1
  reuse : List ReuseEntry := []
  scratch : List Host.Cell := []
  wbuf : List Host.Cell := []
  abuf : List Host.Cell := []
  cbuf : List Host.Cell := []
  locks : Tbl (Nat × Nat) := []
  ready : Tbl (List (BitVec 16)) := []
  launch : Tbl (List LaunchRec) := []
  hoist : List HoistReq := []
  nextReq : Nat := 0
  tokens : List (Nat × Word × BitVec 16) := []
  l1 : List L1Line := []
  icache : List ILine := []
  posted : List Posted := []
  tlb : List TlbEntry := []
  itlb : List TlbEntry := []
  pipes : Tbl (List TlbEntry) := []
  nextPipe : Nat := 0
  pieceFree : Nat := 0
  kflog : KFlog := {}
  kcut : KCut := {}
  parity : List (Nat × Nat) := []
  rebuilds : Tbl Nat := []
  spared : Option Nat := none
  stallUntil : Nat := 0
  failingLanes : List (Nat × Nat) := []
  failingWords : List (Nat × Nat) := []
  dbg : Debug := {}
  ovf : List OvfRecord := []
  dirInval : Word := 0
  dirDone : Word := 0
  maddr : Nat := 0
deriving DecidableEq, Repr

/-- A parked release in a boundary router (10 R253–R256). -/
structure Parked where
  idx : Nat
  core : Nat
  posted : Nat
  hart : Nat
  scope : Nat
  cls : Nat
  nBit : Bool
  popped : Bool
  widened : Bool
  addr : Nat
deriving DecidableEq, Repr

/-- A format context of a Bench (17 R422). -/
structure FormatCtx where
  afmt : Nat := 8
  wfmt : Nat := 8
  anchor : BitVec 8 := 0
  overflow : Bool := false
  inexact : Bool := false
  invalid : Bool := false
  rowScale : Tbl (BitVec 8) := []
  colScale : Tbl (BitVec 8) := []
deriving DecidableEq, Repr

/-- A loaded weight plane (17 R422, R425): its input pair and the bytes of its 64 columns as one little-endian number. -/
structure Plane where
  afmt : Nat
  wfmt : Nat
  data : Nat
deriving DecidableEq, Repr

/-- A Bench instruction in the command queue with its operand values (17 R420), for BFMT the bytes read at issue, and the cycle at
which it is complete (17 R428); mute is set on a BSYNC whose token is for a thread that has been killed (03 R83). -/
structure BenchCmd where
  instr : Instr
  pc : Word
  xa : Word
  xb : Word
  xc : Word
  bytes : List Byte
  done : Nat
  mute : Bool := false
deriving DecidableEq, Repr

/-- The Bench's timetable (17 R426, R428): the cycle from which an instruction that overlaps nothing may start, the start of the
stream that the next BLS may overlap, the last accumulator writes of streams and BCLRs (core, first row, rows, cycle), and the cycle at
which every accepted instruction is complete. -/
structure BenchTimes where
  free : Nat := 0
  overlap : Option Nat := none
  tails : List (Nat × Nat × Nat × Nat) := []
  last : Nat := 0
deriving DecidableEq, Repr

/-- A pair descent whose holds are taken (17 R438, R439; 06 R157): the global address of its continuation block, the context that issued it last, the
roots that it named, the global addresses of the root headers on which it holds, and whether it has begun or still waits for an even EPOCH. What is left
of it stands in the continuation block. -/
structure Descent where
  id : Nat
  cont : Nat
  hart : Nat
  roots : Nat × Nat
  holds : List Nat
  begun : Bool
deriving DecidableEq, Repr

/-- A cluster: Bench, the cycle until which its texture unit is busy (17 R436), walk cache and the cycles at which its running walks end, boundary
router (07 R159; 09 R236; 10 R253; 17 R422). -/
structure Cluster where
  bench : List BenchCmd := []
  times : BenchTimes := {}
  fmt : Tbl FormatCtx := []
  active : Option Plane := none
  shadow : Option Plane := none
  benchFail : Option (Nat × Word) := none
  texUntil : Nat := 0
  walks : List WalkEntry := []
  walking : List Nat := []
  router : List Parked := []
  cutArm : Bool := false
  cutRec : Bool := false
deriving DecidableEq, Repr

/-- A die: clock, limits and integrity (01 R12–R16, R28, R30). -/
structure Die where
  clock : Nat := 1200
  plim : Bool := false
  tlim : Bool := false
  tj : Nat := 0
  power : Nat := 0
  sinceRaise : Nat := 50
  samples : List Nat := []
  corrected : Nat := 0
  replays : Nat := 0
  retrains : Nat := 0
  holds : List (Nat × Nat) := []
  log : List (Nat × Nat) := []
deriving DecidableEq, Repr

/-- A partition table entry (02 R41). -/
structure PartEntry where
  valid : Bool := false
  state : Nat := 0
  clusters : BitVec 512 := 0
  gw : BitVec 128 := 0
  es : BitVec 64 := 0
  heads : BitVec 256 := 0
  s2root : Word := 0
  cmdcores : BitVec 16 := 0
  shw : BitVec 8 := 0
deriving DecidableEq, Repr

/-- Where a population came from (05 R109). -/
inductive Origin where
  | packet (fn q seqNo : Nat)
  | node (graph node : Nat)
  | batch (queue bin batch : Nat)
deriving DecidableEq, Repr

/-- A population: waiting for admission, admitted or pre-empted (05 R109–R118). -/
structure Population where
  origin : Origin
  fn : Nat
  body : BitVec 512
  prio : Nat
  since : Nat
  popid : Nat
  admitted : Nat
  stackBase : Nat
  gang : Nat
  comp : Word
  as : Word
  records : List (Nat × LaunchRec)
  saved : List Nat
  sieve : Option Nat
  reserve : List Nat
deriving DecidableEq, Repr

/-- A member of a gang (07 R175, R176): the thread's hart (or, above 2^20, what stands for its save slot), its rank, the first
generation to which it is a party, its arrival flag with the generation at which it arrived, and whether the generation waits for all of its
posted accesses (R177). -/
structure Member where
  who : Nat
  rank : Nat
  party : Nat
  arrived : Bool
  gen : Nat := 0
  widened : Bool := false
deriving DecidableEq, Repr

/-- A gang record (07 R175). reserved is the count of a population gang, 0 for a dynamic gang; begun counts its threads that have started, and
underWay holds from the arrival of the generation's first party until it completes (R176). -/
structure Gang where
  id : Nat
  reserved : Nat
  coresident : Bool
  members : List Member
  generation : Nat
  begun : Nat := 0
  underWay : Bool := false
deriving DecidableEq, Repr

/-- A batch of a list queue (05 R123, R124). -/
structure Batch where
  bin : Nat
  number : Nat
  n : Nat
  first : Nat
  complete : Bool
deriving DecidableEq, Repr

/-- A push, or a close, that an ORDER = 1 thread has staged with its batch (05 R125): the batch and the thread index, the target
queue and bin, and the record; none is a close. -/
structure Staged where
  batch : Nat
  thread : Nat
  target : Nat
  bin : Nat
  record : Option (BitVec 512)
deriving DecidableEq, Repr

/-- Who closes a list queue (05 R122): an AGENT node, a queue that finishes, a thread, or a thread of an ORDER = 1 batch whose close is staged. -/
inductive Closer where
  | node (graph node : Nat)
  | queue (pa : Nat)
  | thread (popid index : Nat)
  | staged (batch index : Nat)
deriving DecidableEq, Repr

/-- An attached list queue (05 R121–R125): its descriptor's global address and VA, the graph that attached it, its batches, the
commit times of the records that are pending in each bin, what threads have staged, what completed batches still commit, and the
closes that follow pushes which wait for a slot (context, pc and instret of each; 17 R442); misuse lists the closers whose closes came after it
was closed (R122). -/
structure ListQueue where
  pa : Nat
  va : Nat
  graph : Nat
  fn : Nat
  batches : List Batch
  nextBatch : Nat
  times : Tbl (List Nat)
  staged : List Staged
  commits : List Staged
  closing : List (Closer × List (Nat × Word × Word))
  misuse : List Closer := []
deriving DecidableEq, Repr

/-- A consistent cut in progress (11 R283–R287): its kind (0, 1 and 2 the modes of a CUT, 3 a RESIZE, 4 a hard pre-emption), its
clusters, its packet, the new entries of a RESIZE, and the units that have recorded themselves with the cycle of each. -/
structure Cut where
  kind : Nat
  clusters : List Nat
  fn : Nat
  q : Nat
  seqNo : Nat
  entries : List (Nat × PartEntry)
  recorded : List (Nat × Nat)
deriving DecidableEq, Repr

/-- A thread in a save slot (05 R117–R119): its hart and its Hoist requests, of which the record in memory lacks a part, and the tokens that waited for
room in its q7. -/
structure SavedThread where
  slot : Nat
  hard : Bool
  hart : Hart
  hoist : List HoistReq
  timer : Option Word
  populationOf : Nat
  holds : List (Nat × Nat)
  tokens : List (Word × BitVec 16) := []
deriving DecidableEq, Repr

/-- What a CUT has recorded (11 R285, R286; 03 R84): the free value that the bytes of its body follow and their number, the clusters,
their harts, cores and Benches, the cycle of each unit's record, the gangs, the attached list queues and the bytes of their descriptors and
bins (05 R127). -/
structure CutImage where
  id : Nat
  used : Nat
  clusters : List Nat
  harts : Tbl Hart
  cores : Tbl Core
  benches : Tbl Cluster
  recorded : List (Nat × Nat)
  gangs : List Gang := []
  queues : List ListQueue := []
  cells : List Host.Cell := []
deriving DecidableEq, Repr

/-- A call of a partition's policy plug-in that is under way (03 R63, R64): the command core that runs it, the command-core cycle at which it began, the
queues of its summary in order, and the hart of the scheduler that it has taken the place of. -/
structure PluginCall where
  core : Nat
  since : Nat
  queues : List Nat
  saved : Hart
deriving DecidableEq, Repr

/-- A change that an optimiser engine makes (06 R145, R146): its cluster, the VA of the root header, the writes that are left in their groups (VA,
bytes, value), and the cycle of its claim. -/
structure OptRun where
  cluster : Nat
  root : Nat
  writes : List (List (Nat × Nat × Nat))
  since : Nat
deriving DecidableEq, Repr

/-- The scheduler's state of one partition (03 R61–R65; 05 R109–R119), the changes of its optimiser engines, and for each optimised hierarchy (the global
address of its root header, its OPTCL) the cluster that has optimised it (06 R158). -/
structure Partition where
  entry : PartEntry := {}
  nextPop : Nat := 0
  waiting : Tbl (List Population) := []
  running : List Population := []
  gangs : List Gang := []
  victims : List (Nat × Nat × Nat) := []
  slotsUsed : List Nat := []
  saved : List SavedThread := []
  cut : Option Cut := none
  images : List CutImage := []
  rehoming : Option Nat := none
  lastQueue : Nat := 15
  pluginRow : Nat := 0
  pluginCall : Option PluginCall := none
  changes : List OptRun := []
  bound : List (Nat × Nat × Nat) := []
deriving DecidableEq, Repr

/-- A packet that has started and is not complete (03 R75): when it started, the contexts that a kill has stopped, the packets that
a KILL stops, whether its watchdog has expired, for a forwarded packet its Sieve entry and its place in the source queue (function, queue, number), and
for one that a mode-1 CUT has stopped the number of the image and the command-core cycle (03 R84). -/
structure Started where
  seqNo : Nat
  packet : BitVec 512
  at_ : Nat
  harts : List Nat := []
  targets : List (Nat × Nat × Nat) := []
  expired : Bool := false
  src : Option (Nat × Nat × Nat × Nat) := none
  stopped : Option (Nat × Nat) := none
deriving DecidableEq, Repr

/-- A forwarded packet in an inbox (03 R69). -/
structure Inbox where
  packet : BitVec 512
  sieve : Nat
  srcFn : Nat
  srcQ : Nat
  srcSeq : Nat
deriving DecidableEq, Repr

/-- A submission queue (02 R47, R48; 03 R61, R64, R69). -/
structure Queue where
  qbase : Word := 0
  en : Bool := false
  space : Bool := false
  size : Nat := 0
  wben : Bool := false
  vec : Nat := 0
  head : Nat := 0
  qstate : Nat := 0
  err : Nat := 0
  qwb : Word := 0
  tail : Nat := 0
  core : Nat := 0
  startedCount : Nat := 0
  nextSeq : Nat := 0
  headSince : Nat := 0
  started : List Started := []
  inbox : List Inbox := []
deriving DecidableEq, Repr

/-- The coalescing state of an MSI-X vector (03 R87). -/
structure Msix where
  countTh : Nat := 1
  timer : Nat := 0
  pending : Nat := 0
  since : Nat := 0
  masked : Bool := false
  pciePending : Bool := false
deriving DecidableEq, Repr

/-- The control block of a function (02 R47; 03 R65; 04 R104; 05 R107; 09 R238; 10 R258; 11 R267). -/
structure Func where
  funcEn : Bool := false
  drops : Nat := 0
  asReg : Word := 0
  wdt : Nat := 0
  pluginBase : Word := 0
  pluginLen : Nat := 0
  pluginActive : Bool := false
  pluginFaults : Nat := 0
  txslot : BitVec 9 := 0
  txen : Bool := false
  txroot : Tbl (BitVec 44) := []
  stkbase : Word := 0
  stklen : Word := 0
  compbase : Word := 0
  savebase : Word := 0
  saveslots : Nat := 0
  prewait : Nat := 0
  cutbase : Word := 0
  preempts : Nat := 0
  hardcuts : Nat := 0
  invva : BitVec 48 := 0
  invAll : Bool := false
  invStage2 : Bool := false
  invBusy : Option Nat := none
  invRefused : Bool := false
  invPsel : Nat := 0
  strict : Bool := false
  rtvec : Word := 0
  rtscr : Word := 0
  queues : Tbl Queue := []
  msix : Tbl Msix := []
  flr : Option Nat := none
  flrHarts : List Nat := []
deriving DecidableEq, Repr

/-- A flip slot of a head (02 R54, R55): the partition that wrote it, what it latched, its place in acceptance order, the engine
slots that it still needs, and the partition's second-stage root, which it keeps through a RESIZE that empties the partition (R46). -/
structure Flip where
  owner : Nat
  seqNo : Word32
  surf : Word
  dims : Word
  mode : Word
  order : Nat
  owed : Nat
  root : Word := 0
deriving DecidableEq, Repr

/-- A virtual display head (02 R53, R54, R57). -/
structure Head where
  surf : Word := 0
  dims : Word := 0
  mode : Word := 0
  ring : Word := 0
  ringlog : Nat := 0
  rp : Nat := 0
  flip : Word32 := 0
  refused : Nat := 0
  done : Word32 := 0
  wp : Nat := 0
  slots : List Flip := []
  frames : Nat := 0
  lastDims : Nat := 0
  history : List (List Byte × Nat) := []
deriving DecidableEq, Repr

/-- A shared-weight region (02 R58): BUSY holds from a FREEZE until the posted accesses numbered below a bound are performed (R59). -/
structure Region where
  base : Word := 0
  size : Nat := 0
  freeze : Bool := false
  busy : Option Nat := none
deriving DecidableEq, Repr

/-- A Sieve entry (03 R67). -/
structure Sieve where
  w0 : Word := 0
  pcLo : Word := 0
  pcHi : Word := 0
  maxCount : Nat := 0
  inflight : Nat := 0
deriving DecidableEq, Repr

/-- The state of a graph node in the current pass (03 R82). -/
inductive NodeState where
  | idle | started | complete
deriving DecidableEq, Repr

/-- A running graph (03 R81, R82, R474). -/
structure Graph where
  id : Nat
  fn : Nat
  q : Nat
  seqNo : Nat
  nodes : List (BitVec 512)
  states : List NodeState
  pass : Nat
  iterLimit : Nat
  rearm : Bool
  failure : Option Nat
  queues : List Nat
  killed : Bool
deriving DecidableEq, Repr

/-- A unit that an AGENT node owns (05 R126; 06 R128, R130): its queues, its configuration block, the bin and the record that it has
popped, and how many outputs of that record it has pushed. -/
structure AgentUnit where
  graph : Nat
  node : Nat
  kind : Nat
  inst : Nat
  input : Nat
  output : Nat
  config : BitVec 512
  stopped : Bool
  held : Option (Nat × BitVec 512)
  carry : Nat
deriving DecidableEq, Repr

/-- What the device has sent towards the host, or to another K3 (01 R23; 02 R36, R51; 03 R87; 09 R234). -/
inductive HostOut where
  | msix (fn vec : Nat)
  | readData (tag : Nat) (data : List Byte)
  | completerAbort (tag : Nat)
  | unsupported (tag : Nat)
  | retryStatus (tag : Nat)
  | configOk (tag : Nat)
  | aer (fn : Nat) (fatal : Bool)
  | pageRequest (fn page : Nat)
  | quote (fn : Nat) (data : List Byte)
  | certificate (fn : Nat) (data : List Byte)
  | haulReply (data : List Byte)
  | haulAck
  | haulError
deriving DecidableEq, Repr

/-- The host link (02 R36). -/
structure HostLink where
  width : Nat := 16
  gts : Nat := 128
deriving DecidableEq, Repr

/-- A haul port (01 R22, R24). -/
structure Port where
  lanes : Nat := 8
  changed : Bool := false
deriving DecidableEq, Repr

/-- An AV1 engine (02 R45, R55): the last slot that it has gone through, the last period whose shares are kept, and the partitions' slots as that period
found them. -/
structure Engine where
  last : Nat := 0
  period : Option Nat := none
  shares : Tbl Nat := []
deriving DecidableEq, Repr

/-- A disturbance of stored or carried data that an environment gives (01 R26–R28): what DRAM returns for a sector, 128 data bytes and 8
check bytes; a sector with the check that it carries, as an L2 slice holds it; flipped bits of a 64-bit SECDED word of a local memory (space,
word), of an L1 data cache's copy (physical address) or of a context's storage; a slice of a physical register whose parity fails. -/
inductive Flaw where
  | dram (sector : Nat) (image : BitVec 1088)
  | carried (slice sector : Nat) (data : BitVec 1024) (check : BitVec 32)
  | localWord (core space word flips : Nat)
  | l1Word (core addr flips : Nat)
  | contextWord (hart : Nat) (at_ : Spoiled) (flips : Nat)
  | slice (core name lane : Nat)
deriving DecidableEq, Repr

/-- What is reported to the M-mode monitor: a hold of a die's unit and datum (01 R30), the partition-physical address of a second-stage failure
(09 R233), a retired lane (08 R208). -/
inductive Note where
  | hold (die unit datum : Nat)
  | secondStage (partition addr : Nat)
  | retired (core lane : Nat)
deriving DecidableEq, Repr

/-- The boot state (01 R31–R35): digest holds what the PF driver has staged for its next extension, fuseKey is the digest of the public key that is
fused into the device, and fuseRollback the fuse field whose blown bits are counted (notes/assumptions/5.md). -/
structure Boot where
  mr : Tbl (BitVec 256) := []
  stage : Nat := 0
  recovery : Bool := false
  upload : Option BootImage := none
  boots : Nat := 0
  held : Bool := false
  version : Nat := 0
  digest : BitVec 256 := 0
  fuseKey : BitVec 256 := 0
  fuseRollback : BitVec 64 := 0
deriving DecidableEq, Repr

/-- The whole machine. flaws holds the disturbances to come with the cycle of each, traffic the remote devices with the cycle until which a load
or an atomic of theirs is in flight (01 R24), and vfsOff holds from a PF function-level reset on (02 R52). now is the cycle, cur the hart that
executes, turn the hart that began the last slot, actAt the cycle from which the device outside the cores may act again, and actLast the key of
its last action (notes/assumptions/70.md). -/
structure State where
  now : Nat
  cur : Nat
  turn : Nat
  actAt : Nat
  actLast : Nat
  agenda : List (Nat × Instr)
  free : Nat
  boot : Boot
  harts : Tbl Hart
  cores : Tbl Core
  clusters : Tbl Cluster
  dies : Tbl Die
  parts : Tbl Partition
  funcs : Tbl Func
  heads : Tbl Head
  engines : Tbl Engine
  regions : Tbl Region
  sieve : Tbl Sieve
  weighbridge : List (Nat × Nat × Nat × BitVec 512)
  graphs : List Graph
  listQueues : List ListQueue
  units : List AgentUnit
  descents : List Descent
  nextId : Nat
  mem : List Host.Cell
  hostMem : List Host.Cell
  dir : Tbl (List DirEntry)
  frames : Tbl Nat
  failing : List Nat
  flaws : List (Nat × Flaw)
  monitor : List Note
  traffic : List (Nat × Nat)
  ports : Tbl Port
  routes : Tbl Nat
  link : HostLink
  out : List HostOut
  pagesRefused : List Nat
  pwrCap : Nat
  powerW : Nat
  dbgCore : Nat
  dbgEn : Bool
  vfsOff : Bool
deriving DecidableEq, Repr

/-- Why the machine stops with a fault. No instruction of the manual stops the machine, so each names a thing that lies
outside it. -/
inductive Fault where
  /-- Raised by step while I/O die 8 holds every die in reset (01 R15): nothing executes until power is cycled. Safe. -/
  | heldInReset
deriving DecidableEq, Repr

/-- Why the machine refuses a step. -/
inductive Refusal where
  /-- Raised by an arm of exec that has no meaning yet. Safe. -/
  | notModelled (mnemonic : String)
deriving DecidableEq, Repr

/-- Partition 64 after reset: valid, running, and owner of every cluster, head, weight, slot and command core (02 R41). -/
def PartEntry.reset64 : PartEntry :=
  { valid := true, state := 1, clusters := BitVec.allOnes 512
    gw := 0x40404040404040404040404040404040, es := 0x4040404040404040
    heads := BitVec.allOnes 256, cmdcores := BitVec.allOnes 16 }

/-- The delegation that the monitor fixes for every vector-core context (11 R266): exceptions 0–8, 12, 13, 15 and
24–30 and interrupts 16–22 go to S-mode; exceptions 9 and 31 stay in M-mode. -/
def Csrs.delegated : Csrs := { medeleg := 0x7F00B1FF, mideleg := 0x7F0000 }

/-- Context 0 of a vector core after reset: RUNNING (07 R163), in WFI between its services (07 R180). -/
def Hart.resetSupervisor : Hart :=
  { run := .running, priv := .supervisor, waiting := some .interrupt, csr := Csrs.delegated }

/-- A context 1–15 of a vector core after reset: FREE (07 R163). -/
def Hart.resetContext : Hart := { priv := .user, csr := Csrs.delegated }

/-- A context of a control core after reset: in S-mode firmware that waits (07 R162). -/
def Hart.resetControl : Hart :=
  { run := .running, priv := .supervisor, waiting := some .interrupt, csr := Csrs.delegated }

/-- A command core or the Weighbridge processor before its firmware is loaded (01 R31). -/
def Hart.resetCommand : Hart := { run := .running, waiting := some .interrupt }

/-- The reset record of the hart with a given mhartid (07 R160). -/
def Hart.resetOf (h : Nat) : Hart :=
  if h < 65536 then (if h % 16 = 0 then Hart.resetSupervisor else Hart.resetContext)
  else if h < 0x20000 then Hart.resetControl
  else Hart.resetCommand

/-- The reset record of a die: 1,200 MHz for a compute die, and the fixed 1,600 MHz of the command processors for I/O dies 8 and 9 (01 R12, R16). -/
def Die.resetOf (d : Nat) : Die := { clock := if d < 8 then 1200 else 1600 }

/-- The hart that a cold reset starts: command core 0 of I/O die 8, in M-mode at the boot ROM (01 R31). -/
def Hart.resetBoot : Hart := { run := .running, priv := .machine, pc := 0 }

/-- The machine right after reset. -/
def State.reset : State :=
  { now := 0, cur := 0x20000, turn := 0x20000, actAt := 0, actLast := 0, agenda := [], free := 0, boot := {}
    harts := [(0x20000, Hart.resetBoot)], cores := [], clusters := [], dies := []
    parts := [(64, { entry := PartEntry.reset64 })], funcs := [], heads := [], engines := [], regions := []
    sieve := [], weighbridge := [], graphs := [], listQueues := [], units := [], descents := [], nextId := 0
    mem := [], hostMem := [], dir := [], frames := [], failing := [], flaws := [], monitor := [], traffic := [], ports := [], routes := []
    link := {}, out := [], pagesRefused := [], pwrCap := 0xA8C, powerW := 0, dbgCore := 0, dbgEn := false
    vfsOff := false }

end Sys2Proof.Machine
end

