-- ==== Sys2Proof/Machine/Ops.lean ====
section
/-! DEFINITION. The named operations that every meaning is made of: the parts of the state by name, the ways a meaning ends
(retire, wait, trap), the scalar registers with their full/empty bits, taking a trap and returning from one. -/

namespace Sys2Proof.Machine

/- The harts and units of the package (07 R159, R160). -/

/-- A context of a vector core. -/
def isVector (h : Nat) : Bool := h < 0x10000

/-- A context of a control core. -/
def isControl (h : Nat) : Bool := 0x10000 ≤ h && h < 0x20000

/-- The unit that runs a hart: vector cores 0 to 4,095, then the control cores, the command cores and the Weighbridge
processor. -/
def unitOf (h : Nat) : Nat :=
  if h < 0x10000 then h / 16
  else if h < 0x20000 then 4096 + (h - 0x10000) / 2
  else 4608 + (h - 0x20000)

/-- The context number of a hart in its unit. -/
def ctxOf (h : Nat) : Nat :=
  if h < 0x10000 then h % 16 else if h < 0x20000 then h % 2 else 0

/-- The cluster of a unit; none for a command core. -/
def clusterOfUnit (u : Nat) : Option Nat :=
  if u < 4096 then some (u / 8) else if u < 4608 then some (u - 4096) else none

/-- The die of a unit: a compute die, or I/O die 8 or 9 (command cores 0 to 7 and the Weighbridge processor on die 8). -/
def dieOfUnit (u : Nat) : Nat :=
  match clusterOfUnit u with
  | some c => c / 64
  | none => if u < 4608 + 8 ∨ u = 4624 then 8 else 9

/-- The hart of a context of a vector core. -/
def hartOf (core ctx : Nat) : Nat := 16 * core + ctx

/- The parts of the state by name. -/

/-- A hart. -/
def State.hart (s : State) (h : Nat) : Hart := tblGet (Hart.resetOf h) s.harts h

/-- The state with one hart replaced. -/
def State.setHart (s : State) (h : Nat) (v : Hart) : State := { s with harts := tblSet s.harts h v }

/-- The state with one hart changed. -/
def State.modHart (s : State) (h : Nat) (f : Hart → Hart) : State := s.setHart h (f (s.hart h))

/-- A unit (a vector core, or the like part of another hart). -/
def State.core (s : State) (u : Nat) : Core := tblGet {} s.cores u

/-- The state with one unit replaced. -/
def State.setCore (s : State) (u : Nat) (v : Core) : State := { s with cores := tblSet s.cores u v }

/-- The state with one unit changed. -/
def State.modCore (s : State) (u : Nat) (f : Core → Core) : State := s.setCore u (f (s.core u))

/-- A cluster. -/
def State.cluster (s : State) (c : Nat) : Cluster := tblGet {} s.clusters c

/-- The state with one cluster changed. -/
def State.modCluster (s : State) (c : Nat) (f : Cluster → Cluster) : State :=
  { s with clusters := tblSet s.clusters c (f (s.cluster c)) }

/-- A die. -/
def State.die (s : State) (d : Nat) : Die := tblGet (Die.resetOf d) s.dies d

/-- The state with one die changed. -/
def State.modDie (s : State) (d : Nat) (f : Die → Die) : State := { s with dies := tblSet s.dies d (f (s.die d)) }

/-- A partition. -/
def State.part (s : State) (p : Nat) : Partition := tblGet {} s.parts p

/-- The state with one partition changed. -/
def State.modPart (s : State) (p : Nat) (f : Partition → Partition) : State :=
  { s with parts := tblSet s.parts p (f (s.part p)) }

/-- The control block of a function; a function has the number of its partition. -/
def State.func (s : State) (f : Nat) : Func := tblGet {} s.funcs f

/-- The state with one function changed. -/
def State.modFunc (s : State) (fn : Nat) (f : Func → Func) : State := { s with funcs := tblSet s.funcs fn (f (s.func fn)) }

/-- A shared-weight region. -/
def State.region (s : State) (k : Nat) : Region := tblGet {} s.regions k

/-- A display head. -/
def State.head (s : State) (h : Nat) : Head := tblGet {} s.heads h

/-- A haul port. -/
def State.port (s : State) (p : Nat) : Port := tblGet {} s.ports p

/-- A submission queue of a function. -/
def State.queue (s : State) (fn q : Nat) : Queue := tblGet {} (s.func fn).queues q

/-- The state with one submission queue changed. -/
def State.modQueue (s : State) (fn q : Nat) (f : Queue → Queue) : State :=
  s.modFunc fn (fun c => { c with queues := tblSet c.queues q (f (tblGet {} c.queues q)) })

/-- Add an event that falls due at a time. -/
def State.schedule (s : State) (at_ : Nat) (e : Instr) : State := { s with agenda := s.agenda ++ [(at_, e)] }

/-- Take a fresh free value (notes/assumptions/2.md). -/
def State.takeFree (s : State) : Word × State := (Config.freeValue s.free, { s with free := s.free + 1 })

/-- The count of cycles that a hart reads (08 R211). -/
def State.cycle (s : State) : Word := BitVec.ofNat 64 s.now

/-- Change the vector part of a hart. -/
def Hart.modVec (h : Hart) (f : VecCtx → VecCtx) : Hart := { h with vec := f h.vec }

/-- Change the privileged CSRs of a hart. -/
def Hart.modCsr (h : Hart) (f : Csrs → Csrs) : Hart := { h with csr := f h.csr }

/- How a meaning ends. -/

/-- Why an instruction does not retire. trap and wait leave the state as it was before the instruction; trapWith and
waitWith leave the state they carry, for the effects that the manual keeps (11 R271; 07 R170). -/
inductive Stop where
  | trap (cause : Nat) (tval : Word)
  | trapWith (cause : Nat) (tval : Word) (s : State)
  | illegal (word : Nat)
  | wait (w : Wait)
  | waitWith (w : Wait) (s : State)

/-- A meaning in steps: it changes the state, answers a value, or stops. -/
abbrev M (α : Type) := StateT State (Except Stop) α

/-- Stop with an exception that leaves no effect. -/
def trapM {α : Type} (cause : Nat) (tval : Word) : M α := fun _ => .error (.trap cause tval)

/-- Stop with an exception that keeps the present state. -/
def trapKeepM {α : Type} (cause : Nat) (tval : Word) : M α := fun s => .error (.trapWith cause tval s)

/-- Wait, with no effect. -/
def waitM {α : Type} (w : Wait) : M α := fun _ => .error (.wait w)

/-- Wait, keeping the present state. -/
def waitKeepM {α : Type} (w : Wait) : M α := fun s => .error (.waitWith w s)

/-- The instruction is illegal here (11 R271). -/
def illegalM {α : Type} (i : Instr) : M α := fun _ => .error (.illegal ((encode i).getD 0))

/-- Illegal unless a condition holds. -/
def requireM (ok : Bool) (i : Instr) : M Unit := if ok then pure () else illegalM i

/-- The executing hart. -/
def me : M Hart := fun s => .ok (s.hart s.cur, s)

/-- Change the executing hart. -/
def modMe (f : Hart → Hart) : M Unit := fun s => .ok ((), s.modHart s.cur f)

/-- Apply a function of the state. -/
def modS (f : State → State) : M Unit := fun s => .ok ((), f s)

/-- Ask the state. -/
def askS {α : Type} (f : State → α) : M α := fun s => .ok (f s, s)

/-- Take a fresh free value. -/
def freshM : M Word := fun s => .ok (s.takeFree.1, s.takeFree.2)

/- Traps (11 R266, R269; the RISC-V privileged architecture). Bits of mstatus: SIE 1, MIE 3, SPIE 5, MPIE 7, SPP 8,
MPP 12:11, MPRV 17, SUM 18, MXR 19, TVM 20, TW 21, TSR 22. -/

/-- The number of a privilege mode. -/
def privNat : Priv → Nat
  | .user => 0
  | .supervisor => 1
  | .machine => 3

/-- The privilege mode of a number; the reserved encoding 2 does not arise. -/
def privOf (n : Nat) : Priv := if n = 0 then .user else if n = 1 then .supervisor else .machine

/-- A word with one bit set to a value. -/
def setBitW (w : Word) (i : Nat) (b : Bool) : Word := setWfld w i i (natOf b)

/-- Where a trap vector sends a trap: BASE, and BASE + 4 × cause for an interrupt in vectored mode. -/
def vectorTarget (tvec : Word) (interrupt : Bool) (cause : Nat) : Word :=
  let base := setWfld tvec 1 0 0
  if interrupt ∧ wfld tvec 1 0 = 1 then base + BitVec.ofNat 64 (4 * cause) else base

/-- The value of xcause. -/
def causeWord (interrupt : Bool) (cause : Nat) : Word :=
  if interrupt then BitVec.ofNat 64 (2 ^ 63 + cause) else BitVec.ofNat 64 cause

/-- Whether a trap is taken in S-mode: it comes from U or S and is delegated (11 R266). -/
def trapToS (h : Hart) (interrupt : Bool) (cause : Nat) : Bool :=
  h.priv ≠ .machine && (if interrupt then h.csr.mideleg else h.csr.medeleg).getLsbD cause

/-- A hart that has entered S-mode for a trap. -/
def Hart.enterS (h : Hart) (interrupt : Bool) (cause : Nat) (tval : Word) : Hart :=
  let st := h.csr.mstatus
  let st := setBitW (setBitW (setBitW st 5 (st.getLsbD 1)) 1 false) 8 (h.priv ≠ .user)
  { h with
    csr := { h.csr with mstatus := st, sepc := h.pc, scause := causeWord interrupt cause, stval := tval }
    priv := .supervisor, pc := vectorTarget h.csr.stvec interrupt cause }

/-- A hart that has entered M-mode for a trap. -/
def Hart.enterM (h : Hart) (interrupt : Bool) (cause : Nat) (tval : Word) : Hart :=
  let st := h.csr.mstatus
  let st := setWfld (setBitW (setBitW st 7 (st.getLsbD 3)) 3 false) 12 11 (privNat h.priv)
  { h with
    csr := { h.csr with mstatus := st, mepc := h.pc, mcause := causeWord interrupt cause, mtval := tval }
    priv := .machine, pc := vectorTarget h.csr.mtvec interrupt cause }

/-- Taking a trap: xepc, xcause, xtval and xstatus are written, the mode and the pc change, kstat.HND is set (08 R210),
the reservation ends (10 R251) and a wait ends (07 R171). -/
def Hart.takeTrap (h : Hart) (interrupt : Bool) (cause : Nat) (tval : Word) : Hart :=
  let g := if trapToS h interrupt cause then h.enterS interrupt cause tval else h.enterM interrupt cause tval
  { g with kstat := { g.kstat with hnd := true }, reservation := none, waiting := none, resuming := false
           widening := false, fencing := none, bankSince := none }

/-- Whether a hart runs its core's program buffer in debug mode (11 R291). -/
def inProgram (s : State) (h : Nat) : Bool :=
  match (s.core (unitOf h)).dbg.prog with
  | some (k, _) => k = h
  | none => false

/-- The program buffer of a unit ends, with an error code; the hart's mode returns to the one that dcsr holds. -/
def endProgram (u : Nat) (err : Nat) (s : State) : State :=
  match (s.core u).dbg.prog with
  | none => s
  | some (h, _) =>
    (s.modHart h (fun g => { g with priv := privOf (wfld g.csr.dcsr 1 0), waiting := none })).modCore u (fun c =>
      { c with dbg := { c.dbg with prog := none, cmderr := if c.dbg.cmderr = 0 then err else c.dbg.cmderr } })

/-- The executing hart takes an exception; its slot ends (07 R167). In the program buffer an exception sets cmderr to 3 in
place of a trap (11 R291). -/
def takeTrap (cause : Nat) (tval : Word) (s : State) : State :=
  if inProgram s s.cur then endProgram (unitOf s.cur) 3 s
  else (s.modHart s.cur (fun h => h.takeTrap false cause tval)).modCore (unitOf s.cur) (fun c => { c with slot := none })

/-- The executing hart takes an illegal-instruction exception: stval holds the first 32 bits and kinstr all of the
instruction (11 R270, R271). -/
def takeIllegal (word : Nat) (s : State) : State :=
  takeTrap 2 (BitVec.ofNat 64 (word % 2 ^ 32))
    (s.modHart s.cur (fun h => h.modCsr (fun c => { c with kinstr := BitVec.ofNat 64 word })))

/-- The executing hart waits: the instruction has not retired (07 R170). -/
def enterWait (w : Wait) (s : State) : State :=
  (s.modHart s.cur (fun h => { h with waiting := some w })).modCore (unitOf s.cur) (fun c => { c with slot := none })

/-- The outcome of a meaning. -/
def runM (m : M Unit) (s : State) : Host.Outcome State Fault Refusal :=
  match m s with
  | .ok (_, t) => .next t
  | .error (.trap c v) => .next (takeTrap c v s)
  | .error (.trapWith c v t) => .next (takeTrap c v t)
  | .error (.illegal w) => .next (takeIllegal w s)
  | .error (.wait w) => .next (enterWait w s)
  | .error (.waitWith w t) => .next (enterWait w t)

/-- The executing hart retires an instruction of n bytes: the pc moves past it and instret counts it. -/
def Hart.retire (h : Hart) (n : Nat) : Hart := { h with pc := h.pc + BitVec.ofNat 64 n, instret := h.instret + 1 }

/-- Retire an instruction of n bytes. -/
def retireM (n : Nat) : M Unit := modMe (fun h => h.retire n)

/-- Retire a jump to a target. -/
def jumpM (target : Word) : M Unit := modMe (fun h => { h with pc := target, instret := h.instret + 1 })

/- Scalar registers and full/empty bits (08 R183, R184). -/

/-- The contents of a scalar register; x0 reads 0. -/
def Hart.getX (h : Hart) (r : Nat) : Word := if r = 0 then 0 else tblGet 0 h.x r

/-- A full/empty state, with a result whose cycle has come counted as written. -/
def feNow (now : Nat) : Fe → Fe
  | .due n => if n ≤ now then .full else .due n
  | e => e

/-- Whether a reader goes on: from the cycle after the one in which the register is written full (07 R165, R170). -/
def feReady (now : Nat) : Fe → Bool
  | .full => true
  | .due n => n < now
  | _ => false

/-- Whether a reader of a scalar register goes on now. -/
def Hart.xReady (h : Hart) (now r : Nat) : Bool := r = 0 || feReady now (tblGet .full h.fe r)

/-- The full/empty state of a scalar register now. -/
def Hart.xFe (h : Hart) (now r : Nat) : Fe := if r = 0 then .full else feNow now (tblGet .full h.fe r)

/-- The hart with a scalar register written and full, and no longer under hold; a write to x0 is discarded. -/
def Hart.setX (h : Hart) (r : Nat) (v : Word) : Hart :=
  if r = 0 then h else { h with x := tblSet h.x r v, fe := tblDel h.fe r, xHeld := h.xHeld.filter (· ≠ r) }

/-- The hart with the full/empty state of a scalar register set. -/
def Hart.setXFe (h : Hart) (r : Nat) (e : Fe) : Hart := if r = 0 then h else { h with fe := tblSet h.fe r e }

/-- Read a scalar register; an empty one waits, and one under integrity hold takes cause 29 (08 R206). -/
def readX (r : Nat) : M Word := fun s =>
  let h := s.hart s.cur
  if !h.xReady s.now r then .error (.wait (.xreg r))
  else if h.xHeld.contains r then .error (.trap 29 0)
  else .ok (h.getX r, s)

/-- A destination waits only while a result is in flight towards it. -/
def destX (r : Nat) : M Unit := fun s =>
  match (s.hart s.cur).xFe s.now r with
  | .due _ => .error (.wait (.xreg r))
  | .inFlight => .error (.wait (.xreg r))
  | _ => .ok ((), s)

/-- Write a scalar register. -/
def writeX (r : Nat) (v : Word) : M Unit := modMe (fun h => h.setX r v)

/-- Write a scalar register whose result becomes available after a number of cycles (07 R168). -/
def writeXAfter (r : Nat) (v : Word) (cycles : Nat) : M Unit := fun s =>
  .ok ((), s.modHart s.cur (fun h => (h.setX r v).setXFe r (.due (s.now + cycles))))

/- The return from a trap (14 R350; 11 R273, R279). -/

/-- Whether an instruction may resume under R273: the memory group, VTEX, VTEXLOD, RQ and RQANY (11 R272). -/
def resumable : Instr → Bool
  | .vld _ | .vldff _ | .vgather _ | .vst _ | .vscatter _ | .vrred _ | .vamoadd _ | .vldacc _ => true
  | .vtex _ | .vtexlod _ | .rq _ | .rqany _ => true
  | _ => false

/-- The privileged half of SRET: the mode and the interrupt enables return. -/
def Hart.leaveS (h : Hart) : Hart :=
  let st := h.csr.mstatus
  let p : Priv := if st.getLsbD 8 then .supervisor else .user
  let st := setBitW (setBitW (setBitW (setBitW st 1 (st.getLsbD 5)) 5 true) 8 false) 17 false
  { h with csr := { h.csr with mstatus := st }, priv := p, pc := h.csr.sepc }

/-- The privileged half of MRET. -/
def Hart.leaveM (h : Hart) : Hart :=
  let st := h.csr.mstatus
  let p := privOf (wfld st 12 11)
  let st := setWfld (setBitW (setBitW st 3 (st.getLsbD 7)) 7 true) 12 11 0
  let st := if p = .machine then st else setBitW st 17 false
  { h with csr := { h.csr with mstatus := st }, priv := p, pc := h.csr.mepc }

/-- What every return adds: HND is cleared, the reservation ends, and RESUME either applies to the instruction at the
return address or is cleared with OWE and vflt. -/
def Hart.afterReturn (h : Hart) (resumes : Bool) : Hart :=
  let k := { h.kstat with hnd := false }
  let h := { h with reservation := none, instret := h.instret + 1 }
  if k.resume then
    if resumes then { h with kstat := k, resuming := true }
    else { h with kstat := { k with resume := false, owe := false }, vec := { h.vec with vflt := 0 } }
  else { h with kstat := k }

/-- Every stopped Hoist request of a context goes back into retry (11 R279). -/
def retryHoist (h : Nat) (s : State) : State :=
  let u := unitOf h
  let c := s.core u
  let again := c.hoist.filter (fun r => r.hart = h && r.stopped.isSome)
  let c := { c with hoist := c.hoist.map (fun r => if r.hart = h then { r with stopped := none } else r) }
  again.foldl (fun t r => t.schedule s.now (.hoistRequestStart u r.id)) (s.setCore u c)

/-- The oldest request of each context of a unit goes on, unless it is stopped (11 R284, R287). -/
def resumeHoist (u : Nat) (s : State) : State :=
  let l := (s.core u).hoist
  let s := { s with agenda := s.agenda.filter (fun e => match e.2 with
    | .hoistRequestStart k _ => k ≠ u
    | _ => true) }
  (l.filter (fun r => r.stopped.isNone && !r.written && !l.any (fun x => x.hart = r.hart && x.id < r.id))).foldl
    (fun t r => t.schedule s.now (.hoistRequestStart u r.id)) s

/-- Whether a context save is in progress in a thread of a partition: a victim that has taken cause 31 (05 R117). -/
def saving (s : State) (p h : Nat) : Bool :=
  let g := s.hart h
  g.priv = .machine && g.csr.mcause = 31 && g.kstat.hnd && (s.part p).victims.any (fun v => v.1 = h)

/- Waking a waiting hart. -/

/-- End a wait of a hart: it is eligible from the next cycle (07 R170). -/
def wake (h : Nat) (s : State) : State := s.modHart h (fun g => { g with waiting := none, readyAt := s.now + 1 })

end Sys2Proof.Machine
end

