-- ==== Sys2Proof/Machine/Translate.lean ====
section
/-! DEFINITION. Address translation: PMP, the first stage (Sv48), the second stage, the text window, the translations that
a unit holds, and where a line is homed (09 R222, R230–R238). -/

namespace Sys2Proof.Machine

/-- The kind of an access, for translation and for the cause of a fault. -/
inductive Acc where
  | fetch | load | store
deriving DecidableEq, Repr

/-- The page-fault cause of an access. -/
def Acc.pageFault : Acc → Nat
  | .fetch => 12 | .load => 13 | .store => 15

/-- The access-fault cause of an access. -/
def Acc.accessFault : Acc → Nat
  | .fetch => 1 | .load => 5 | .store => 7

/-- Where a translated address lies: device physical space, or host memory, where pa is 2^60 × the function + the IOVA (02 R36: a function has
its own PASID). late is the cycles that its lookup took beyond a hit in the first TLB (09 R237). -/
structure Phys where
  pa : Nat
  host : Bool
  late : Nat := 0
deriving DecidableEq, Repr

/-- Bytes of device DRAM (01 R19). -/
def dramBytes : Nat := 1440 * 2 ^ 30

/-- The channel that holds a DRAM address (01 R19): 16 groups of 8 channels, and a whole line in one channel. -/
def dramChannel (pa : Nat) : Nat :=
  let l := pa % (90 * 2 ^ 30) / 1024
  8 * (pa / (90 * 2 ^ 30)) + ((l % 8) ^^^ (l / 8 % 8) ^^^ (l / 64 % 8))

/-- The data address of a DRAM address in its channel (01 R19). -/
def dramData (pa : Nat) : Nat :=
  let o := pa % (90 * 2 ^ 30)
  o / 1024 / 8 * 1024 + o % 1024

/-- Where a channel keeps the byte, and where it keeps the eight check bytes of its sector: fifteen data sectors and a check sector in every
2,048 bytes (01 R20). -/
def dramPlace (pa : Nat) : Nat × Nat :=
  let d := dramData pa
  let row := d / 1920 * 2048
  let k := d % 1920 / 128
  (row + k * 128 + d % 128, row + 1920 + k * 8)

/-- Whether a physical address is memory of another K3 (01 R23). -/
def isRemote (pa : Nat) : Bool := 2 ^ 47 ≤ pa && pa < 2 ^ 48

/-- Whether a physical address exists: DRAM, or a DRAM address of another device. -/
def paExists (pa : Nat) : Bool :=
  pa < dramBytes || (isRemote pa && pa % 2 ^ 41 < dramBytes)

/-- Whether the path to a remote device is usable: its route names a port with a lane (01 R24, R25). -/
def pathUp (s : State) (pa : Nat) : Bool :=
  match (s.routes.find? (fun e => e.1 = fld pa 46 41)) with
  | some (_, port) => (s.port port).lanes ≠ 0
  | none => false

/-- The partition that owns a cluster; a cluster of no partition is idle (02 R40). -/
def clusterOwner (s : State) (c : Nat) : Option Nat :=
  (s.parts.find? (fun e => e.2.entry.valid && e.2.entry.clusters.getLsbD c)).map (·.1)

/-- The partition under which the firmware of a cluster works: its owner, and 64 for an idle cluster. -/
def partOfCluster (s : State) (c : Nat) : Nat := (clusterOwner s c).getD 64

/-- The partition under which a hart's accesses are translated: its thread's for a program context, its cluster's for the
firmware of a core, 64 for a command core. -/
def partOfHart (s : State) (h : Nat) : Nat :=
  if isVector h ∧ ctxOf h ≠ 0 then (s.hart h).thread.partition
  else match clusterOfUnit (unitOf h) with
    | some c => partOfCluster s c
    | none => 64

/-- The first-stage root of a hart: for a context of a vector core the values of its launch record (04 R95; 08 R209), and
otherwise its own satp, whose fields lie as PPN 43:0, ASID 59:44, MODE 63:60 in both. -/
def asOfHart (s : State) (h : Nat) : Word :=
  if isVector h then (s.hart h).thread.as else (s.hart h).csr.satp

/-- Shared-weight region k that holds a physical address. -/
def regionOf (s : State) (pa : Nat) : Option Nat :=
  (s.regions.find? (fun e => e.2.base.toNat ≤ pa && pa < e.2.base.toNat + e.2.size * 2 ^ 21)).map (·.1)

/-- Where host memory starts in the numbering of global addresses. -/
def hostBase : Nat := 2 ^ 60

/-- The number of a translated address. -/
def Phys.num (r : Phys) : Nat := if r.host then hostBase + r.pa else r.pa

/-- Whether a global address is host memory. -/
def isHostNum (a : Nat) : Bool := hostBase ≤ a

/-- The 128-byte sector of a global address. -/
def sectorOf (a : Nat) : Nat := a / 128

/-- The line of a physical address. -/
def lineOf (pa : Nat) : Nat := pa / 1024

/-- The mask of the sectors of a line that n bytes at a physical address touch within it. -/
def sectorMask (pa n : Nat) : BitVec 8 :=
  BitVec.ofNat 8 ((List.range 8).foldl (fun m k =>
    if pa % 1024 < 128 * (k + 1) ∧ 128 * k < pa % 1024 + n then m + 2 ^ k else m) 0)

/- Homing (09 R222). -/

/-- The number of set bits of v below n, counted in halves. -/
def countBits (v : Nat) : Nat → Nat
  | 0 => 0
  | n + 1 => v % 2 + countBits (v / 2) n

/-- The index of the k-th set bit of v, searching n bits from a position. -/
def nthBit (v k : Nat) : Nat → Nat → Nat
  | 0, i => i
  | n + 1, i =>
    if v % 2 = 1 then (if k = 0 then i else nthBit (v / 2) (k - 1) n (i + 1)) else nthBit (v / 2) k n (i + 1)

/-- The partition that owns a 2 MiB frame of DRAM. -/
def ownerOf (s : State) (pa : Nat) : Nat := tblGet 64 s.frames (pa / 2 ^ 21)

/-- The home slice of a physical address: none where its owner has no cluster. A frozen region is homed by the reader. -/
def homeOf (s : State) (reader pa : Nat) : Option Nat :=
  let p := match regionOf s pa with
    | some k => if (s.region k).freeze then reader else ownerOf s pa
    | none => ownerOf s pa
  let cl := (s.part p).entry.clusters.toNat
  let n := 8 * countBits cl 512
  if n = 0 ∨ 2 ^ 48 ≤ pa then none
  else
    let l := pa / 1024
    let f := (fld l 15 0) ^^^ (fld l 31 16) ^^^ (fld l 37 32)
    let j := f % n
    some (8 * nthBit cl (j / 8) 512 0 + j % 8)

/-- The directory of a slice. -/
def State.slice (s : State) (k : Nat) : List DirEntry := tblGet [] s.dir k

/-- A line's entry in its slice. -/
def dirFind (s : State) (k line : Nat) : Option DirEntry := (s.slice k).find? (fun e => e.line = line)

/-- The cycles of a read of a device address by a unit through its home slice: one figure for each unit, home slice or channel, and position of
the sector in its line, from the range of its source (00 R4). -/
def homeCycles (s : State) (u reader a : Nat) : Nat :=
  let sec := sectorOf a
  let dram := 520 + Config.latencyExtra u (8 * dramChannel a + sec % 8) 2 % 241
  match homeOf s reader a with
  | none => dram
  | some k =>
    match dirFind s k (lineOf a) with
    | some d =>
      if d.filled.getLsbD (sec % 8) then
        if dieOfUnit u = k / 512 then 90 + Config.latencyExtra u (8 * k + sec % 8) 0 % 61
        else 200 + Config.latencyExtra u (8 * k + sec % 8) 1 % 61
      else dram
    | none => dram

/-- The cycles of a read of another memory: the manual gives none (00 R4). -/
def farCycles (u a : Nat) : Nat := 1 + Config.latencyExtra u (sectorOf a) 3

/- Physical memory protection (the RISC-V privileged architecture). -/

/-- The configuration byte of a PMP entry. -/
def pmpCfg (c : Csrs) (i : Nat) : Nat := fld (tblGet 0 c.pmpcfg (i / 8 * 2)).toNat (8 * (i % 8) + 7) (8 * (i % 8))

/-- The range of bytes of a PMP entry; none when it is off. -/
def pmpRange (c : Csrs) (i : Nat) : Option (Nat × Nat) :=
  let a := (tblGet 0 c.pmpaddr i).toNat % 2 ^ 54
  match fld (pmpCfg c i) 4 3 with
  | 1 =>
    let lo := if i = 0 then 0 else (tblGet 0 c.pmpaddr (i - 1)).toNat % 2 ^ 54
    some (4 * lo, 4 * a)
  | 2 => some (4 * a, 4 * a + 4)
  | 3 =>
    let ones := ((List.range 54).takeWhile (fun k => a.testBit k)).length
    let size := 2 ^ (ones + 3)
    some (4 * a / size * size, 4 * a / size * size + size)
  | _ => none

/-- Whether PMP allows an access of n bytes: the lowest-numbered entry that matches any of its bytes decides, and must match all of them; an
access that no entry matches succeeds in M-mode, and in the others while every entry is off (notes/assumptions/12.md). -/
def pmpAllows (c : Csrs) (p : Priv) (acc : Acc) (pa n : Nat) : Bool :=
  if c.pmpcfg = [] then true
  else
    let hits := (List.range 16).filterMap (fun i =>
      match pmpRange c i with
      | some (lo, hi) => if pa < hi ∧ lo < pa + n then some (i, lo, hi) else none
      | none => none)
    match hits with
    | [] => p = .machine || (List.range 16).all (fun i => (pmpRange c i).isNone)
    | (i, lo, hi) :: _ =>
      let cfg := pmpCfg c i
      lo ≤ pa && pa + n ≤ hi && ((p = .machine && fld cfg 7 7 = 0) || match acc with
        | .fetch => bitOf cfg 2
        | .load => bitOf cfg 0
        | .store => bitOf cfg 1)

/- The second stage (09 R231–R234). -/

/-- Why a walk of either stage ends without a translation: no such page, an entry in a sector under integrity hold (01 R29), an entry in a
host page that the host refuses (R234), or for the first stage a failure of the second at a partition address. -/
inductive WalkEnd where
  | invalid
  | integrity
  | refused (page : Nat)
  | second (addr : Nat)
deriving DecidableEq, Repr

/-- What a walk has done: the addresses that it read, latest first, and what the walk cache gains. -/
structure Walked where
  reads : List Nat := []
  gains : List WalkEntry := []
deriving DecidableEq, Repr

/-- The walk of the second stage of a partition below a level: fuel levels remain, and the entry read indexes bits [9l + 20 : 9l + 12]. -/
def walk2 (s : State) (p addr : Nat) : Nat → Nat → List Nat → Except WalkEnd Stage2 × List Nat
  | 0, _, reads => (.error .invalid, reads)
  | l + 1, table, reads =>
    let at_ := table + 8 * fld addr (9 * l + 20) (9 * l + 12)
    let reads := at_ :: reads
    if s.failing.contains (at_ / 128) then (.error .integrity, reads)
    else
      let pte := memRead s.mem at_ 8
      let ppn := fld pte 53 10
      if !bitOf pte 0 ∨ fld pte 5 4 ≠ 0 ∨ fld pte 63 54 ≠ 0 ∨ (bitOf pte 2 ∧ !bitOf pte 1) then (.error .invalid, reads)
      else if fld pte 3 1 = 0 then walk2 s p addr l (ppn * 4096) reads
      else if l = 3 ∨ ppn % 2 ^ (9 * l) ≠ 0 then (.error .invalid, reads)
      else
        let pa := ppn * 4096 + addr % 2 ^ (9 * l + 12)
        (.ok { pa := if bitOf pte 9 then 2 ^ 60 * p + pa else pa, bits := 9 * l + 12, host := bitOf pte 9, shr := bitOf pte 8
               r := bitOf pte 6 && bitOf pte 1, w := bitOf pte 6 && bitOf pte 2 && bitOf pte 7 && !bitOf pte 8
               x := bitOf pte 6 && bitOf pte 3 }, reads)

/-- The walk cache that serves a unit: its cluster's, and for the units of the I/O dies one for each die (notes/assumptions/102.md). -/
def walkUnit (u : Nat) : Nat := (clusterOfUnit u).getD (512 + dieOfUnit u)

/-- The second-stage translation that a list of walk-cache entries holds for a partition address. -/
def secondFind (p addr : Nat) : List WalkEntry → Option Stage2
  | [] => none
  | .second q page t :: rest =>
    if q = p ∧ page = addr / 2 ^ t.bits then some { t with pa := t.pa + addr % 2 ^ t.bits } else secondFind p addr rest
  | .table _ _ _ _ _ :: rest => secondFind p addr rest

/-- The second stage of a partition for an address, whatever the access: bare for partition 64 with MODE 0, the walk for MODE 9 (R231), through
what a walk cache holds. -/
def second (s : State) (cache : List WalkEntry) (p addr : Nat) (w : Walked) : Except WalkEnd Stage2 × Walked :=
  let root := (s.part p).entry.s2root
  match wfld root 63 60 with
  | 0 =>
    if p = 64 then (.ok { pa := addr, bits := 48, host := false, shr := false, r := true, w := true, x := true }, w)
    else (.error .invalid, w)
  | 9 =>
    if 2 ^ 48 ≤ addr then (.error .invalid, w)
    else match secondFind p addr (w.gains ++ cache) with
      | some t => (.ok t, w)
      | none => match walk2 s p addr 4 (wfld root 43 0 * 4096) w.reads with
        | (.ok t, reads) =>
          (.ok t, { reads := reads, gains := .second p (addr / 2 ^ t.bits) { t with pa := t.pa / 2 ^ t.bits * 2 ^ t.bits } :: w.gains })
        | (.error e, reads) => (.error e, { w with reads := reads })
  | _ => (.error .invalid, w)

/-- Whether the second stage of a partition uses tables. -/
def hasTables (s : State) (p : Nat) : Bool := wfld (s.part p).entry.s2root 63 60 ≠ 0

/-- Whether the second stage permits an access: its leaf does, and a page in a shared-weight region is read only through a mapping with SHR and
with the partition's grant for that region; partition 64's bare second stage reads and writes every frame (02 R60; 09 R222, R232). -/
def secondAllows (s : State) (p : Nat) (tables shr r w x : Bool) (acc : Acc) (pa : Nat) : Bool :=
  let leaf := match acc with
    | .fetch => x
    | .load => r
    | .store => w
  let granted := match regionOf s pa with
    | some k => shr && (s.part p).entry.shw.getLsbD k
    | none => !shr
  leaf && (!tables || acc = .store || granted)

/-- The second stage of a partition for an access of the device that bypasses the TLBs. -/
def stage2 (s : State) (p : Nat) (acc : Acc) (addr : Nat) : Except WalkEnd Stage2 :=
  match (second s [] p addr {}).1 with
  | .error e => .error e
  | .ok t => if secondAllows s p (hasTables s p) t.shr t.r t.w t.x acc t.pa then .ok t else .error (.second addr)

/- The owners of frames (09 R222). -/

/-- The 2 MiB frames that a second stage maps writable, below a table of so many levels. -/
def writableFrames (s : State) : Nat → Nat → List Nat
  | 0, _ => []
  | l + 1, table => (List.range 512).flatMap (fun i =>
    let pte := memRead s.mem (table + 8 * i) 8
    let pa := fld pte 53 10 * 4096
    if !bitOf pte 0 then []
    else if fld pte 3 1 = 0 then writableFrames s l pa
    else if 3 ≤ l ∨ !bitOf pte 2 ∨ !bitOf pte 1 ∨ bitOf pte 8 ∨ bitOf pte 9 then []
    else (List.range (2 ^ (9 * l + 12) / 2 ^ 21 + natOf (l = 0))).map (pa / 2 ^ 21 + ·))

/-- The owner of every frame that a table of partitions maps writable through second stages with tables; none where two partitions map
one frame writable. -/
def frameOwners (s : State) (l : List (Nat × PartEntry)) : Option (Tbl Nat) :=
  (l.filter (fun e => e.2.valid && wfld e.2.s2root 63 60 = 9)).foldlM (fun (t : Tbl Nat) e =>
    let fs := (writableFrames s 4 (wfld e.2.s2root 43 0 * 4096)).eraseDups
    if fs.any (fun f => t.any (fun x => x.1 = f)) then none else some (fs.foldl (fun t f => tblSet t f e.1) t)) []

/-- Whether two tables of owners give a line different owners. -/
def ownerChanged (a b : Tbl Nat) (line : Nat) : Bool := tblGet 64 a (line / 2048) ≠ tblGet 64 b (line / 2048)

/- The first stage (09 R230, R235). -/

/-- Whether a first-stage leaf permits an access from a mode: U pages for U-mode; for S-mode no U page for a fetch, and
one for data only with SUM; MXR lets a load read an X page; A, and D for a store, must be set (R230). -/
def leafPermits (st : Word) (p : Priv) (acc : Acc) (perm : Nat) : Bool :=
  let u := bitOf perm 4
  (match p with
    | .user => u
    | _ => !u || (acc ≠ .fetch && st.getLsbD 18))
  && (match acc with
    | .fetch => bitOf perm 3
    | .load => bitOf perm 1 || (bitOf perm 3 && st.getLsbD 19)
    | .store => bitOf perm 2 && bitOf perm 7)
  && bitOf perm 6

/-- The next table that a list of walk-cache entries holds for a VA, with the level that it indexes: of the lowest level held. -/
def tableFind (p asid va : Nat) (l : List WalkEntry) : Nat → Option (Nat × Nat)
  | 0 => none
  | n + 1 =>
    -- levels 1, 2 and 3 remain below a cached entry
    match l.findSome? (fun e => match e with
      | .table q a lvl key next => if q = p ∧ a = asid ∧ lvl = 3 - n ∧ key = va / 2 ^ (9 * (3 - n) + 12) then some next else none
      | .second _ _ _ => none) with
    | some next => some (3 - n, next)
    | none => tableFind p asid va l n

/-- The walk of the first stage below a level. Each table entry is read through the second stage. A non-leaf entry with D, A or U set is
reserved. -/
def walk1 (s : State) (cache : List WalkEntry) (p asid va : Nat) : Nat → Nat → Walked → Except WalkEnd (Nat × Nat × Nat) × Walked
  | 0, _, w => (.error .invalid, w)
  | l + 1, table, w =>
    let addr := table + 8 * fld va (9 * l + 20) (9 * l + 12)
    match second s cache p addr w with
    | (.error .invalid, w) => (.error (.second addr), w)
    | (.error e, w) => (.error e, w)
    | (.ok t, w) =>
      let num := if t.host then 2 ^ 60 + t.pa else t.pa
      let w := { w with reads := num :: w.reads }
      if !secondAllows s p (hasTables s p) t.shr t.r t.w t.x .load t.pa then (.error (.second addr), w)
      else if t.host ∧ s.pagesRefused.contains (t.pa / 4096) then (.error (.refused (t.pa / 4096)), w)
      else if s.failing.contains (num / 128) then (.error .integrity, w)
      else
        let pte := memRead (if t.host then s.hostMem else s.mem) t.pa 8
        let ppn := fld pte 53 10
        if !bitOf pte 0 ∨ (bitOf pte 2 ∧ !bitOf pte 1) ∨ fld pte 63 54 ≠ 0 then (.error .invalid, w)
        else if fld pte 3 1 = 0 then
          if bitOf pte 4 ∨ fld pte 7 6 ≠ 0 then (.error .invalid, w)
          else walk1 s cache p asid va l (ppn * 4096)
            { w with gains := .table p asid l (va / 2 ^ (9 * l + 12)) (ppn * 4096) :: w.gains }
        else if ppn % 2 ^ (9 * l) ≠ 0 then (.error .invalid, w)
        else (.ok (fld pte 7 0, 9 * l + 12, ppn * 4096 + va % 2 ^ (9 * l + 12)), w)

/-- The first stage from its root, with the die's text root in place of the top entry of the text window (R235), from the lowest table that the
walk cache holds (notes/assumptions/103.md: on an I/O die TXROOT d, of which there is none, reads 0). -/
def stage1 (s : State) (cache : List WalkEntry) (p die asid root va : Nat) : Except WalkEnd (Nat × Nat × Nat) × Walked :=
  match tableFind p asid va cache 3 with
  | some (l, next) => walk1 s cache p asid va l next {}
  | none =>
    let f := s.func p
    if f.txen ∧ fld va 47 39 = f.txslot.toNat then
      walk1 s cache p asid va 3 ((tblGet (0 : BitVec 44) f.txroot die).toNat * 4096) {}
    else walk1 s cache p asid va 4 (root * 4096) {}

/-- Whether bits [63:47] of a VA are all equal. -/
def canonical (va : Nat) : Bool := fld va 63 47 = 0 || fld va 63 47 = 2 ^ 17 - 1

/-- The identity of the address space of an access, the memory pipe whose TLB looks it up, and the cycles after now at which it does. -/
structure Space where
  unit : Nat
  partition : Nat
  root : Word
  priv : Priv
  mstatus : Word
  pipe : Nat := 0
  after : Nat := 0

/-- What a lookup leaves in the translation structures: the entry, and where a walk found it what that did and the cycle at which it ends. -/
structure Lookup where
  entry : TlbEntry
  walked : Option (Walked × Nat) := none
deriving DecidableEq, Repr

/-- The first TLB of an access: the instruction TLB for a fetch, its pipe's for data (R236). -/
def firstTlb (c : Core) (pipe : Nat) : Acc → List TlbEntry
  | .fetch => c.itlb
  | _ => tblGet [] c.pipes pipe

/-- The translation of a list for a VA (R236). -/
def tlbFind (sp : Space) (va : Nat) (l : List TlbEntry) : Option TlbEntry :=
  l.find? (fun e => e.partition = sp.partition && (e.global || e.asid = wfld sp.root 59 44) && e.va = va / 2 ^ e.bits)

/-- Walk both stages: the entry that a unit may hold afterwards, or why there is none. -/
def walkBoth (s : State) (sp : Space) (va : Nat) : Except WalkEnd TlbEntry × Walked :=
  let cache := (s.cluster (walkUnit sp.unit)).walks
  let asid := wfld sp.root 59 44
  let mk (leaf bits addr : Nat) (w : Walked) : Except WalkEnd TlbEntry × Walked :=
    match second s cache sp.partition addr w with
    | (.error .invalid, w) => (.error (.second addr), w)
    | (.error e, w) => (.error e, w)
    | (.ok t, w) =>
      let b := min bits t.bits
      (.ok { partition := sp.partition, asid := asid, global := bitOf leaf 5, va := va / 2 ^ b
             part := addr / 2 ^ b * 2 ^ b, pa := t.pa / 2 ^ b * 2 ^ b, bits := b, host := t.host, perm := BitVec.ofNat 8 leaf
             tables := hasTables s sp.partition, shr := t.shr, r2 := t.r, w2 := t.w, x2 := t.x }, w)
  match wfld sp.root 63 60 with
  | 0 => mk 0xFF 48 va {}
  | 9 =>
    if !canonical va then (.error .invalid, {})
    else match stage1 s cache sp.partition (dieOfUnit sp.unit) asid (wfld sp.root 43 0) va with
      | (.error e, w) => (.error e, w)
      | (.ok (leaf, bits, addr), w) => mk leaf bits addr w
  | _ => (.error (.second va), {})

/-- The cause of a fault for the end of a walk. -/
def WalkEnd.cause (acc : Acc) : WalkEnd → Nat
  | .invalid => acc.pageFault
  | .integrity => 29
  | .refused _ => acc.pageFault
  | .second _ => acc.accessFault

/-- The checks after the two stages: the address exists, a frozen region takes no
write (02 R59), and the path to another device is up: a load or a fetch over a dead path takes cause 5, and a store is acknowledged with an
error (01 R25; notes/assumptions/104.md). -/
def afterWalk (s : State) (acc : Acc) (r : Phys) : Except Nat Phys :=
  if r.host then .ok r
  else if !paExists r.pa then .error acc.accessFault
  else if isRemote r.pa ∧ !pathUp s r.pa ∧ acc ≠ .store then .error 5
  else
    match regionOf s r.pa with
    | some k => if acc = .store ∧ (s.region k).freeze then .error 7 else .ok r
    | none => .ok r

/-- The cycle at which a walk that is requested at a cycle starts: at once with fewer than 32 walks running, and else when one ends (R237). -/
def walkStart (ends : List Nat) (at_ : Nat) : Nat :=
  let l := ends.filter (at_ < ·)
  if l.length < 32 then at_
  else l.foldl (fun best e => if (l.filter (e < ·)).length < 32 then min best e else best) (l.foldl max 0)

/-- The cycles of a walk's reads: each at its usual latency. -/
def walkCycles (s : State) (sp : Space) (reads : List Nat) : Nat :=
  reads.foldl (fun n a => n + (if isHostNum a ∨ isRemote a then farCycles sp.unit a else homeCycles s sp.unit sp.partition a)) 0

/-- The lookup of a VA in the TLBs of a unit and then by a walk, with the cycles beyond a hit in the first TLB: 4 for the shared one, and a walk
that starts 1 cycle later (R236, R237). A held entry is not walked again for want of a permission: a change of the tables acts after an
invalidation (R238). -/
def lookup (s : State) (sp : Space) (acc : Acc) (va : Nat) : Except WalkEnd (Lookup × Nat) :=
  match tlbFind sp va (firstTlb (s.core sp.unit) sp.pipe acc) with
  | some e => .ok ({ entry := e }, 0)
  | none => match tlbFind sp va (s.core sp.unit).tlb with
    | some e => .ok ({ entry := e }, 4)
    | none => match walkBoth s sp va with
      | (.ok e, w) =>
        let ends := walkStart (s.cluster (walkUnit sp.unit)).walking (s.now + sp.after + 5) + walkCycles s sp w.reads
        .ok ({ entry := e, walked := some (w, ends) }, ends - (s.now + sp.after))
      | (.error e, _) => .error e

/-- Where a VA of an address space leads, whatever the address: its entry permits the access in both stages. -/
def reach (s : State) (sp : Space) (acc : Acc) (va : Nat) : Except WalkEnd (Lookup × Phys) :=
  match lookup s sp acc va with
  | .error e => .error e
  | .ok (l, late) =>
    let e := l.entry
    let pa := e.pa + va % 2 ^ e.bits
    if wfld sp.root 63 60 ≠ 0 ∧ !leafPermits sp.mstatus sp.priv acc e.perm.toNat then .error .invalid
    else if !secondAllows s sp.partition e.tables e.shr e.r2 e.w2 e.x2 acc pa then .error (.second (e.part + va % 2 ^ e.bits))
    else if e.host ∧ s.pagesRefused.contains (pa / 4096) then .error (.refused (pa / 4096))
    else .ok (l, { pa := pa, host := e.host, late := late })

/-- Translate a VA of an address space, with what its lookup leaves behind. -/
def translate (s : State) (sp : Space) (acc : Acc) (va : Nat) : Except Nat (Phys × Option Lookup) :=
  if sp.priv = .machine then
    match afterWalk s acc { pa := va, host := false } with
    | .ok r => .ok (r, none)
    | .error c => .error c
  else match reach s sp acc va with
    | .error e => .error (e.cause acc)
    | .ok (l, r) => match afterWalk s acc r with
      | .ok r => .ok (r, some l)
      | .error c => .error c

/-- The mode under which a hart's data accesses are checked: MPRV in M-mode selects MPP. -/
def dataPriv (h : Hart) : Priv :=
  if h.priv = .machine ∧ h.csr.mstatus.getLsbD 17 then privOf (wfld h.csr.mstatus 12 11) else h.priv

/-- The address space of a hart's accesses. -/
def spaceOf (s : State) (h : Nat) (acc : Acc) : Space :=
  let g := s.hart h
  { unit := unitOf h, partition := partOfHart s h, root := asOfHart s h
    priv := if acc = .fetch then g.priv else dataPriv g, mstatus := g.csr.mstatus }

/- The policy plug-in (03 R63). -/

/-- The partition whose policy plug-in a hart runs: only a command core does. -/
def pluginOf (s : State) (h : Nat) : Option Nat :=
  if h < 0x20000 then none
  else (s.parts.find? (fun e => match e.2.pluginCall with
    | some c => 0x20000 + c.core = h
    | none => false)).map (·.1)

/-- The memory of the plug-in of a partition, beyond every physical address of the device: text at 0, data at 0x20000 and the summary page at 0x40000
(notes/assumptions/83.md). -/
def pluginBase (p : Nat) : Nat := 2 ^ 52 + p * 2 ^ 20

/-- An access of a plug-in within its three PMP regions: text for execution only, data for loads and stores, the summary page for loads. -/
def pluginAccess (p : Nat) (acc : Acc) (va n : Nat) : Except Nat (Phys × Option Lookup) :=
  let ok : Bool := match acc with
    | .fetch => va + n ≤ 0x20000
    | .load => 0x20000 ≤ va && va + n ≤ 0x41000 && !(va < 0x40000 && 0x40000 < va + n)
    | .store => 0x20000 ≤ va && va + n ≤ 0x40000
  if ok then .ok ({ pa := pluginBase p + va, host := false }, none) else .error acc.accessFault

/-- Translate an access of a hart with PMP, through a memory pipe some cycles from now: the physical address, or the cause of the fault. -/
def translatePipe (s : State) (h pipe after : Nat) (acc : Acc) (va n : Nat) : Except Nat (Phys × Option Lookup) :=
  let sp := { spaceOf s h acc with pipe := pipe, after := after }
  match (if sp.priv = .user then pluginOf s h else none) with
  | some p => pluginAccess p acc va n
  | none => match translate s sp acc va with
  | .error c => .error c
  | .ok (r, e) =>
    if !r.host ∧ !pmpAllows (s.hart h).csr sp.priv acc r.pa n then .error acc.accessFault else .ok (r, e)

/-- Translate a scalar access or a fetch of a hart; scalar accesses use pipe 0 (notes/assumptions/102.md). -/
def translateHart (s : State) (h : Nat) (acc : Acc) (va n : Nat) : Except Nat (Phys × Option Lookup) := translatePipe s h 0 0 acc va n

/-- An entry at the head of a TLB of so many entries. -/
def tlbPut (n : Nat) (e : TlbEntry) (l : List TlbEntry) : List TlbEntry := if l.contains e then l else (e :: l).take n

/-- An entry at the head of the shared TLB: 512 sets of 8 ways, by the page number. -/
def sharedPut (e : TlbEntry) (l : List TlbEntry) : List TlbEntry :=
  if l.contains e then l
  else
    let set := l.filter (fun x => x.va % 512 = e.va % 512)
    match set[7]? with
    | none => e :: l
    | some v => e :: l.filter (fun x => x ≠ v)

/-- A unit after a lookup: the entry stands in the first TLB of the access and in the shared one. -/
def holdIn (acc : Acc) (pipe : Nat) (l : Lookup) (c : Core) : Core :=
  let c := { c with tlb := sharedPut l.entry c.tlb }
  match acc with
  | .fetch => { c with itlb := tlbPut 64 l.entry c.itlb }
  | _ => { c with pipes := tblSet c.pipes pipe (tlbPut 32 l.entry (tblGet [] c.pipes pipe)) }

/-- Whether an invalidation of a partition names a held translation: of one VA and one ASID where given. A global entry is kept by an
invalidation that names an ASID. -/
def tlbNamed (p : Nat) (va asid : Option Nat) (e : TlbEntry) : Bool :=
  e.partition = p
    && (match va with | some v => e.va = v / 2 ^ e.bits | none => true)
    && (match asid with | some a => !e.global && e.asid = a | none => true)

/-- Whether an invalidation names an entry of a walk cache; second-stage translations go only where it names no ASID and no VA. -/
def walkNamed (p : Nat) (va asid : Option Nat) (second : Bool) : WalkEntry → Bool
  | .table q a lvl key _ =>
    q = p && (match va with | some v => key = v / 2 ^ (9 * lvl + 12) | none => true) && (match asid with | some b => a = b | none => true)
  | .second q _ _ => second && q = p

/-- Drop the held translations that an invalidation of a partition names, and with second those of its second stage. -/
def dropTlb (p : Nat) (va asid : Option Nat) (second : Bool) (s : State) : State :=
  let keep (l : List TlbEntry) : List TlbEntry := l.filter (fun e => !tlbNamed p va asid e)
  { s with
    cores := s.cores.map (fun c => (c.1, { c.2 with
      tlb := keep c.2.tlb, itlb := keep c.2.itlb, pipes := c.2.pipes.map (fun x => (x.1, keep x.2)) }))
    clusters := s.clusters.map (fun c => (c.1, { c.2 with walks := c.2.walks.filter (fun e => !walkNamed p va asid second e) })) }

/-- The class of a posted access of a unit to a physical address (09 R221; 10 R244). -/
def classOf (s : State) (u : Nat) (r : Phys) (reader : Nat) : Nat :=
  if r.host ∨ isRemote r.pa then 3
  else match homeOf s reader r.pa with
    | none => 2
    | some slice =>
      if clusterOfUnit u = some (slice / 8) then 0
      else if dieOfUnit u = slice / 512 then 1
      else 2

end Sys2Proof.Machine
end

