-- ==== Sys2Proof/Machine/Cache.lean ====
section
/-! DEFINITION. The L1 data caches, the home slices' directories and their overflow (09 R219–R226), the bytes of memory behind
them, and what a store does to everyone else: reservations, L1 copies, reuse entries and holds.

Every global address is one number: a device physical address, or 2^60 + an IOVA for host memory. -/

namespace Sys2Proof.Machine

/-- n bytes at a global address as performed stores have left them. -/
def gBytes (s : State) (a n : Nat) : List Byte :=
  if isHostNum a then memBytes s.hostMem (a - hostBase) n else memBytes s.mem a n

/-- n bytes at a global address as a number. -/
def gRead (s : State) (a n : Nat) : Nat := leNat (gBytes s a n)

/-- The state with the bytes of cells written to global memory. -/
def gWriteCells (s : State) : List Host.Cell → State
  | [] => s
  | (a, b) :: rest =>
    gWriteCells (if isHostNum a then { s with hostMem := memSet s.hostMem (a - hostBase) b } else { s with mem := memSet s.mem a b }) rest

/-- Bytes from an address as cells. -/
def cellsAt (a : Nat) : List Byte → List Host.Cell
  | [] => []
  | b :: rest => (a, b) :: cellsAt (a + 1) rest

/-- The last byte that a list of cells gives an address. -/
def cellLookup (a : Nat) : List Host.Cell → Option Byte
  | [] => none
  | (k, b) :: rest => match cellLookup a rest with
    | some v => some v
    | none => if k = a then some b else none

/- Integrity holds (01 R29, R30). -/

/-- Whether any sector of n bytes at a global address is under integrity hold: the address of the first byte needed in
the lowest such sector. -/
def heldByte (s : State) (a n : Nat) : Option Nat :=
  if s.failing = [] then none
  else ((List.range n).find? (fun i => s.failing.contains (sectorOf (a + i)))).map (a + ·)

/-- A write that covers a whole held sector ends its hold. -/
def endHolds (cells : List Host.Cell) (s : State) : State :=
  if s.failing = [] then s
  else
    { s with failing := s.failing.filter (fun sec =>
        !((List.range 128).all (fun i => (cells.any (fun c => c.1 = sec * 128 + i))))) }

/- L1 data caches. -/

/-- A unit's copy of a line. -/
def l1Find (c : Core) (line : Nat) : Option L1Line := c.l1.find? (fun e => e.line = line)

/-- A unit without its copy of a line. -/
def l1Drop (c : Core) (line : Nat) : Core := { c with l1 := c.l1.filter (fun e => e.line ≠ line) }

/-- Whether a copy of a line holds a dirty sector that is under integrity hold, which is never evicted (01 R30). -/
def linePinned (failing : List Nat) (line : Nat) (dirty : BitVec 8) : Bool :=
  (List.range 8).any (fun k => dirty.getLsbD k && failing.contains (line * 8 + k))

/-- A unit with a line put first, the most recently used; its set (of 16 ways, PA [16:10]) keeps the 16 most recent, and gives up the least
recently used line that is not pinned. A set whose every line is pinned takes no other. -/
def l1Put (failing : List Nat) (c : Core) (e : L1Line) : Core × Option L1Line :=
  let rest := c.l1.filter (fun x => x.line ≠ e.line)
  let set := rest.filter (fun x => x.line % 128 = e.line % 128)
  if set.length < 16 then ({ c with l1 := e :: rest }, none)
  else match (set.filter (fun x => !linePinned failing x.line x.dirty)).getLast? with
    | some v => ({ c with l1 := e :: rest.filter (fun x => x.line ≠ v.line) }, some v)
    | none => (c, none)

/-- Discard sectors of a unit's copy of a line; the line goes when no valid sector remains (09 R224). -/
def l1Invalidate (u line : Nat) (sectors : BitVec 8) (s : State) : State :=
  match l1Find (s.core u) line with
  | none => s
  | some e =>
    let v := e.valid &&& ~~~ sectors
    if v = 0 then s.modCore u (fun c => l1Drop c line)
    else s.modCore u (fun c =>
      { c with l1 := c.l1.map (fun x => if x.line = line then { x with valid := v, dirty := x.dirty &&& v } else x) })

/- Reuse entries of loads (08 R203). -/

/-- Drop the load entries of a unit that cover a sector or local word of a space. -/
def dropLoads (u space : Nat) (words : List Nat) (s : State) : State :=
  let c := s.core u
  if c.reuse = [] then s
  else s.setCore u { c with reuse := c.reuse.filter (fun r => !r.covers.any (fun w => w.1 = space && words.contains w.2)) }

/-- Drop every load entry of a unit: an acquire of cluster scope or wider (10 R249). -/
def dropAllLoads (u : Nat) (s : State) : State :=
  let c := s.core u
  if c.reuse = [] then s else s.setCore u { c with reuse := c.reuse.filter (fun r => r.covers = []) }

/-- Clear the reuse table of a unit (08 R204). -/
def clearReuse (u : Nat) (s : State) : State :=
  let c := s.core u
  if c.reuse = [] then s else s.setCore u { c with reuse := [] }

/- Directories. -/

/-- The set of a line in its 64-set slice (09 R222). -/
def sliceSet (line : Nat) : Nat := (line % 64) ^^^ (line / 64 % 64)

/-- Put an entry first in its slice. -/
def dirPut (k : Nat) (e : DirEntry) (s : State) : State :=
  { s with dir := tblSet s.dir k (e :: (s.slice k).filter (fun x => x.line ≠ e.line)) }

/-- Take an entry out of its slice. -/
def dirDrop (k line : Nat) (s : State) : State :=
  { s with dir := tblSet s.dir k ((s.slice k).filter (fun x => x.line ≠ line)) }

/-- The cores that an entry names. -/
def DirEntry.holders (e : DirEntry) : List Nat :=
  match e.owner with
  | some o => o :: e.sharers
  | none => e.sharers

/-- An invalidation that reaches a unit ends its contexts' reservations of those sectors (10 R251). -/
def endReservations (u line : Nat) (sectors : BitVec 8) (s : State) : State :=
  let named (e : Nat × Hart) : Bool := unitOf e.1 = u && (match e.2.reservation with
    | some r => r / 8 = line && sectors.getLsbD (r % 8)
    | none => false)
  if s.harts.any named then
    { s with harts := s.harts.map (fun e => if named e then (e.1, { e.2 with reservation := none }) else e) }
  else s

/-- An invalidation of sectors of a line reaches a unit: its copy of them goes, and so do its load entries and reservations of them. -/
def invalidateAt (u line : Nat) (sectors : BitVec 8) (s : State) : State :=
  let words := ((List.range 8).filter (fun k => sectors.getLsbD k)).map (fun k => line * 8 + k)
  endReservations u line sectors (dropLoads u 0 words (l1Invalidate u line sectors s))

/-- Invalidate sectors of a line in every L1 that its entry names but one. -/
def invalidateHolders (e : DirEntry) (but : Nat) (sectors : BitVec 8) (s : State) : State :=
  (e.holders.filter (· ≠ but)).foldl (fun t u => invalidateAt u e.line sectors t) s

/-- Push a record into the overflow FIFO of a slice, if it has room for it (09 R225). -/
def ovfPush (k line core : Nat) (write : Bool) (s : State) : Option State :=
  if (s.core k).ovf.length < 32 then
    some (s.modCore k (fun c => { c with ovf := c.ovf ++ [{ line := line, core := core, write := write }] }))
  else none

/-- Make room in a line's set of its slice for a unit's request: 16 ways; whether there is room, and the state. A victim's L1 copies are
invalidated first; one in overflow leaves only at DONE, and its set takes no other line until then (09 R223, R226). A line with a dirty sector
under hold stays (01 R30). -/
def dirRoom (k line u : Nat) (s : State) : Bool × State :=
  let set := (s.slice k).filter (fun e => sliceSet e.line = sliceSet line)
  if set.length < 16 then (true, s)
  else if set.any (·.leaving) then (false, s)
  else match (set.filter (fun e => !linePinned s.failing e.line e.dirty)).getLast? with
    | none => (false, s)
    | some v =>
      if v.ovf then
        if v.held ≠ [] then (false, s)
        else match ovfPush k v.line u true s with
          | none => (false, s)
          | some t => (false, dirPut k { v with owner := none, leaving := true } (invalidateHolders v 0x10000 0xFF t))
      else (true, dirDrop k v.line (invalidateHolders v 0x10000 0xFF s))

/-- The slice of a line takes back the dirty sectors of a copy whose unit gives it up: the unit owns the line no longer (09 R219). -/
def writeBack (u reader : Nat) (e : L1Line) (s : State) : State :=
  match homeOf s reader (e.line * 1024) with
  | none => s
  | some k =>
    match dirFind s k e.line with
    | some d => dirPut k { d with owner := if d.owner = some u then none else d.owner
                                  filled := d.filled ||| e.dirty, dirty := d.dirty ||| e.dirty } s
    | none => s

/-- A unit's L1 takes a line; the line it evicts is written back, and its load entries go, since no invalidation would reach them. -/
def l1Fill (u reader : Nat) (e : L1Line) (s : State) : State :=
  let (c, victim) := l1Put s.failing (s.core u) e
  let s := s.setCore u c
  match victim with
  | none => s
  | some v => writeBack u reader v (dropLoads u 0 ((List.range 8).map (fun k => v.line * 8 + k)) s)

/-- A slice fills sectors of a line that it holds or can take; the line's entry where it stands there (09 R223). -/
def sliceFill (k line u : Nat) (need : BitVec 8) (s : State) : Option DirEntry × State :=
  match dirFind s k line with
  | some d => let d := { d with filled := d.filled ||| need }; (some d, dirPut k d s)
  | none =>
    match dirRoom k line u s with
    | (true, t) => let d : DirEntry := { line := line, filled := need }; (some d, dirPut k d t)
    | (false, t) => (none, t)

/-- A load of n bytes within a line goes through the unit's L1: a hit touches the line; a miss allocates it in E when the
directory records no other holder and in S otherwise, and fills the sectors needed (09 R219, R224, R226). A line that its slice cannot take, or
that waits there for DONE, is served uncached. Memory without a home slice, host memory and other devices are never held. -/
def l1Load (u reader pa n : Nat) (s : State) : State :=
  if isHostNum pa ∨ isRemote pa then s
  else match homeOf s reader pa with
    | none => s
    | some k =>
      let line := lineOf pa
      let need := sectorMask pa n
      match l1Find (s.core u) line with
      | some e =>
        let s := if need &&& ~~~ e.valid = 0 then s else (sliceFill k line u need s).2
        l1Fill u reader { e with valid := e.valid ||| need } s
      | none =>
        match sliceFill k line u need s with
        | (none, s) => s
        | (some d, s) =>
          let fill (st : L1State) (d : DirEntry) (s : State) : State :=
            l1Fill u reader { line := line, st := st, valid := need, dirty := 0 } (dirPut k d s)
          if d.leaving ∨ d.held ≠ [] then s
          else match d.owner with
            | some o =>
              if o = u then fill .exclusive d s
              else
                let dirty := ((l1Find (s.core o) line).map (·.dirty)).getD 0
                let s := s.modCore o (fun c =>
                  { c with l1 := c.l1.map (fun x => if x.line = line then { x with st := .shared, dirty := 0 } else x) })
                fill .shared { d with owner := none, sharers := [o, u], filled := d.filled ||| dirty, dirty := d.dirty ||| dirty } s
            | none =>
              if d.sharers = [] ∧ !d.ovf then fill .exclusive { d with owner := some u } s
              else if d.sharers.contains u then fill .shared d s
              else if d.sharers.length < 4 ∧ !d.ovf then fill .shared { d with sharers := d.sharers ++ [u] } s
              else match ovfPush k line u false s with
                | some s => fill .shared { d with ovf := true } s
                | none => s

/-- Whether a unit's L1 hits the whole of n bytes within a line. -/
def l1Hit (s : State) (u pa n : Nat) : Bool :=
  match l1Find (s.core u) (lineOf pa) with
  | some e => (sectorMask pa n &&& ~~~ e.valid) = 0
  | none => false

/-- Whether a unit's L1 holds a line in E or M. -/
def l1Owns (s : State) (u pa : Nat) : Bool :=
  match l1Find (s.core u) (lineOf pa) with
  | some e => e.st ≠ .shared
  | none => false

/-- A store writes an owned line: it is M, its sectors are valid and dirty, and it is the most recently used of its set. -/
def l1Dirty (u pa n : Nat) (s : State) : State :=
  let need := sectorMask pa n
  s.modCore u (fun c => match l1Find c (lineOf pa) with
    | some x => { l1Drop c (lineOf pa) with l1 :=
        { x with st := .modified, valid := x.valid ||| need, dirty := x.dirty ||| need } :: (l1Drop c (lineOf pa)).l1 }
    | none => c)

/-- Reservations that a store to a sector by a hart ends: those of every other hart (10 R251). -/
def clearReservations (sector writer : Nat) (s : State) : State :=
  { s with harts := s.harts.map (fun e =>
      if e.1 ≠ writer ∧ e.2.reservation = some sector then (e.1, { e.2 with reservation := none }) else e) }

/-- The sectors that cells touch, each once. -/
def cellSectors (cells : List Host.Cell) : List Nat := (cells.map (fun c => sectorOf c.1)).eraseDups

/-- Global bytes are performed: memory holds them, other harts' reservations of their sectors end, whole held sectors
are held no longer. -/
def performCells (writer : Nat) (cells : List Host.Cell) (s : State) : State :=
  let s := endHolds cells (gWriteCells s cells)
  (cellSectors cells).foldl (fun t sec => clearReservations sec writer t) s

/-- The home takes a write of a sector: every copy of the sector but the writer's own is invalidated, and where the slice holds the line the
sector is dirty there. A line that the slice does not hold is written in DRAM (notes/assumptions/105.md). -/
def homeInvalidate (u reader sector : Nat) (s : State) : State :=
  let pa := sector * 128
  if isHostNum pa ∨ isRemote pa then s
  else match homeOf s reader pa with
    | none => s
    | some k =>
      match dirFind s k (lineOf pa) with
      | none => s
      | some d =>
        let s := invalidateHolders d u (sectorMask pa 1) s
        -- an owner whose line has gone owns it no longer
        let stays : Bool := match d.owner with
          | some o => (l1Find (s.core o) d.line).isSome
          | none => false
        dirPut k { d with owner := if stays then d.owner else none
                          filled := d.filled ||| sectorMask pa 1, dirty := d.dirty ||| sectorMask pa 1 } s

/-- The slice whose entry of a sector's line is in overflow. -/
def ovfSlice (s : State) (reader sector : Nat) : Option (Nat × DirEntry) :=
  let pa := sector * 128
  if isHostNum pa ∨ isRemote pa then none
  else match homeOf s reader pa with
    | none => none
    | some k =>
      match dirFind s k (lineOf pa) with
      | some d => if d.ovf then some (k, d) else none
      | none => none

/-- Writes back and discards every copy of the lines that a test names, in every L1 and slice; writes held at an entry go on. -/
def flushLines (p : Nat → Bool) (s : State) : State :=
  let held := s.dir.flatMap (fun d => (d.2.filter (fun e => p e.line && !linePinned s.failing e.line e.dirty)).flatMap (·.held))
  { s with
    agenda := s.agenda ++ held.map (fun e => (s.now, .postedStoreAck e.1 e.2))
    cores := s.cores.map (fun c => (c.1, { c.2 with
      l1 := c.2.l1.filter (fun e => !p e.line || linePinned s.failing e.line e.dirty)
      reuse := c.2.reuse.filter (fun r => !r.covers.any (fun w => w.1 = 0 && p (w.2 / 8))) }))
    harts := s.harts.map (fun h => match h.2.reservation with
      | some r => if p (r / 8) then (h.1, { h.2 with reservation := none }) else h
      | none => h)
    dir := s.dir.map (fun d => (d.1, d.2.filter (fun e => !p e.line || linePinned s.failing e.line e.dirty))) }

/- What a lookup leaves behind, and what a fault reports. -/

/-- The slices fill the page-table entries that a walk of a unit has read (09 R237). -/
def walkFills (u reader : Nat) (reads : List Nat) (s : State) : State :=
  reads.foldl (fun t a =>
    if isHostNum a ∨ isRemote a then t
    else match homeOf t reader a with
      | some k => (sliceFill k (lineOf a) u (sectorMask a 8) t).2
      | none => t) s

/-- Remember a translation in a unit's TLBs, and a walk in the walk cache of its cluster, which holds 2,048 entries (09 R236). -/
def holdEntry (sp : Space) (acc : Acc) (l : Option Lookup) (s : State) : State :=
  match l with
  | none => s
  | some l =>
    let s := s.modCore sp.unit (holdIn acc sp.pipe l)
    match l.walked with
    | none => s
    | some (w, ends) =>
      walkFills sp.unit sp.partition w.reads (s.modCluster (walkUnit sp.unit) (fun c =>
        { c with walks := (w.gains.filter (fun e => !c.walks.contains e) ++ c.walks).take 2048
                 walking := ends :: c.walking.filter (s.now < ·) }))

/-- What a translation that fails sends: a Page Request for a HOST page that the host refuses, where the access may use PRI (09 R234), and the
monitor's record of the partition address of a second-stage failure (09 R233). -/
def reportFault (sp : Space) (pri : Bool) (acc : Acc) (va : Nat) (s : State) : State :=
  if sp.priv = .machine then s
  else match reach s sp acc va with
  | .error (.refused page) =>
    let o := HostOut.pageRequest (page / 2 ^ 48) (page % 2 ^ 48)
    if pri ∧ !s.out.contains o then { s with out := s.out ++ [o] } else s
  | .error (.second addr) => { s with monitor := s.monitor ++ [.secondStage sp.partition addr] }
  | _ => s

/-- Translate an access of the executing hart; a fault traps with the VA in stval. -/
def translateM (acc : Acc) (va n : Nat) : M Phys := fun s =>
  match translateHart s s.cur acc va n with
  | .ok (r, e) => .ok (r, holdEntry (spaceOf s s.cur acc) acc e s)
  | .error c => .error (.trapWith c (BitVec.ofNat 64 va) (reportFault (spaceOf s s.cur acc) true acc va s))

end Sys2Proof.Machine
end

