-- ==== Sys2Proof/Machine/Posted.lean ====
section
/-! DEFINITION. Posted accesses (09 R220, R221, R227): entering the buffer, merging, sending, being performed and
acknowledged; the waits for classes, releases and acquires (10 R246–R252), and the boundary router (10 R253–R257). -/

namespace Sys2Proof.Machine

/- Atomic operations (14 R345; 16 R408, R405). Kinds are those of SAMO (13 R329), and 12 is SC. -/

/-- The new value of an atomic operation on w-byte values; none where nothing is written. -/
def atomicNew (kind w : Nat) (old v cmp : Nat) : Option Nat :=
  let b := 8 * w
  let x := old % 2 ^ b
  let y := v % 2 ^ b
  match kind with
  | 2 => some ((x + y) % 2 ^ b)
  | 3 => some y
  | 4 => some (x &&& y)
  | 5 => some (x ||| y)
  | 6 => some (x ^^^ y)
  | 7 => some (if sintOf b x ≤ sintOf b y then x else y)
  | 8 => some (if sintOf b x ≥ sintOf b y then x else y)
  | 9 => some (min x y)
  | 10 => some (max x y)
  | 11 => if x = cmp % 2 ^ b then some y else none
  | _ => some y

/-- The sum of two elements of a type: modulo 2^(8w), or rounded by rne (12 R317). -/
def elemAdd (ty : BitVec 3) (a b : Nat) : Nat :=
  let t := ty.toNat
  if t < 4 then (a + b) % 2 ^ (8 * fmtBytes t) else (fAdd t 0 false a b).bits

/- Scratch. -/

/-- The state with bytes written to a core's scratch; its load entries of those words go (08 R203). -/
def scratchWrite (core : Nat) (cells : List Host.Cell) (s : State) : State :=
  dropLoads core 1 ((cells.map (fun c => c.1 / 8)).eraseDups)
    (s.modCore core (fun c => { c with
      scratch := memWriteCells c.scratch cells
      failingWords := c.failingWords.filter (fun f =>
        !(f.1 = 1 && (List.range 8).all (fun i => cells.any (fun x => x.1 = f.2 * 8 + i)))) }))

/-- The holder of the lock of a scratch bank (07 R173); an entry of 16 + h is a lock that h has given up and that is being
handed over, which stops no access. -/
def lockHolder (s : State) (core bank : Nat) : Option Nat :=
  ((s.core core).locks.find? (fun e => e.1 = bank && e.2.1 < 16)).map (fun e => e.2.1)

/-- The accesses that wait at a scratch bank, as (cycle of arrival, number): contexts, packets and Hoist pieces (07 R173). -/
def bankQueue (s : State) (core bank : Nat) : List (Nat × Nat) :=
  s.harts.filterMap (fun h => match h.2.bankSince with
    | some (c, b, t) => if c = core ∧ b = bank ∧ h.2.run = .running then some (t, h.1) else none
    | none => none)
  ++ s.cores.flatMap (fun u => u.2.posted.filterMap (fun e => match e.came with
    | some t => if (match e.op with
        | .packet o cells => o = core && cells.any (fun c => c.1 / 0x4000 = bank)
        | .packetAdd o adds => o = core && adds.any (fun a => a.1 / 0x4000 = bank)
        | .packetAmo o off _ _ _ _ _ => o = core && off / 0x4000 = bank
        | _ => false) then some (t, 2 ^ 20 + e.id) else none
    | none => none))
  ++ s.cores.flatMap (fun u => u.2.hoist.filterMap (fun r => match r.came with
    | some (c, b, t) => if c = core ∧ b = bank then some (t, 2 ^ 60 + 2 ^ 40 * u.1 + r.id) else none
    | none => none))

/-- Whether an access that arrived at a bank in a cycle goes before every other that waits there. -/
def bankFirst (s : State) (core bank came who : Nat) : Bool :=
  (bankQueue s core bank).all (fun q => q.2 = who || came < q.1 || (came = q.1 && who < q.2))

/-- Whether a packet or a Hoist piece waits at one of the banks of a list of offsets: it is locked, or an access that arrived earlier waits. -/
def banksClosed (s : State) (core came who : Nat) (offs : List Nat) : Bool :=
  ((offs.map (· / 0x4000)).eraseDups).any (fun b => (lockHolder s core b).isSome || !bankFirst s core b came who)

/- Faults of engines and posted stores (08 R210). -/

/-- Log an engine fault in a core's kflog; while VALID is 1 a further fault is only counted. -/
def logFault (u src ctx addr : Nat) (s : State) : State :=
  s.modCore u (fun c =>
    if c.kflog.valid then { c with kflog := { c.kflog with ovf := true } }
    else { c with kflog := { addr := BitVec.ofNat 48 addr, src := BitVec.ofNat 4 src, ctx := BitVec.ofNat 4 ctx
                             ovf := c.kflog.ovf, valid := true } })

/- Counts. -/

/-- The posted-store count of a context in a class (09 R221). -/
def postedCount (s : State) (h cls : Nat) : Nat :=
  ((s.core (unitOf h)).posted.filter (fun e => e.hart = h && e.cls = cls)).length

/-- Whether a context's counts are zero in every class of a mask. -/
def countsZero (s : State) (h : Nat) (mask : BitVec 4) : Bool :=
  !(s.core (unitOf h)).posted.any (fun e => e.hart = h && mask.getLsbD e.cls)

/-- The posted accesses of a unit's buffer: every global one (packets and adds into scratch never enter it). -/
def inBuffer (e : Posted) : Bool :=
  match e.op with
  | .packet _ _ => false
  | .packetAdd _ _ => false
  | .packetAmo _ _ _ _ _ _ _ => false
  | _ => true

/-- Whether a unit's posted-store buffer of 64 entries is full. -/
def bufferFull (s : State) (u : Nat) : Bool := 64 ≤ ((s.core u).posted.filter inBuffer).length

/- Sending and acknowledging. -/

/-- The cycles from sending a posted access to its acknowledgement, which the manual does not give (log entry 4). -/
def ackCycles (u sector cls : Nat) : Nat := 1 + Config.latencyExtra u sector (8 + cls)

/-- Send one entry of a unit. -/
def sendEntry (u : Nat) (e : Posted) (s : State) : State :=
  (s.modCore u (fun c => { c with posted := c.posted.map (fun x => if x.id = e.id then { x with sent := true } else x) })).schedule
    (s.now + ackCycles u e.sector e.cls) (.postedStoreAck u e.id)

/-- Send every unsent entry of a unit that a test names; a progress add, a release, waits for its own turn. -/
def sendWhere (u : Nat) (p : Posted → Bool) (s : State) : State :=
  ((s.core u).posted.filter (fun e => !e.sent && !e.parked && !e.refused && !e.release && p e)).foldl (fun t e => sendEntry u e t) s

/-- Send every unsent entry of a context (09 R220). -/
def sendOwn (h : Nat) (s : State) : State := sendWhere (unitOf h) (fun e => e.hart = h) s

/-- A new posted access of a context. -/
def newPosted (s : State) (h sector cls : Nat) (op : PostedOp) : Posted :=
  { id := s.nextId, hart := h, sector := sector, op := op, cls := cls, sent := false, release := false
    scope := 0, nBit := false, parked := false, refused := false, acq := none }

/-- Add a posted access to its unit. -/
def addPosted (u : Nat) (e : Posted) (s : State) : State :=
  { s.modCore u (fun c => { c with posted := c.posted ++ [e] }) with nextId := s.nextId + 1 }

/-- Add a posted access and send it at once. -/
def postNow (h sector cls : Nat) (op : PostedOp) (s : State) : State :=
  let e := newPosted s h sector cls op
  sendEntry (unitOf h) e (addPosted (unitOf h) e s)

/-- A plain store of bytes within one sector enters the posted-store buffer: the unit's own copy of the sector is
invalidated, the bytes merge into the context's newest entry for the sector where that is an unsent plain one, and entries are sent
where R220 says so. -/
def postStore (h cls : Nat) (cells : List Host.Cell) (s : State) : State :=
  match cells with
  | [] => s
  | (a, _) :: _ =>
    let u := unitOf h
    let sec := sectorOf a
    let s := dropLoads u 0 [sec] s
    let s := if isHostNum a ∨ isRemote a then s else l1Invalidate u (lineOf a) (sectorMask (sec * 128) 1) s
    let s := sendWhere u (fun e => e.sector = sec && e.hart ≠ h) s
    let mine : List Posted := (s.core u).posted.filter (fun e => e.hart = h && e.sector = sec && inBuffer e)
    let open_ : Posted → Bool := fun e => !e.sent && !e.release && (match e.op with
      | .bytes _ => true
      | _ => false)
    let s := match (mine.getLast?).filter open_ with
      | some e =>
        s.modCore u (fun c => { c with posted := c.posted.map (fun x =>
          if x.id = e.id then { x with op := match x.op with
            | .bytes old => .bytes (old.filter (fun o => !cells.any (fun n => n.1 = o.1)) ++ cells)
            | o => o } else x) })
      | none =>
        let e := newPosted s h sec cls (.bytes cells)
        (addPosted u e s).schedule (s.now + 32) (.postedEntryTimeout u e.id)
    let full : Posted → Bool := fun e => match e.op with
      | .bytes cs => cs.length = 128
      | _ => false
    let s := sendWhere u full s
    if 56 < ((s.core u).posted.filter inBuffer).length then sendWhere u (fun _ => true) s else s

/-- Write the result of an atomic access into its destination, when it arrives; a reader goes on from the next cycle. -/
def deliver (h : Nat) (rd : Reg) (v : Word) (s : State) : State :=
  s.modHart h (fun g => (g.setX rd.toNat v).setXFe rd.toNat (.due s.now))

/-- Perform an atomic operation on w bytes of global memory for a hart: the old value, sign-extended. An SC writes only
while its reservation holds, and answers 0 or 1. -/
def performAmo (h addr kind w : Nat) (v cmp : Word) (s : State) : Word × State :=
  let old := gRead s addr w
  if kind = 12 then
    let ok := (s.hart h).reservation = some (sectorOf addr)
    let s := s.modHart h (fun g => { g with reservation := none })
    if ok then (0, performCells h (cellsAt addr (leBytes w v.toNat)) s) else (1, s)
  else
    match atomicNew kind w old v.toNat cmp.toNat with
    | some n => (sextW (8 * w) old, performCells h (cellsAt addr (leBytes w n)) s)
    | none => (sextW (8 * w) old, s)

/-- What a posted access does at its destination. -/
def performOp (e : Posted) (s : State) : State :=
  match e.op with
  | .bytes cells => performCells e.hart cells s
  | .packet owner cells => scratchWrite owner cells s
  | .packetAdd owner adds =>
    adds.foldl (fun t (off, ty, v) =>
      let w := fmtBytes ty.toNat
      scratchWrite owner (cellsAt off (leBytes w (elemAdd ty (memRead (t.core owner).scratch off w) v.toNat))) t) s
  | .packetAmo owner off kind w v cmp rd =>
    let old := memRead (s.core owner).scratch off w
    let s := match atomicNew kind w old v.toNat cmp.toNat with
      | some n => scratchWrite owner (cellsAt off (leBytes w n)) s
      | none => s
    let s := match e.acq with
      | some (_ + 1) => dropAllLoads (unitOf e.hart) s
      | _ => s
    deliver e.hart rd (sextW (8 * w) old) s
  | .amo addr kind w v cmp rd =>
    let (r, s) := performAmo e.hart addr kind w v cmp s
    let s := match e.acq with
      | some (_ + 1) => dropAllLoads (unitOf e.hart) s
      | _ => s
    deliver e.hart rd r s
  | .fadd addr ty v =>
    let w := fmtBytes ty.toNat
    performCells e.hart (cellsAt addr (leBytes w (elemAdd ty (gRead s addr w) v.toNat))) s
  | .contribute addr n => performCells e.hart (cellsAt addr (leBytes 16 ((gRead s addr 16 + n.toNat) % 2 ^ 128))) s
  | .progress addr n _ _ => performCells e.hart (cellsAt addr (leBytes 8 ((gRead s addr 8 + n) % 2 ^ 64))) s

/-- Remove an entry from its unit. -/
def removePosted (u id : Nat) (s : State) : State :=
  s.modCore u (fun c => { c with posted := c.posted.filter (fun x => x.id ≠ id) })

/- The boundary router. -/

/-- The least index 0 to 15 that no parked entry of a router has. -/
def freeIndex (l : List Parked) : Nat := ((List.range 16).find? (fun i => !l.any (fun e => e.idx = i))).getD 0

/-- Whether every posted access that a context sent before an entry has been acknowledged. -/
def earlierDone (s : State) (p : Parked) : Bool :=
  !(s.core p.core).posted.any (fun e => e.hart = p.hart && e.id < p.posted)

/-- Schedule the forwarding of every widened entry of a cluster whose context's earlier accesses are acknowledged
(10 R254). -/
def routerCheck (c : Nat) (s : State) : State :=
  ((s.cluster c).router.filter (fun p => p.widened && earlierDone s p)).foldl
    (fun t p => if t.agenda.any (fun a => a.2 = .routerForward c p.idx) then t else t.schedule s.now (.routerForward c p.idx)) s

/-- Park a release in its cluster's router; a full router leaves it in its core's buffer (10 R253, R256). -/
def park (u : Nat) (e : Posted) (addr : Nat) (s : State) : State :=
  let c := u / 8
  let r := (s.cluster c).router
  let mark (parked : Bool) (s : State) : State :=
    s.modCore u (fun k => { k with posted := k.posted.map (fun x =>
      if x.id = e.id then { x with parked := parked, refused := !parked, sent := parked } else x) })
  if r.length < 16 then
    (mark true s).modCluster c (fun k => { k with router := k.router ++
      [{ idx := freeIndex r, core := u, posted := e.id, hart := e.hart, scope := e.scope, cls := e.cls, nBit := e.nBit
         popped := false, widened := false, addr := addr }] })
  else mark false s

/-- The address of a posted access. -/
def postedAddr (e : Posted) : Nat :=
  match e.op with
  | .bytes ((a, _) :: _) => a
  | .amo a _ _ _ _ _ => a
  | .fadd a _ _ => a
  | .contribute a _ => a
  | .progress a _ _ _ => a
  | _ => e.sector * 128

/-- Send again, into a router with room, the oldest release that it refused (10 R256). -/
def unrefuse (c : Nat) (s : State) : State :=
  let all := (List.range 8).flatMap (fun j => ((s.core (8 * c + j)).posted.filter (·.refused)).map (fun e => (8 * c + j, e)))
  match all.foldl (fun (best : Option (Nat × Posted)) x => match best with
      | none => some x
      | some b => if x.2.id < b.2.id then some x else some b) none with
  | some (u, e) => park u e (postedAddr e) s
  | none => s

/-- Progress adds and releases that the core held back go on. A progress add goes once the stores of its row and of every earlier row,
the context's accesses of device scope before these, and the adds before it, are acknowledged; with N = 1 or a destination of class 3 it parks. N counts
what the context sent before it, the elements of later rows among it (10 R262). The store of WP by XPAIR is a device-scope release and goes in the same
way (17 R439). -/
def progressCheck (u : Nat) (s : State) : State :=
  let l := (s.core u).posted
  l.foldl (fun t e =>
    let held : Option (Nat × Nat) := match e.op with
      | .progress _ _ first last => some (first, last)
      | .bytes _ => if e.release then some (e.id, e.id) else none
      | _ => none
    match held with
    | some (first, last) =>
      if e.sent ∨ e.parked ∨ e.refused then t
      else
        let earlier := l.filter (fun x => x.hart = e.hart && x.id < e.id)
        let n := earlier.any (fun x => x.cls = 3)
        if earlier.any (fun x => (x.id < last || x.release) && (x.cls ≠ 3 || first ≤ x.id)) then t
        else if n ∨ e.cls = 3 then park u { e with nBit := n } (postedAddr e) t
        else sendEntry u e t
    | none => t) s

/-- An entry has been acknowledged: it leaves its unit, progress adds behind it may go and widened releases may be
forwarded. -/
def acknowledged (u id : Nat) (s : State) : State :=
  let s := progressCheck u (removePosted u id s)
  match clusterOfUnit u with
  | some c => routerCheck c s
  | none => s

/-- The scratch offsets that a packet touches. -/
def packetOffsets (op : PostedOp) : List Nat :=
  match op with
  | .packet _ cells => cells.map (·.1)
  | .packetAdd _ adds => adds.map (·.1)
  | .packetAmo _ off _ _ _ _ _ => [off]
  | _ => []

/-- The core whose scratch a packet reaches. -/
def packetOwner (op : PostedOp) : Option Nat :=
  match op with
  | .packet o _ => some o
  | .packetAdd o _ => some o
  | .packetAmo o _ _ _ _ _ _ => some o
  | _ => none

/-- Whether a posted access cannot be performed, since it needs data of its sector, or writes a part of it, and the sector is under integrity
hold (01 R30). -/
def needsHeld (s : State) (e : Posted) : Bool :=
  s.failing.contains e.sector && (match e.op with
    | .bytes cells => !(List.range 128).all (fun i => cells.any (fun c => c.1 = e.sector * 128 + i)) && cells ≠ []
    | _ => true)

/-- A posted access that fails at its destination is acknowledged with an error: the fault is logged, and the result of an atomic is a free
value (01 R25, R30; notes/assumptions/106.md). -/
def refusePosted (u : Nat) (e : Posted) (s : State) : State :=
  let s := logFault u 0 (ctxOf e.hart) (match e.op with
    | .bytes ((a, _) :: _) => a
    | _ => e.sector * 128) s
  match e.op with
  | .amo _ _ _ _ _ rd => deliver e.hart rd s.takeFree.1 s.takeFree.2
  | _ => s

/-- A sent access arrives at its destination: it is performed and acknowledged, or waits there. A write to a line in
overflow waits for DONE (09 R226); a packet waits at a locked bank (09 R228); a store over a dead path is acknowledged
with an error (01 R25). -/
def arrive (u id : Nat) (s : State) : State :=
  match (s.core u).posted.find? (fun e => e.id = id) with
  | none => s
  | some e =>
    let again := s.schedule (s.now + 1) (.postedStoreAck u id)
    let reader := partOfHart s e.hart
    if !e.sent ∨ e.parked ∨ e.refused then s
    else if (s.core u).posted.any (fun x => x.hart = e.hart && x.id < id && packetOwner x.op = packetOwner e.op
        && ((packetOwner e.op).isSome || x.sector = e.sector)) then again
    else match packetOwner e.op with
      | some o =>
        if banksClosed s o (e.came.getD s.now) (2 ^ 20 + id) (packetOffsets e.op) then
          again.modCore u (fun c => { c with posted := c.posted.map (fun x =>
            if x.id = id then { x with came := some (x.came.getD s.now) } else x) })
        else acknowledged u id (performOp e s)
      | none =>
        let a := postedAddr e
        if (isRemote a ∧ !pathUp s a) ∨ needsHeld s e then acknowledged u id (refusePosted u e s)
        else match ovfSlice s reader e.sector with
          | some (k, d) =>
            if d.held.contains (u, id) then s
            else match ovfPush k d.line u true s with
              | none => again
              | some t =>
                dirPut k { d with owner := none, held := d.held ++ [(u, id)] } (invalidateHolders d u 0xFF t)
          | none => acknowledged u id (performOp e (homeInvalidate u reader e.sector s))

/-- The writer that stands for the units of the device which hold no copies: the Hoist, the command cores, the agents, the encoders, the host and
other devices. -/
def deviceHart : Nat := 0x30000

/-- A write into global memory by a unit of the device that holds no copies: every other copy of its sectors is invalidated. On a line in
overflow it is held until DONE, as a posted access is (09 R226). -/
def deviceWrite (reader : Nat) (cells : List Host.Cell) (s : State) : State :=
  (cellSectors cells).foldl (fun t sec =>
    let mine := cells.filter (fun c => sectorOf c.1 = sec)
    match ovfSlice t reader sec with
    | some _ =>
      let id := t.nextId
      arrive (unitOf deviceHart) id
        (addPosted (unitOf deviceHart) { newPosted t deviceHart sec 4 (.bytes mine) with sent := true } t)
    | none => performCells deviceHart mine (homeInvalidate 0x10000 reader sec t)) s

/-- A unit of the device that writes a sector again and again until it can: while the sector's line is in overflow, it keeps a WRITE record waiting
there and does not write (09 R226). -/
def awaitOverflow (reader sec : Nat) (s : State) : Option State :=
  match ovfSlice s reader sec with
  | none => none
  | some _ =>
    let u := unitOf deviceHart
    some (if (s.core u).posted.any (fun e => e.sector = sec) then s
      else arrive u s.nextId (addPosted u { newPosted s deviceHart sec 4 (.bytes []) with sent := true } s))

/-- Whether a write of the device's units waits at a line in overflow. -/
def deviceHeld (s : State) : Bool :=
  (s.core (unitOf deviceHart)).posted.any (fun e => match e.op with
    | .bytes cells => cells ≠ []
    | _ => true)

/-- Add 1 to HOLDS of the root header at a global address, or take 1 from it (06 R141, R157): one atomic add, performed as a write of the device is. -/
def holdsAdd (reader root : Nat) (up : Bool) (s : State) : State :=
  let u := unitOf deviceHart
  let add : PostedOp := .amo (root + 12) 2 4 (if up then 1 else BitVec.allOnes 64) 0 0
  match ovfSlice s reader (sectorOf root) with
  | some _ => arrive u s.nextId (addPosted u { newPosted s deviceHart (sectorOf root) 4 add with sent := true } s)
  | none => (performAmo deviceHart (root + 12) 2 4 (if up then 1 else BitVec.allOnes 64) 0 (homeInvalidate 0x10000 reader (sectorOf root) s)).2

/-- A descent ends: its holds are released and its continuation block is marked as holding none (17 R438). -/
def endDescent (reader : Nat) (d : Descent) (s : State) : State :=
  let s := d.holds.foldl (fun t r => holdsAdd reader r false t) s
  let s := if d.begun then deviceWrite reader (cellsAt d.cont (leBytes 8 0)) s else s
  { s with descents := s.descents.filter (fun x => x.id ≠ d.id) }

/-- Forward a parked release: vsmiss of its context rises, and it goes on as an ordinary posted access (10 R254). -/
def forward (c idx : Nat) (s : State) : State :=
  match (s.cluster c).router.find? (fun p => p.idx = idx && p.widened) with
  | none => s
  | some p =>
    if !earlierDone s p then s
    else
      let s := s.modCluster c (fun k => { k with router := k.router.filter (fun x => x.idx ≠ idx) })
      let s := s.modHart p.hart (fun h => h.modVec (fun v => { v with vsmiss := v.vsmiss + 1 }))
      let s := s.modCore p.core (fun k => { k with posted := k.posted.map (fun x =>
        if x.id = p.posted then { x with parked := false, sent := true } else x) })
      let s := s.schedule (s.now + ackCycles p.core (p.addr / 128) p.cls) (.postedStoreAck p.core p.posted)
      unrefuse c s

/-- Widen a popped, unwidened entry of a core (10 R254, R255). -/
def widen (u idx : Nat) (s : State) : State :=
  let c := u / 8
  routerCheck c (s.modCluster c (fun k => { k with router := k.router.map (fun p =>
    if p.idx = idx ∧ p.core = u ∧ p.popped ∧ !p.widened then { p with widened := true } else p) }))

/-- Widen every parked release of a cluster, popped or not (10 R259). -/
def widenAll (c : Nat) (s : State) : State :=
  routerCheck c (s.modCluster c (fun k => { k with router := k.router.map (fun p => { p with popped := true, widened := true }) }))

/-- Records of a core not yet popped (10 R255). -/
def routerPend (s : State) (u : Nat) : Nat :=
  ((s.cluster (u / 8)).router.filter (fun p => p.core = u && !p.popped)).length

/-- Pop the oldest unpopped record of a core: its word, with VALID in bit 63. -/
def routerPop (u : Nat) (s : State) : Word × State :=
  match (s.cluster (u / 8)).router.find? (fun p => p.core = u && !p.popped) with
  | none => (0, s)
  | some p =>
    (BitVec.ofNat 64 (p.idx + ctxOf p.hart * 2 ^ 4 + p.scope * 2 ^ 8 + p.cls * 2 ^ 11 + natOf p.nBit * 2 ^ 13 + 2 ^ 63),
     (s.modCluster (u / 8) (fun k => { k with router := k.router.map (fun x => if x.idx = p.idx then { x with popped := true } else x) })).modCore
       u (fun k => { k with maddr := p.addr }))

/-- FILL and PEND (10 R255). -/
def routerFill (s : State) (u : Nat) : Word :=
  BitVec.ofNat 64 ((s.cluster (u / 8)).router.length + routerPend s u * 2 ^ 8)

/- The directory service (09 R225, R226). -/

/-- Pop a record of the overflow FIFO: its word, with VALID in bit 63. -/
def ovfPop (u : Nat) (s : State) : Word × State :=
  match (s.core u).ovf with
  | [] => (0, s)
  | r :: rest =>
    (BitVec.ofNat 64 (r.line % 2 ^ 38 + r.core % 4096 * 2 ^ 48 + natOf r.write * 2 ^ 62 + 2 ^ 63),
     s.modCore u (fun c => { c with ovf := rest }))

/-- A store to +0x08: an invalidation of a line to a core, of the sectors of SMASK (0 is all). The register keeps its fields. -/
def ovfInvalidate (u : Nat) (v : Word) (s : State) : State :=
  let s := s.modCore u (fun c => { c with dirInval := v &&& 0x0FFFFF3FFFFFFFFF })
  let line := wfld v 37 0
  let m := BitVec.ofNat 8 (wfld v 47 40)
  let m := if m = 0 then 0xFF else m
  invalidateAt (wfld v 59 48) line m s

/-- A store to +0x10: every spilled sharer of the line is invalidated; OVF and the pointers are cleared, the held writes
are performed, and a line whose eviction waited leaves the slice. -/
def ovfDone (u : Nat) (v : Word) (s : State) : State :=
  let s := s.modCore u (fun c => { c with dirDone := v &&& 0x3FFFFFFFFF })
  match dirFind s u (wfld v 37 0) with
  | none => s
  | some d =>
    let s := dirPut u { d with owner := none, sharers := [], ovf := false, held := [], leaving := false } s
    let s := d.held.foldl (fun t (k, id) => arrive k id t) s
    if d.leaving then dirDrop u d.line s else s

/- Waiting for classes; releases and acquires. -/

/-- The classes that a release of a scope waits for (10 R243). -/
def scopeClasses : Nat → BitVec 4
  | 0 => 0 | 1 => 1 | 2 => 3 | 3 => 7 | _ => 15

/-- The classes that a w field names (13 R320). -/
def wClasses : Nat → BitVec 4
  | 0 => 0 | 1 => 3 | 2 => 7 | _ => 15

/-- Wait until the context's posted-store counts are zero in every class of a mask; its unsent entries are sent. -/
def waitClasses (mask : BitVec 4) : M Unit := fun s =>
  if countsZero s s.cur mask then .ok ((), s) else .error (.waitWith (.classes mask) (sendOwn s.cur s))

/-- The w field (10 R247). -/
def waitField (w : Nat) : M Unit :=
  if w = 0 then pure ()
  else do
    modS (fun s => sendOwn s.cur s)
    waitClasses (wClasses w)

/-- Wait until no earlier vector instruction of the context is in the queue. -/
def waitVecOwn : M Unit := fun s =>
  if (s.core (unitOf s.cur)).vq.any (fun e => e.hart = s.cur) then .error (.wait .vecRetired) else .ok ((), s)

/-- Whether releases of the executing context trap on a scope miss (10 R258): a program context of a strict function. -/
def strictCtx (s : State) (h : Nat) : Bool :=
  isVector h && ctxOf h ≠ 0 && (s.func (s.hart h).thread.partition).strict

/-- Whether an atomic of a context is not performed yet: one that is parked, or held at a line in overflow. -/
def atomicsPending (s : State) (h : Nat) : Bool :=
  (s.core (unitOf h)).posted.any (fun e => e.hart = h && (match e.op with
    | .amo _ _ _ _ _ _ => true
    | .packetAmo _ _ _ _ _ _ _ => true
    | _ => false))

/-- Wait until every earlier load of the context is performed: of those only atomics are performed later than they issue. -/
def waitAtomics : M Unit := fun s =>
  if atomicsPending s s.cur then .error (.waitWith .atomics (sendOwn s.cur s)) else .ok ((), s)

/-- What precedes the access of a release of a scope: the waits of R248 and the N bit. -/
def releaseWaits (scope : Nat) : M Bool := do
  waitVecOwn
  waitAtomics
  modS (fun s => sendOwn s.cur s)
  waitClasses (scopeClasses scope)
  askS (fun s => !countsZero s s.cur (~~~ scopeClasses scope))

/-- The core widens a release by itself: it waits for every class and vsmiss rises (10 R252). -/
def widenSelf (n : Bool) : M Unit := fun s =>
  let h := s.hart s.cur
  if n then .error (.waitWith (.classes 15) ((sendOwn s.cur s).modHart s.cur (fun g => { g with widening := true })))
  else if h.widening then
    .ok ((), s.modHart s.cur (fun g => { g with widening := false, vec := { g.vec with vsmiss := g.vec.vsmiss + 1 } }))
  else .ok ((), s)

/-- A release that never parks: a fence, MSEND, a Hoist request with REL, AGPUSH. A strict context traps instead of
widening (10 R252, R258). -/
def releaseSelf (scope : Nat) : M Unit := do
  let n ← releaseWaits scope
  let strict ← askS (fun s => strictCtx s s.cur)
  if n && strict then trapM 26 0 else widenSelf n

/-- An acquire of a scope: load entries of the reuse table go at cluster scope or wider (10 R249). -/
def acquire (scope : Nat) : M Unit := fun s =>
  .ok ((), if scope = 0 then s else dropAllLoads (unitOf s.cur) s)

/-- Whether a context has an acquire whose read is not yet performed: an atomic with aq, or with order acq_rel, that is parked in the
router or waits in an overflow (10 R249, R257). -/
def acquirePending (s : State) (h : Nat) : Bool := (s.core (unitOf h)).posted.any (fun e => e.hart = h && e.acq.isSome)

/-- How a release access goes on: as an ordinary access, posted (with N = 1 even into an owned L1 line), or parked in the router with its N bit. -/
inductive ReleaseWay where
  | plain
  | posted (n : Bool)
  | parked (n : Bool)
deriving DecidableEq, Repr

/-- The release of an access to a destination class (none for a local memory) at a VA: the waits, and then a miss traps in
a strict context, parks for a program context or context 0 of a vector core, and is widened by the core otherwise
(10 R248, R253, R258). An access into an owned L1 line lies inside every scope (R244). -/
def releaseAccess (scope : Nat) (cls : Option Nat) (owned : Bool) (va : Word) : M ReleaseWay := do
  let n ← releaseWaits scope
  let h ← askS (fun s => s.cur)
  let widened := (← me).widening
  let strict ← askS (fun s => strictCtx s s.cur)
  match cls with
  | none => do
    if n && strict then trapM 26 va else widenSelf n
    pure .plain
  | some c => do
    let miss := n || (!owned && !(scopeClasses scope).getLsbD c)
    if !miss then do
      widenSelf false
      pure (.posted widened)
    else if strict then trapM 26 va
    else if isVector h then pure (.parked n)
    else do
      -- wait for every class, then perform the access
      widenSelf (← askS (fun s => !countsZero s s.cur 15))
      pure (.posted widened)

end Sys2Proof.Machine
end

