-- ==== Sys2Proof/Machine/Access.lean ====
section
/-! DEFINITION. One scalar access of a hart: where its address leads (09 R213, R218), loads, stores and atomics there
(14 R343, R345; 16 R408), their latencies (00 R4), and the scratch bank locks (07 R172–R174). -/

namespace Sys2Proof.Machine

/- Latency. -/

/-- The cycles from issue to the return of a load from global memory: for one core, one home slice or channel, and one position of the
sector in its line, the same every time (00 R4), and what its lookup adds (09 R237). -/
def loadCycles (s : State) (u reader : Nat) (r : Phys) : Nat :=
  r.late + (if r.host ∨ isRemote r.num then farCycles u r.num else if l1Hit s u r.num 1 then 20 else homeCycles s u reader r.num)

/-- A load or an atomic of another device's memory is traffic on its route until it returns (01 R24). -/
def carryTo (r : Phys) (cycles : Nat) (s : State) : State :=
  if isRemote r.num then
    { s with traffic := (fld r.pa 46 41, s.now + cycles) :: s.traffic.filter (fun t => s.now < t.2) }
  else s

/-- A load's result is in flight towards rd: it is written when the data return (07 R168). -/
def loadReturns (rd : Reg) (v : Word) (cycles : Nat) : M Unit := fun s =>
  if rd = 0 then .ok ((), s)
  else
    .ok ((), (s.modHart s.cur (fun h => { h.setXFe rd.toNat .inFlight with loads := h.loads ++ [(rd.toNat, v)] })).schedule
      (s.now + cycles) (.loadDataReturn s.cur rd))

/-- The data of a load arrive: rd is written and full, for a reader from the next cycle on. A host read that waits is ready (00 R4). -/
def loadArrives (h : Nat) (rd : Reg) (s : State) : State :=
  let g := s.hart h
  match g.loads.find? (fun l => l.1 = rd.toNat) with
  | some (_, v) => s.setHart h { (g.setX rd.toNat v).setXFe rd.toNat (.due s.now) with loads := g.loads.filter (fun l => l.1 ≠ rd.toNat) }
  | none =>
    match g.hostRead with
    | some (a, .pending) => wake h (s.setHart h { g with hostRead := some (a, .ready) })
    | _ => s

/- Scratch bank locks. -/

/-- The harts of a core that wait in SLACQ for a bank. -/
def lockWaiters (s : State) (core bank : Nat) : List Nat :=
  (List.range 16).filter (fun c => (s.hart (hartOf core c)).waiting = some (.lock core bank))

/-- Grant a bank's lock to a context for 64 cycles. -/
def lockGrant (core bank ctx : Nat) (s : State) : State :=
  (s.modCore core (fun c => { c with locks := tblSet c.locks bank (ctx, s.now + 64) })).schedule (s.now + 64)
    (.scratchLockLeaseExpiry core bank)

/-- Give up a bank's lock: with contexts waiting in SLACQ it is handed over 4 cycles later, and not before the accesses that waited are
complete (07 R173). -/
def lockRelease (core bank ctx : Nat) (s : State) : State :=
  if lockWaiters s core bank = [] then s.modCore core (fun c => { c with locks := tblDel c.locks bank })
  else
    (s.modCore core (fun c => { c with locks := tblSet c.locks bank (16 + ctx, s.now + 4) })).schedule (s.now + 4)
      (.scratchLockLeaseExpiry core bank)

/-- A lease ends, or a hand-over is due: the lock lapses, or passes to the first waiter in cyclic order. -/
def lockExpiry (core bank : Nat) (s : State) : State :=
  match (s.core core).locks.find? (fun e => e.1 = bank) with
  | none => s
  | some (_, holder, due) =>
    if s.now < due then s
    else if holder < 16 then lockRelease core bank holder s
    else if bankQueue s core bank ≠ [] then s.schedule (s.now + 1) (.scratchLockLeaseExpiry core bank)
    else
      let order := (List.range 16).map (fun k => (holder - 16 + 1 + k) % 16)
      match order.find? (fun c => (lockWaiters s core bank).contains c) with
      | some c => wake (hartOf core c) (lockGrant core bank c s)
      | none => s.modCore core (fun c => { c with locks := tblDel c.locks bank })

/-- Release every lock of a context (07 R174). -/
def releaseLocks (h : Nat) (s : State) : State :=
  let u := unitOf h
  (((s.core u).locks.filter (fun e => e.2.1 = ctxOf h)).map (·.1)).foldl (fun t b => lockRelease u b (ctxOf h) t) s

/-- SLACQ: wait until the bank is unlocked, with no earlier access waiting there, or held by this context, then take it; 1. The holder's own SLACQ
is no new grant (notes/assumptions/108.md). -/
def lockAcquireM (bank : Nat) : M Word := fun s =>
  let u := unitOf s.cur
  let c := ctxOf s.cur
  match (s.core u).locks.find? (fun e => e.1 = bank) with
  | some (_, holder, _) => if holder = c then .ok (1, s) else .error (.wait (.lock u bank))
  | none => if bankQueue s u bank = [] then .ok (1, lockGrant u bank c s) else .error (.wait (.lock u bank))

/-- SLREL: 1 if this context held the lock, which is given up; 0 otherwise. -/
def lockReleaseM (bank : Nat) : M Word := fun s =>
  let u := unitOf s.cur
  if lockHolder s u bank = some (ctxOf s.cur) then .ok (1, lockRelease u bank (ctxOf s.cur) s) else .ok (0, s)

/-- The cycle at which a hart's access arrived at a bank, where it waits there, and otherwise now. -/
def bankCame (s : State) (h core bank : Nat) : Nat :=
  match (s.hart h).bankSince with
  | some (c, b, t) => if c = core ∧ b = bank then t else s.now
  | none => s.now

/-- Whether an access of a hart to a bank goes on: no other context holds the lock (from another core, none at all), and no access that arrived
earlier waits. -/
def bankOpen (s : State) (h core bank : Nat) : Bool :=
  match lockHolder s core bank with
  | some c => hartOf core c = h
  | none => bankFirst s core bank (bankCame s h core bank) h

/-- An access to a scratch bank waits, in the order of arrival, while the bank is closed to it (07 R173). -/
def bankFree (core off : Nat) : M Unit := fun s =>
  let bank := off / 0x4000
  if bankOpen s s.cur core bank then .ok ((), s.modHart s.cur (fun h => { h with bankSince := none }))
  else .error (.waitWith (.bank core bank) (s.modHart s.cur (fun h => { h with bankSince := some (core, bank, bankCame s s.cur core bank) })))

/- Where an address leads. -/

/-- What a scalar access reaches. -/
inductive Place where
  | scratch (off : Nat)
  | wbuf (off : Nat)
  | abuf (off : Nat)
  | cbuf (off : Nat)
  | lock (bank : Nat) (release : Bool)
  | peer (core off : Nat)
  | dirReg (off : Nat)
  | router (off : Nat)
  | global (r : Phys)
deriving DecidableEq, Repr

/-- The first VA of the scalar local window. -/
def windowBase : Nat := 0xFFFFFF8000000000

/-- Whether a VA of a hart lies in the scalar local window, which only vector cores have (09 R213, R214). -/
def inWindow (h va : Nat) : Bool := isVector h && windowBase ≤ va

/-- The contents of the window at an offset, for a core (09 R213). -/
def windowPlace (core off : Nat) : Option Place :=
  if off < 0x80000 then some (.scratch off)
  else if 0x100000 ≤ off ∧ off < 0x140000 then some (.wbuf (off - 0x100000))
  else if 0x200000 ≤ off ∧ off < 0x240000 then some (.abuf (off - 0x200000))
  else if 0x300000 ≤ off ∧ off < 0x340000 then some (.cbuf (off - 0x300000))
  else if 0x400000 ≤ off ∧ off < 0x400200 then some (.lock ((off - 0x400000) / 16) ((off - 0x400000) % 16 ≥ 8))
  else if 0x1000000 ≤ off ∧ off < 0x1800000 then
    let j := (off - 0x1000000) / 0x100000
    let o := (off - 0x1000000) % 0x100000
    if o < 0x80000 then (if j = core % 8 then some (.scratch o) else some (.peer (core / 8 * 8 + j) o)) else none
  else if 0x2000000 ≤ off ∧ off < 0x2000020 then some (.dirReg (off - 0x2000000))
  else none

/-- The first-stage address of the control page of a cluster, which no second stage reaches (10 R255; notes/assumptions/86.md). -/
def controlPage (c : Nat) : Nat := 2 ^ 55 + 4096 * c

/-- The offset in its own cluster's control page that a VA of the core supervisor leads to. -/
def controlOffset (s : State) (h : Nat) (acc : Acc) (va : Nat) : Option Nat :=
  let sp := spaceOf s h acc
  if !(isVector h && ctxOf h = 0 && sp.priv = .supervisor) then none
  else
    let addr : Nat := match wfld sp.root 63 60 with
      | 0 => va
      | _ => match (stage1 s [] sp.partition (dieOfUnit sp.unit) (wfld sp.root 59 44) (wfld sp.root 43 0) va).1 with
        | .ok (leaf, _, a) => if canonical va && leafPermits sp.mstatus sp.priv acc leaf then a else 0
        | .error _ => 0
    if addr / 4096 * 4096 = controlPage (h / 128) then some (addr % 4096) else none

/-- Global memory behind a VA, for an access of n bytes; what no second stage reaches is the control page of the cluster, for 8-byte accesses of
its core supervisors alone, and an access fault otherwise. While a partition's lines are re-homed its global accesses wait (09 R223). -/
def globalPlace (acc : Acc) (va n : Nat) : M Place := fun s =>
  match translateM acc va n s with
  | .ok (r, t) => if (t.part (partOfHart t t.cur)).rehoming.isSome then .error (.wait .rehoming) else .ok (.global r, t)
  | .error e =>
    match (if n = 8 then controlOffset s s.cur acc va else none) with
    | some off => .ok (.router off, s)
    | none => .error e

/-- Resolve the address of a scalar access of n bytes: the alignment rules of R218 and R213, the window, or a
translation. natural says that the access needs natural alignment everywhere. -/
def resolve (acc : Acc) (va n : Nat) (natural : Bool) : M Place := do
  let h ← askS (fun s => s.cur)
  let mis : Nat := if acc = .load then 4 else 6
  if inWindow h va then do
    if va % n ≠ 0 then trapM mis (BitVec.ofNat 64 va)
    else match windowPlace (unitOf h) (va - windowBase) with
      | some p => pure p
      | none => trapM acc.accessFault (BitVec.ofNat 64 va)
  else do
    if (natural && va % n ≠ 0) || va % 128 + n > 128 then trapM mis (BitVec.ofNat 64 va)
    else globalPlace acc va n

/- Loads. -/

/-- The bytes that a context's load sees: performed memory under the context's own posted bytes, newest last (09 R220). -/
def viewBytes (s : State) (h a n : Nat) : List Byte :=
  let own := ((s.core (unitOf h)).posted.filter (fun e => e.hart = h)).flatMap (fun e => match e.op with
    | .bytes cells => cells
    | _ => [])
  (List.range n).map (fun i => (cellLookup (a + i) own).getD ((gBytes s (a + i) 1).headD 0))

/-- A load waits for the context's own posted adds and atomics on its sector, which cannot be forwarded. -/
def waitOwnOps (a : Nat) : M Unit := fun s =>
  let blocked := (s.core (unitOf s.cur)).posted.any (fun e => e.hart = s.cur && e.sector = sectorOf a && (match e.op with
    | .bytes _ => false
    | .packet _ _ => false
    | .packetAdd _ _ => false
    | .packetAmo _ _ _ _ _ _ _ => false
    | _ => true))
  if blocked then .error (.waitWith (.sector a) (sendOwn s.cur s)) else .ok ((), s)

/-- An atomic waits until no posted access of its context is outstanding on its sector. -/
def waitOwnSector (a : Nat) : M Unit := fun s =>
  if (s.core (unitOf s.cur)).posted.any (fun e => e.hart = s.cur && e.sector = sectorOf a && inBuffer e) then
    .error (.waitWith (.sector a) (sendOwn s.cur s))
  else .ok ((), s)

/-- Data under integrity hold stop an access that needs them (01 R29). -/
def needWhole (va : Nat) (a n : Nat) : M Unit := fun s =>
  match heldByte s a n with
  | some b => .error (.trap 29 (BitVec.ofNat 64 (va + (b - a))))
  | none => .ok ((), s)

/-- Data under hold in a core's local memory (space code of vmt) stop an access that needs them. -/
def needWord (core space va off n : Nat) : M Unit := fun s =>
  match (List.range n).find? (fun i => (s.core core).failingWords.contains (space, (off + i) / 8)) with
  | some i => .error (.trap 29 (BitVec.ofNat 64 (va + i)))
  | none => .ok ((), s)

/-- Send a read of host memory and wait for it. -/
def beginHostRead (a : Nat) (rd : Reg) : M Unit := fun s =>
  .error (.waitWith .hostRead ((s.modHart s.cur (fun h => { h with hostRead := some (a, .pending) })).schedule
    (s.now + 1 + Config.latencyExtra (unitOf s.cur) (sectorOf a) 3) (.loadDataReturn s.cur rd)))

/-- A read of host memory: the first execution sends it and waits; it goes on when the data have come, and takes cause 5
when the read ended in an error (00 R4). -/
def hostReadM (va a : Nat) (rd : Reg) : M Unit := fun s =>
  let h := s.hart s.cur
  match h.hostRead with
  | some (b, .ready) => if b = a then .ok ((), s.setHart s.cur { h with hostRead := none }) else beginHostRead a rd s
  | some (b, .failed) =>
    if b = a then .error (.trapWith 5 (BitVec.ofNat 64 va) (s.setHart s.cur { h with hostRead := none })) else beginHostRead a rd s
  | some (b, .pending) => if b = a then .error (.wait .hostRead) else beginHostRead a rd s
  | none => beginHostRead a rd s

/-- Earlier packets of the context to a core are performed first (09 R228): those that can arrive do, and the access waits
for the rest. -/
def flushPackets (owner : Nat) : M Unit := fun s =>
  let u := unitOf s.cur
  let mine (t : State) := (t.core u).posted.filter (fun e => e.hart = s.cur && packetOwner e.op = some owner)
  let t := (mine s).foldl (fun t e => arrive u e.id t) s
  if mine t = [] then .ok ((), t) else .error (.waitWith (.classes 1) t)

/-- Vector accesses of the context to local memories come before a later scalar one (10 R240). -/
def waitLocalVec : M Unit := waitVecOwn

/-- Read n bytes at a place for a load into rd: the bytes as a number, and the cycles until they arrive. -/
def loadPlace (p : Place) (va n : Nat) (rd : Reg) : M (Nat × Nat) := do
  let u ← askS (fun s => unitOf s.cur)
  let v := BitVec.ofNat 64 va
  match p with
  | .scratch off => do
    waitLocalVec
    bankFree u off
    needWord u 1 va off n
    pure (← askS (fun s => memRead (s.core u).scratch off n), 10)
  | .abuf off => do
    waitLocalVec
    needWord u 4 va off n
    pure (← askS (fun s => memRead (s.core u).abuf off n), 10)
  | .wbuf _ => trapM 5 v
  | .cbuf _ => trapM 5 v
  | .lock bank release => do
    if n ≠ 8 then trapM 5 v
    else do
      let r ← if release then lockReleaseM bank else lockAcquireM bank
      pure (r.toNat, 10)
  | .peer core off => do
    flushPackets core
    bankFree core off
    needWord core 1 va off n
    pure (← askS (fun s => memRead (s.core core).scratch off n), 36)
  | .dirReg off => do
    let h ← me
    let c ← askS (fun s => ctxOf s.cur)
    if c ≠ 0 ∨ h.priv ≠ .supervisor ∨ n ≠ 8 then trapM 5 v
    else if off = 0 then
      (fun s =>
        let (w, t) := ovfPop u s
        .ok ((w.toNat, 10), t))
    else if off = 0x08 then do pure (← askS (fun s => (s.core u).dirInval.toNat), 10)
    else if off = 0x10 then do pure (← askS (fun s => (s.core u).dirDone.toNat), 10)
    else do pure (← askS (fun s => (s.core u).ovf.length), 10)
  | .router off =>
    if off = 0 then (fun s =>
      let (w, t) := routerPop u s
      .ok ((w.toNat, 10), t))
    else if off = 0x08 then do pure (← askS (fun s => (s.core u).maddr), 10)
    else if off = 0x10 then pure (0, 10)
    else if off = 0x18 then do pure (← askS (fun s => (routerFill s u).toNat), 10)
    else trapM 5 v
  | .global r => do
    let a := r.num
    if r.host then do
      hostReadM va a rd
      pure (← askS (fun s => leNat (viewBytes s s.cur a n)), 1)
    else do
      waitOwnOps a
      needWhole va a n
      let h ← askS (fun s => s.cur)
      let reader ← askS (fun s => partOfHart s h)
      let lat ← askS (fun s => loadCycles s u reader r)
      modS (fun s => carryTo r lat (sendWhere u (fun e => e.sector = sectorOf a && e.hart ≠ h) s))
      let x ← askS (fun s => leNat (viewBytes s h a n))
      modS (l1Load u reader a n)
      pure (x, lat)

/-- Extend a loaded value. -/
def extend (n : Nat) (signed : Bool) (x : Nat) : Word := if signed then sextW (8 * n) x else BitVec.ofNat 64 x

/-- A scalar load (14 R343). -/
def loadM (rd : Reg) (addr : Word) (n : Nat) (signed : Bool) : M Unit := do
  destX rd.toNat
  let p ← resolve .load addr.toNat n false
  let (x, lat) ← loadPlace p addr.toNat n rd
  loadReturns rd (extend n signed x) lat

/- Stores. -/

/-- Perform the plain posted bytes of a context on a sector, oldest first, ahead of a store of the same context that goes into the owned L1 line:
the entries stay until their acknowledgements, with nothing left to write. None while one of them is anything else (notes/assumptions/107.md). -/
def performOwn (u h sector : Nat) (s : State) : Option State :=
  let mine := (s.core u).posted.filter (fun e => e.hart = h && e.sector = sector && inBuffer e)
  if mine = [] then some s
  else
    let plain : Posted → Bool := fun e => !e.parked && !e.refused && !e.release && (match e.op with
      | .bytes _ => true
      | _ => false)
    if !mine.all plain then none
    else
      let t := mine.foldl (fun t e => match e.op with
        | .bytes cells => performCells h cells t
        | _ => t) s
      some (t.modCore u (fun c => { c with posted := c.posted.map (fun e =>
        if e.hart = h ∧ e.sector = sector ∧ inBuffer e then { e with op := .bytes [] } else e) }))

/-- The state in which a store of a context writes its L1: the unit holds the line in E or M, and the context's own entries on the sector are
performed (09 R220). -/
def ownedFor (u h : Nat) (r : Phys) (s : State) : Option State :=
  if !r.host ∧ l1Owns s u r.num then performOwn u h (sectorOf r.num) s else none

/-- Write n bytes at a place: a local memory, or global memory through an owned L1 line or the posted-store buffer. way
says how a release goes (plain for an ordinary store). -/
def storePlace (p : Place) (va n : Nat) (x : Nat) (way : ReleaseWay) (scope : Nat) : M Unit := do
  let u ← askS (fun s => unitOf s.cur)
  let h ← askS (fun s => s.cur)
  let v := BitVec.ofNat 64 va
  let bs := leBytes n x
  match p with
  | .scratch off => do
    waitLocalVec
    bankFree u off
    (if n < 8 then needWord u 1 va off n else pure ())
    modS (scratchWrite u (cellsAt off bs))
  | .wbuf off => do
    waitLocalVec
    (if n < 8 then needWord u 3 va off n else pure ())
    modS (fun s => s.modCore u (fun c => { c with wbuf := memWrite c.wbuf off bs
                                                  failingWords := if n = 8 then c.failingWords.filter (· ≠ (3, off / 8)) else c.failingWords }))
  | .abuf off => do
    waitLocalVec
    (if n < 8 then needWord u 4 va off n else pure ())
    modS (fun s => dropLoads u 4 [off / 8]
      (s.modCore u (fun c => { c with abuf := memWrite c.abuf off bs
                                      failingWords := if n = 8 then c.failingWords.filter (· ≠ (4, off / 8)) else c.failingWords })))
  | .cbuf _ => trapM 7 v
  | .lock _ _ => trapM 7 v
  | .peer core off => do
    (if n < 8 then needWord core 1 va off n else pure ())
    match way with
    | .parked nb => modS (fun s =>
      let e := { newPosted s h (sectorOf off) 0 (.packet core (cellsAt off bs)) with release := true, scope := scope, nBit := nb }
      park u e off (addPosted u e s))
    | _ => modS (fun s => postNow h (sectorOf off) 0 (.packet core (cellsAt off bs)) s)
  | .dirReg off => do
    let g ← me
    let c ← askS (fun s => ctxOf s.cur)
    if c ≠ 0 ∨ g.priv ≠ .supervisor ∨ n ≠ 8 then trapM 7 v
    else modS (fun s =>
      if off = 0x08 then ovfInvalidate u (BitVec.ofNat 64 x) s
      else if off = 0x10 then ovfDone u (BitVec.ofNat 64 x) s
      else s)
  | .router off =>
    if off = 0x10 then modS (widen u (x % 16)) else if off = 0 ∨ off = 0x08 ∨ off = 0x18 then pure () else trapM 7 v
  | .global r => do
    let a := r.num
    needWhole va a n
    let reader ← askS (fun s => partOfHart s h)
    let cls ← askS (fun s => classOf s u r reader)
    let owned ← askS (fun s => ownedFor u h r s)
    let full ← askS (fun s => bufferFull s u)
    let cells := cellsAt a bs
    match way with
    | .parked n => do
      if full then waitM .postedRoom
      else modS (fun s =>
        let e := { newPosted s h (sectorOf a) cls (.bytes cells) with release := true, scope := scope, nBit := n }
        park u e a (addPosted u e (dropLoads u 0 [sectorOf a] (l1Invalidate u (lineOf a) (sectorMask a 1) s))))
    | .posted n => do
      if let some t := (if n then none else owned) then modS (fun _ => performCells h cells (l1Dirty u a bs.length (dropLoads u 0 [sectorOf a] t)))
      else if full then waitM .postedRoom
      else modS (fun s =>
        let s := sendWhere u (fun e => e.sector = sectorOf a && e.hart ≠ h) s
        let e := { newPosted s h (sectorOf a) cls (.bytes cells) with release := true, scope := scope }
        sendEntry u e (addPosted u e (dropLoads u 0 [sectorOf a] (l1Invalidate u (lineOf a) (sectorMask a 1) s))))
    | .plain =>
      if let some t := owned then modS (fun _ => performCells h cells (l1Dirty u a bs.length (dropLoads u 0 [sectorOf a] t)))
      else if full then waitM .postedRoom
      else modS (postStore h cls cells)

/-- A scalar store (14 R343). -/
def storeM (addr : Word) (n : Nat) (x : Word) : M Unit := do
  let p ← resolve .store addr.toNat n false
  storePlace p addr.toNat n x.toNat .plain 0

/- Atomics. -/

/-- The class of a place for a release, none for a local memory of the core (10 R253), and whether the core's L1 owns its line (10 R244). -/
def placeClass (p : Place) : M (Option Nat × Bool) := fun s =>
  match p with
  | .global r => .ok ((some (classOf s (unitOf s.cur) r (partOfHart s s.cur)), !r.host && l1Owns s (unitOf s.cur) r.num), s)
  | .peer _ _ => .ok ((some 0, false), s)
  | _ => .ok ((none, false), s)

/-- An atomic of w bytes at a place, with its result in flight towards rd: at the core's or a peer's scratch, in an owned L1
line, or at the home. A parked release and a write to a line in overflow are performed later (class 4 counts nowhere); acq is the scope of an
atomic that is an acquire, whose later accesses then wait. -/
def amoPlace (p : Place) (va kind w : Nat) (x cmp : Word) (rd : Reg) (way : ReleaseWay) (scope : Nat)
    (acq : Option Nat) : M Unit := do
  let u ← askS (fun s => unitOf s.cur)
  let h ← askS (fun s => s.cur)
  let v := BitVec.ofNat 64 va
  let inScratch (core off lat : Nat) : M Unit := do
    bankFree core off
    needWord core 1 va off w
    let old ← askS (fun s => memRead (s.core core).scratch off w)
    (match atomicNew kind w old x.toNat cmp.toNat with
      | some n => modS (scratchWrite core (cellsAt off (leBytes w n)))
      | none => pure ())
    loadReturns rd (sextW (8 * w) old) lat
  match p with
  | .scratch off => do
    waitLocalVec
    modS (fun s => sendOwn s.cur s)
    inScratch u off 10
  | .peer core off =>
    match way with
    | .parked nb => do
      needWord core 1 va off w
      modS (fun s =>
        let e := { newPosted s h (sectorOf off) 0 (.packetAmo core off kind w x cmp rd) with
                   release := true, scope := scope, nBit := nb, acq := acq }
        let s := addPosted u e (sendOwn h s)
        park u e off (if rd = 0 then s else s.modHart h (fun g => g.setXFe rd.toNat .inFlight)))
    | _ => do
      flushPackets core
      modS (fun s => sendOwn s.cur s)
      inScratch core off 36
  | .wbuf _ => trapM 7 v
  | .abuf _ => trapM 7 v
  | .cbuf _ => trapM 7 v
  | .lock _ _ => trapM 7 v
  | .dirReg _ => trapM 7 v
  | .router _ => trapM 7 v
  | .global r => do
    if r.host ∨ (kind = 12 ∧ isRemote r.pa) ∨ (isRemote r.pa ∧ !(← askS (fun s => pathUp s r.pa))) then trapM 7 v
    else do
      let a := r.num
      needWhole va a w
      waitOwnSector a
      let reader ← askS (fun s => partOfHart s h)
      let lat ← askS (fun s => loadCycles s u reader r)
      let cls ← askS (fun s => classOf s u r reader)
      let ovf ← askS (fun s => (ovfSlice s reader (sectorOf a)).isSome)
      modS (fun s => dropLoads u 0 [sectorOf a] (sendWhere u (fun e => e.hart = h || e.sector = sectorOf a) s))
      let later (park? : Bool) (n : Bool) : M Unit := fun s =>
        let e := { newPosted s h (sectorOf a) (if park? then cls else 4) (.amo a kind w x cmp rd) with
                   release := park?, scope := scope, nBit := n, acq := acq }
        let s := addPosted u e (l1Invalidate u (lineOf a) (sectorMask a 1) s)
        let s := if rd = 0 then s else s.modHart h (fun g => g.setXFe rd.toNat .inFlight)
        .ok ((), if park? then park u e a s else sendEntry u e s)
      match way with
      | .parked n => later true n
      | _ =>
        if ovf then later false false
        else do
          modS (fun s =>
            if l1Owns s u a then l1Dirty u a w s
            else homeInvalidate u reader (sectorOf a) (l1Invalidate u (lineOf a) (sectorMask a 1) s))
          let old ← (fun s => .ok (performAmo h a kind w x cmp s) : M Word)
          modS (carryTo r lat)
          loadReturns rd old lat

/-- The release that precedes an atomic or a store with order release: its way. -/
def releaseFor (p : Place) (scope : Nat) (va : Word) : M ReleaseWay := do
  let (c, owned) ← placeClass p
  releaseAccess scope c owned va

end Sys2Proof.Machine
end

