-- ==== Sys2Proof/Machine/Csr.lean ====
section
/-! DEFINITION. The control and status registers (08 R209, R210, R473; 11 R266–R268): which exist on a hart, who may access
them, what they read and what a write stores; the interrupts that are pending; and the Zicsr instructions (14 R347,
R348). -/

namespace Sys2Proof.Machine

/- Interrupts. -/

/-- The interrupt bits that a hart implements: 16 to 22 on a vector core, 16 and 17 on a control core (11 R268; 08 R473). -/
def irqMask (h : Nat) : Word := if isVector h then 0x7F0000 else if isControl h then 0x30000 else 0

/-- The interrupts pending for a hart (11 R268). -/
def pendingIrqs (s : State) (h : Nat) : Word :=
  let g := s.hart h
  let u := unitOf h
  let b (i : Nat) (p : Bool) : Nat := if p then 2 ^ i else 0
  let own := isVector h && ctxOf h ≠ 0
  let zero := isVector h && ctxOf h = 0
  let stopped := (s.core u).hoist.any (fun r => r.hart = h && r.stopped.isSome)
  let n := b 16 (g.irqPending.getLsbD 16) + b 17 (g.q7 ≠ [])
    + b 18 (zero && g.irqPending.getLsbD 18)
    + b 19 ((own && stopped) || (zero && (s.core u).kflog.valid))
    + b 20 (zero && (s.core u).ovf ≠ [])
    + b 21 (zero && routerPend s u ≠ 0)
    + b 22 (zero && (s.core u).launch.any (fun e => e.2 ≠ []))
  BitVec.ofNat 64 n &&& irqMask h

/-- Whether interrupts of S-mode, or of M-mode, may be taken in a hart's mode. -/
def irqOpen (g : Hart) (toS : Bool) : Bool :=
  if toS then g.priv = .user || (g.priv = .supervisor && g.csr.mstatus.getLsbD 1)
  else g.priv ≠ .machine || g.csr.mstatus.getLsbD 3

/-- Whether interrupt i is enabled and pending for a hart and its mode allows it to be taken. -/
def irqReady (s : State) (h i : Nat) : Bool :=
  let g := s.hart h
  (pendingIrqs s h).getLsbD i && g.csr.mie.getLsbD i && irqOpen g (g.csr.mideleg.getLsbD i && g.priv ≠ .machine)

/-- The interrupt that a hart takes next, in the order 20, 21, 22, 18, 19, 17, 16. -/
def nextIrq (s : State) (h : Nat) : Option Nat := [20, 21, 22, 18, 19, 17, 16].find? (irqReady s h)

/-- The stval of an interrupt: for interrupt 19 in contexts 1 to 15, the stopped request of R278. -/
def irqTval (s : State) (h i : Nat) : Word :=
  if i = 19 ∧ ctxOf h ≠ 0 then
    let mine := (s.core (unitOf h)).hoist.filter (fun r => r.hart = h)
    match (List.range mine.length).find? (fun k => match mine[k]? with
        | some r => r.stopped.isSome
        | none => false) with
    | some k =>
      match (mine[k]?).bind (·.stopped) with
      | some (kind, addr) => BitVec.ofNat 64 (addr.toNat % 2 ^ 48 + kind * 2 ^ 48 + (k % 16) * 2 ^ 52)
      | none => 0
    | none => 0
  else 0

/- Access. -/

/-- The privileged registers that every hart has. -/
def isPrivCsr (a : Nat) : Bool :=
  [0x100, 0x104, 0x105, 0x106, 0x10A, 0x140, 0x141, 0x142, 0x143, 0x144, 0x180, 0x300, 0x301, 0x302, 0x303, 0x304, 0x305,
    0x306, 0x30A, 0x320, 0x340, 0x341, 0x342, 0x343, 0x344, 0x3A0, 0x3A2, 0xB00, 0xB02, 0xF11, 0xF12, 0xF13, 0xF14, 0xF15].contains a
    || (0x3B0 ≤ a && a ≤ 0x3BF) || (0xB03 ≤ a && a ≤ 0xB1F) || (0x323 ≤ a && a ≤ 0x33F)

/-- The device's own registers of a vector-core context (08 R209). -/
def isVecCsr (a : Nat) : Bool :=
  [0xC00, 0xC02, 0x5C0, 0x5C1, 0x5C2, 0x5C3, 0x7C0, 0x7C1, 0x7C2, 0x7C3].contains a
    || (0xCC0 ≤ a && a ≤ 0xCC6) || (0x800 ≤ a && a ≤ 0x806)

/-- The device's own registers of a control-core context (08 R473). -/
def isControlCsr (a : Nat) : Bool := [0xC00, 0xC02, 0x5C0, 0x5C2, 0x5C4].contains a

/-- Whether a hart has a CSR. Command cores and the Weighbridge processor have the privileged ones and the counters. -/
def csrExists (h a : Nat) : Bool :=
  isPrivCsr a
    || (if isVector h then isVecCsr a else if isControl h then isControlCsr a else [0xC00, 0xC02].contains a)

/-- The least privilege that may access a CSR: bits [9:8] of its address, but for the device's registers of R209. -/
def csrLevel (a : Nat) : Nat :=
  if 0x5C0 ≤ a ∧ a ≤ 0x5C4 then 1 else if 0x7C0 ≤ a ∧ a ≤ 0x7C3 then 3 else fld a 9 8

/-- Whether a CSR takes no writes. -/
def csrReadOnly (a : Nat) : Bool := fld a 11 10 = 3

/-- The CSRs of debug mode, which the program buffer reaches (11 R289, R291). -/
def isDebugCsr (a : Nat) : Bool := 0x7B0 ≤ a && a ≤ 0x7B3

/-- Whether an access is legal for a hart in its mode: the CSR exists, the mode reaches it, a write finds it writable, and
TVM keeps S-mode from satp. -/
def csrLegal (s : State) (h a : Nat) (write : Bool) : Bool :=
  let g := s.hart h
  (csrExists h a || (isDebugCsr a && inProgram s h)) && csrLevel a ≤ privNat g.priv && !(write && csrReadOnly a)
    && !(a = 0x180 && g.priv = .supervisor && g.csr.mstatus.getLsbD 20)

/-- The CSRs whose access waits until the context's earlier vector instructions have retired (14 R348). -/
def csrSerial (a : Nat) : Bool := (0x800 ≤ a && a ≤ 0x806) || (0xCC3 ≤ a && a ≤ 0xCC6) || a = 0x5C1

/- Reads. -/

/-- The bits of mstatus that sstatus shows. -/
def sstatusMask : Word := 0xC0122

/-- The writable bits of mstatus. -/
def mstatusMask : Word := 0x7E19AA

/-- kstat as a word (08 R210). -/
def kstatWord (s : State) (h : Nat) : Word :=
  let k := (s.hart h).kstat
  let sp := match (s.core (unitOf h)).spared with
    | some lane => 8 + (lane % 32) * 16
    | none => 0
  BitVec.ofNat 64 (natOf k.resume + 2 * natOf k.pend + 4 * natOf k.hnd + sp + natOf k.owe * 2 ^ 9 + (k.owRow % 32) * 2 ^ 10)

/-- The entries of the queue that kqsel selects, each as 64-bit words. -/
def queueWords (g : Hart) (q : Nat) : List (List Word) :=
  if q < 6 then
    (tblGet [] g.vec.q q).map (fun e => (List.range 128).map (fun i => BitVec.ofNat 64 (e.data.toNat >>> (64 * i))))
  else if q = 6 then g.vec.q6.map (fun e => (List.range 8).map (fun i => BitVec.ofNat 64 (e.toNat >>> (64 * i))))
  else g.q7.map (fun e => [e.1, e.2.setWidth 64])

/-- kflog as a word. -/
def kflogWord (k : KFlog) : Word :=
  BitVec.ofNat 64 (k.addr.toNat + k.src.toNat * 2 ^ 48 + k.ctx.toNat * 2 ^ 52 + natOf k.ovf * 2 ^ 62 + natOf k.valid * 2 ^ 63)

/-- kcut as a word. -/
def kcutWord (k : KCut) : Word :=
  BitVec.ofNat 64 (natOf k.arm + 2 * natOf k.recorded + 4 * natOf (k.pend ≠ 0) + k.pend.toNat * 2 ^ 8)

/-- What a CSR of a hart reads. -/
def csrRead (s : State) (h a : Nat) : Word :=
  let g := s.hart h
  let c := g.csr
  let v := g.vec
  let u := unitOf h
  match a with
  | 0x100 => c.mstatus &&& sstatusMask
  | 0x104 => c.mie &&& c.mideleg
  | 0x105 => c.stvec
  | 0x106 => c.scounteren
  | 0x10A => c.senvcfg
  | 0x140 => c.sscratch
  | 0x141 => c.sepc
  | 0x142 => c.scause
  | 0x143 => c.stval
  | 0x144 => pendingIrqs s h &&& c.mideleg
  | 0x180 => asOfHart s h
  | 0x300 => c.mstatus ||| 0xA00000000
  | 0x301 => c.misa
  | 0x302 => c.medeleg
  | 0x303 => c.mideleg
  | 0x304 => c.mie
  | 0x305 => c.mtvec
  | 0x306 => c.mcounteren
  | 0x30A => c.menvcfg
  | 0x340 => c.mscratch
  | 0x341 => c.mepc
  | 0x342 => c.mcause
  | 0x343 => c.mtval
  | 0x344 => pendingIrqs s h
  | 0x3A0 => tblGet 0 c.pmpcfg 0
  | 0x3A2 => tblGet 0 c.pmpcfg 2
  | 0xB00 => s.cycle
  | 0xB02 => g.instret
  | 0xF14 => BitVec.ofNat 64 h
  | 0xC00 => s.cycle
  | 0xC02 => g.instret
  | 0xCC0 => BitVec.ofNat 64 v.vlc
  | 0xCC1 => BitVec.ofNat 64 v.vlr
  | 0xCC2 => v.vty.setWidth 64
  | 0xCC3 => v.vrhit
  | 0xCC4 => v.vrlook
  | 0xCC5 => v.vrshare
  | 0xCC6 => v.vsmiss
  | 0x800 => v.vmt.setWidth 64
  | 0x801 => v.vxcls
  | 0x802 => v.vreuse.setWidth 64
  | 0x803 => v.vrm.setWidth 64
  | 0x804 => v.vfflags.setWidth 64
  | 0x805 => v.vrqctl
  | 0x806 => BitVec.ofNat 64 v.vmsp
  | 0x5C0 => c.ktimecmp
  | 0x5C1 => kstatWord s h
  | 0x5C2 => c.kinstr
  | 0x5C3 => if ctxOf h = 0 then kflogWord (s.core u).kflog else 0
  | 0x5C4 => if ctxOf h = 1 then c.kbfail else 0
  | 0x7B0 => c.dcsr ||| 0x40000000
  | 0x7B1 => c.dpc
  | 0x7B2 => c.dscratch0
  | 0x7B3 => c.dscratch1
  | 0x7C0 => kcutWord (s.core u).kcut
  | 0x7C1 => c.kqsel
  | 0x7C2 =>
    ((((queueWords g (wfld c.kqsel 2 0))[wfld c.kqsel 8 4]?).getD [])[wfld c.kqsel 22 16]?).getD 0
  | 0x7C3 => BitVec.ofNat 64 (queueWords g (wfld c.kqsel 2 0)).length
  | _ => if 0x3B0 ≤ a ∧ a ≤ 0x3BF then tblGet 0 c.pmpaddr (a - 0x3B0) else 0

/-- A read has a side effect in one place: interrupt 18 is pending until context 0 reads sip (11 R268). -/
def csrReadEffect (h a : Nat) (s : State) : State :=
  if a = 0x144 then s.modHart h (fun g => { g with irqPending := g.irqPending &&& ~~~ (BitVec.ofNat 64 (2 ^ 18)) }) else s

/- Writes. -/

/-- A trap vector after a write: a reserved MODE leaves the field as it was. -/
def tvecWrite (old v : Word) : Word := if 2 ≤ wfld v 1 0 then setWfld v 1 0 (wfld old 1 0) else v

/-- mstatus after a write of the bits of a mask: a reserved MPP leaves the field as it was. -/
def mstatusWrite (old v mask : Word) : Word :=
  let n := (old &&& ~~~ mask) ||| (v &&& mask)
  if wfld n 12 11 = 2 then setWfld n 12 11 (wfld old 12 11) else n

/-- A 3-bit field that keeps its value where a write is above a limit. -/
def keepAbove (limit old v : Nat) : Nat := if v ≤ limit then v else old

/-- pmpcfg after a write: locked entries keep their byte, and R = 0 with W = 1 is not stored. -/
def pmpcfgWrite (old v : Word) : Word :=
  (List.range 8).foldl (fun w i =>
    let o := wfld old (8 * i + 7) (8 * i)
    let n := wfld v (8 * i + 7) (8 * i) &&& 0x9F
    let keep := bitOf o 7 || (bitOf n 1 && !bitOf n 0)
    setWfld w (8 * i + 7) (8 * i) (if keep then o else n)) 0

/-- Whether pmpaddr i is locked: by its own entry, or as the base of a locked TOR entry above it. -/
def pmpLocked (c : Csrs) (i : Nat) : Bool :=
  bitOf (pmpCfg c i) 7 || (i < 15 && bitOf (pmpCfg c (i + 1)) 7 && fld (pmpCfg c (i + 1)) 4 3 = 1)

/-- The depth of a queue (08 R191). -/
def queueDepth (q : Nat) : Nat := if q < 4 then 4 else if q < 6 then 8 else if q = 6 then 16 else 32

/-- A hart with the word that kqsel selects written (08 R210). -/
def kqdatWrite (g : Hart) (v : Word) : Hart :=
  let q := wfld g.csr.kqsel 2 0
  let e := wfld g.csr.kqsel 8 4
  let w := wfld g.csr.kqsel 22 16
  if q < 6 then
    let l := tblGet [] g.vec.q q
    match l[e]? with
    | some x => g.modVec (fun c => { c with q := tblSet c.q q (setNth l e
        { x with data := BitVec.ofNat 8192 (setFld x.data.toNat (64 * w + 63) (64 * w) v.toNat) }) })
    | none => g
  else if q = 6 then
    match g.vec.q6[e]? with
    | some x => if w < 8 then g.modVec (fun c => { c with q6 := setNth c.q6 e (BitVec.ofNat 512 (setFld x.toNat (64 * w + 63) (64 * w) v.toNat)) }) else g
    | none => g
  else
    match g.q7[e]? with
    | some x => { g with q7 := setNth g.q7 e (if w = 0 then (v, x.2) else if w = 1 then (x.1, v.setWidth 16) else x) }
    | none => g

/-- A list cut or grown with a filler to a length. -/
def toLength {α : Type} (fill : α) (n : Nat) (l : List α) : List α := (l ++ List.replicate (n - l.length) fill).take n

/-- A hart with the count of the selected queue written. -/
def kqcntWrite (g : Hart) (v : Word) : Hart :=
  let q := wfld g.csr.kqsel 2 0
  let n := wfld v 5 0
  if n > queueDepth q then g
  else if q < 6 then g.modVec (fun c => { c with q := tblSet c.q q (toLength { data := 0, complete := true } n (tblGet [] c.q q)) })
  else if q = 6 then g.modVec (fun c => { c with q6 := toLength 0 n c.q6 })
  else { g with q7 := toLength (0, 0) n g.q7 }

/-- dcsr after a write: ebreakm, ebreaks, ebreaku, step and prv. -/
def dcsrWrite (old v : Word) : Word :=
  let n := (old &&& ~~~ 0xB007) ||| (v &&& 0xB007)
  if wfld n 1 0 = 2 then setWfld n 1 0 (wfld old 1 0) else n

/-- The state after a legal write of a CSR of a hart. -/
def csrWrite (h a : Nat) (v : Word) (s : State) : State :=
  let csr (f : Csrs → Csrs) : State := s.modHart h (fun g => g.modCsr f)
  let vec (f : VecCtx → VecCtx) : State := s.modHart h (fun g => g.modVec f)
  let m := irqMask h
  match a with
  | 0x100 => csr (fun c => { c with mstatus := mstatusWrite c.mstatus v sstatusMask })
  | 0x104 => csr (fun c => { c with mie := (c.mie &&& ~~~ c.mideleg) ||| (v &&& c.mideleg &&& m) })
  | 0x105 => csr (fun c => { c with stvec := tvecWrite c.stvec v })
  | 0x106 => csr (fun c => { c with scounteren := v &&& 0xFFFFFFFF })
  | 0x10A => csr (fun c => { c with senvcfg := v &&& 1 })
  | 0x140 => csr (fun c => { c with sscratch := v })
  | 0x141 => csr (fun c => { c with sepc := setWfld v 0 0 0 })
  | 0x142 => csr (fun c => { c with scause := v })
  | 0x143 => csr (fun c => { c with stval := v })
  | 0x180 =>
    if isVector h then s
    else if wfld v 63 60 = 0 ∨ wfld v 63 60 = 9 then csr (fun c => { c with satp := v }) else s
  | 0x300 => csr (fun c => { c with mstatus := mstatusWrite c.mstatus v mstatusMask })
  | 0x302 => csr (fun c => { c with medeleg := v &&& 0xFFFFF7FF })
  | 0x303 => csr (fun c => { c with mideleg := v &&& m })
  | 0x304 => csr (fun c => { c with mie := v &&& m })
  | 0x305 => csr (fun c => { c with mtvec := tvecWrite c.mtvec v })
  | 0x306 => csr (fun c => { c with mcounteren := v &&& 0xFFFFFFFF })
  | 0x30A => csr (fun c => { c with menvcfg := v &&& 1 })
  | 0x340 => csr (fun c => { c with mscratch := v })
  | 0x341 => csr (fun c => { c with mepc := setWfld v 0 0 0 })
  | 0x342 => csr (fun c => { c with mcause := v })
  | 0x343 => csr (fun c => { c with mtval := v })
  | 0x3A0 => csr (fun c => { c with pmpcfg := tblSet c.pmpcfg 0 (pmpcfgWrite (tblGet 0 c.pmpcfg 0) v) })
  | 0x3A2 => csr (fun c => { c with pmpcfg := tblSet c.pmpcfg 2 (pmpcfgWrite (tblGet 0 c.pmpcfg 2) v) })
  | 0xB02 => s.modHart h (fun g => { g with instret := v - 1 })
  | 0x800 => vec (fun c => { c with vmt := BitVec.ofNat 3 (keepAbove 5 c.vmt.toNat (wfld v 2 0)) })
  | 0x801 => vec (fun c => { c with vxcls := BitVec.ofNat 64 (keepAbove 4 (wfld c.vxcls 2 0) (wfld v 2 0) + wfld v 12 8 * 2 ^ 8) })
  | 0x802 => vec (fun c => { c with vreuse := v.setWidth 2 })
  | 0x803 => vec (fun c => { c with vrm := BitVec.ofNat 3 (keepAbove 4 c.vrm.toNat (wfld v 2 0)) })
  | 0x804 => vec (fun c => { c with vfflags := v.setWidth 5 })
  | 0x805 => vec (fun c => { c with vrqctl := BitVec.ofNat 64 (wfld v 4 0 + keepAbove (wfld c.vrqctl 9 5) (wfld c.vrqctl 9 5) (wfld v 9 5) * 2 ^ 5 + wfld v 10 10 * 2 ^ 10) })
  | 0x806 => vec (fun c => { c with vmsp := wfld v 4 0 })
  | 0x5C0 => s.modHart h (fun g => { g with
      csr := { g.csr with ktimecmp := v }, irqPending := setBitW g.irqPending 16 (!(s.cycle.ult v)) })
  | 0x5C1 => s.modHart h (fun g => { g with kstat := { g.kstat with
      resume := v.getLsbD 0, owe := v.getLsbD 9, owRow := wfld v 14 10 } })
  | 0x5C2 => csr (fun c => { c with kinstr := v })
  | 0x5C3 =>
    if ctxOf h = 0 then s.modCore (unitOf h) (fun c => { c with kflog := { c.kflog with
      ovf := c.kflog.ovf && !v.getLsbD 62, valid := c.kflog.valid && !v.getLsbD 63 } })
    else s
  | 0x5C4 => if ctxOf h = 1 then csr (fun c => { c with kbfail := setWfld v 1 0 0 }) else s
  | 0x7B0 => csr (fun c => { c with dcsr := dcsrWrite c.dcsr v })
  | 0x7B1 => csr (fun c => { c with dpc := setBitW v 0 false })
  | 0x7B2 => csr (fun c => { c with dscratch0 := v })
  | 0x7B3 => csr (fun c => { c with dscratch1 := v })
  | 0x7C0 =>
    let s := s.modCore (unitOf h) (fun c => { c with kcut := { c.kcut with arm := v.getLsbD 0 } })
    if v.getLsbD 0 then s else resumeHoist (unitOf h) s
  | 0x7C1 => csr (fun c => { c with kqsel := v &&& 0x7F01F7 })
  | 0x7C2 => s.modHart h (fun g => kqdatWrite g v)
  | 0x7C3 => s.modHart h (fun g => kqcntWrite g v)
  | _ =>
    if 0x3B0 ≤ a ∧ a ≤ 0x3BF then
      csr (fun c => if pmpLocked c (a - 0x3B0) then c else { c with pmpaddr := tblSet c.pmpaddr (a - 0x3B0) (v &&& 0x3FFFFFFFFFFFFF) })
    else s

/- The instructions. -/

/-- A CSR access: legality, the source register, the read into rd where it reads, and the write where it writes. The
written value is f of the old value and of the source. -/
def csrOp (i : Instr) (rd : Reg) (csr : BitVec 12) (src : M Word) (reads writes : Bool) (f : Word → Word → Word) : M Unit := do
  let a := csr.toNat
  let legal ← askS (fun s => csrLegal s s.cur a writes)
  requireM legal i
  let v ← src
  let h ← askS (fun s => s.cur)
  (if csrSerial a && isVector h then waitVecOwn else pure ())
  destX rd.toNat
  let old ← askS (fun s => csrRead s h a)
  (if reads then modS (csrReadEffect h a) else pure ())
  (if writes then modS (csrWrite h a (f old v)) else pure ())
  (if reads then writeX rd.toNat old else pure ())
  retireM 4

/-- CSRRW (14 R347). -/
def execCsrrw (rd rs1 : Reg) (csr : BitVec 12) (s : State) : Host.Outcome State Fault Refusal :=
  runM (csrOp (.csrrw rd rs1 csr) rd csr (readX rs1.toNat) (rd ≠ 0) true (fun _ v => v)) s

/-- CSRRS (14 R347). -/
def execCsrrs (rd rs1 : Reg) (csr : BitVec 12) (s : State) : Host.Outcome State Fault Refusal :=
  runM (csrOp (.csrrs rd rs1 csr) rd csr (readX rs1.toNat) true (rs1 ≠ 0) (fun o v => o ||| v)) s

/-- CSRRC (14 R347). -/
def execCsrrc (rd rs1 : Reg) (csr : BitVec 12) (s : State) : Host.Outcome State Fault Refusal :=
  runM (csrOp (.csrrc rd rs1 csr) rd csr (readX rs1.toNat) true (rs1 ≠ 0) (fun o v => o &&& ~~~ v)) s

/-- CSRRWI (14 R347). -/
def execCsrrwi (rd uimm : Reg) (csr : BitVec 12) (s : State) : Host.Outcome State Fault Refusal :=
  runM (csrOp (.csrrwi rd uimm csr) rd csr (pure (uimm.setWidth 64)) (rd ≠ 0) true (fun _ v => v)) s

/-- CSRRSI (14 R347). -/
def execCsrrsi (rd uimm : Reg) (csr : BitVec 12) (s : State) : Host.Outcome State Fault Refusal :=
  runM (csrOp (.csrrsi rd uimm csr) rd csr (pure (uimm.setWidth 64)) true (uimm ≠ 0) (fun o v => o ||| v)) s

/-- CSRRCI (14 R347). -/
def execCsrrci (rd uimm : Reg) (csr : BitVec 12) (s : State) : Host.Outcome State Fault Refusal :=
  runM (csrOp (.csrrci rd uimm csr) rd csr (pure (uimm.setWidth 64)) true (uimm ≠ 0) (fun o v => o &&& ~~~ v)) s

end Sys2Proof.Machine
end

