-- ==== Sys2Proof/Machine/Fetch.lean ====
section
/-! DEFINITION. Fetching and decoding the instruction at a hart's pc (13 R319; 11 R270, R271; 09 R238): the instruction cache
keeps the lines it has fetched until FENCE.I, PATCH or an invalidation. -/

namespace Sys2Proof.Machine

/-- How a fetch ends. -/
inductive Fetched where
  | instr (i : Instr) (len : Nat) (s : State)
  | fault (cause : Nat) (tval : Word) (s : State)
  | illegal (word : Nat) (s : State)
  | wait (w : Wait) (s : State)

/-- Why a word is not fetched: a fault, or a wait while the partition's lines are re-homed (09 R223). -/
inductive NoWord where
  | fault (cause : Nat)
  | wait (w : Wait)
deriving DecidableEq, Repr

/-- A line of the instruction cache as a fill brings it in: every sector that is not under integrity hold. -/
def fillLine (s : State) (line : Nat) : ILine :=
  { line := line
    valid := BitVec.ofNat 8 ((List.range 8).foldl (fun m k => if s.failing.contains (line * 8 + k) then m else m + 2 ^ k) 0)
    cells := s.mem.filter (fun c => lineOf c.1 = line) }

/-- The instruction cache of a unit with a line put first: 256 KiB in 8 ways of 32 sets of 1,024-byte lines, of which PA [14:10] selects the
set and the least recently filled leaves (09 R238; notes/assumptions/24.md). -/
def iPut (e : ILine) (l : List ILine) : List ILine :=
  let rest := l.filter (fun x => x.line ≠ e.line)
  let set := rest.filter (fun x => x.line % 32 = e.line % 32)
  match set[7]? with
  | some v => e :: rest.filter (fun x => x.line ≠ v.line)
  | none => e :: rest

/-- The word at a physical address in a unit's instruction cache. -/
def iFind (c : Core) (a : Nat) : Option Nat :=
  (c.icache.find? (fun x => x.line = lineOf a && x.valid.getLsbD (a % 1024 / 128))).map (fun x => memRead x.cells a 4)

/-- A fetch that misses brings its line in through the home slice; host memory, other devices and lines of no home are never held. -/
def iFill (u reader a : Nat) (s : State) : State :=
  if isHostNum a ∨ isRemote a then s
  else match homeOf s reader a with
    | none => s
    | some k =>
      let e := fillLine s (lineOf a)
      (sliceFill k e.line u e.valid s).2.modCore u (fun c => { c with icache := iPut e c.icache })

/-- One 32-bit word at a VA, through the instruction cache. -/
def fetchWord (s : State) (h : Nat) (va : Word) : Except (NoWord × State) (Nat × State) :=
  let u := unitOf h
  if inWindow h va.toNat then .error (.fault 1, s)
  else match translateHart s h .fetch va.toNat 4 with
    | .error c => .error (.fault c, reportFault (spaceOf s h .fetch) true .fetch va.toNat s)
    | .ok (r, e) =>
      let s := holdEntry (spaceOf s h .fetch) .fetch e s
      let a := r.num
      match iFind (s.core u) a with
      | some w => .ok (w, s)
      | none =>
        if (s.part (partOfHart s h)).rehoming.isSome then .error (.wait .rehoming, s)
        else if (heldByte s a 4).isSome then .error (.fault 29, s)
        else .ok (gRead s a 4, iFill u (partOfHart s h) a s)

/-- The instruction at a VA. -/
def fetchAt (s : State) (h : Nat) (pc : Word) : Fetched :=
  let stop (e : NoWord) (va : Word) (s : State) : Fetched := match e with
    | .fault c => .fault c va s
    | .wait w => .wait w s
  if wfld pc 1 0 ≠ 0 then .fault 0 pc s
  else match fetchWord s h pc with
    | .error (e, s) => stop e pc s
    | .ok (w0, s) =>
      match lengthOf w0 with
      | none => .illegal w0 s
      | some n =>
        if n = 4 then
          match decodeWord 4 w0 with
          | some i => .instr i 4 s
          | none => .illegal w0 s
        else match fetchWord s h (pc + 4) with
          | .error (e, s) => stop e (pc + 4) s
          | .ok (w1, s) =>
            let w := w0 + w1 * 2 ^ 32
            match decodeWord 8 w with
            | some i => .instr i 8 s
            | none => .illegal w s

/-- Drop the cached lines of a unit. -/
def dropICache (u : Nat) (s : State) : State :=
  let c := s.core u
  if c.icache = [] then s else s.setCore u { c with icache := [] }

/-- Whether the instruction at a hart's pc may resume under R273; one that cannot be fetched keeps the resumption for its
own fault. -/
def resumesAt (s : State) (h : Nat) (pc : Word) : Bool :=
  match fetchAt s h pc with
  | .instr i _ _ => resumable i
  | .fault _ _ _ => true
  | .wait _ _ => true
  | .illegal _ _ => false

end Sys2Proof.Machine
end

