-- ==== Sys2Proof/Machine/System.lean ====
section
/-! DEFINITION. The fences and the privileged instructions (14 R346, R349, R350, R369; 09 R238; 10 R250), and the entry into a
debug halt (11 R289, R290). -/

namespace Sys2Proof.Machine

/- A debug halt of a core. -/

/-- Whether a core has drained: its vector queue and lanes, and every result in flight towards an x register but those of parked releases
(10 R259; 11 R290). -/
def drained (s : State) (u : Nat) : Bool :=
  let c := s.core u
  c.vq = [] && c.lanesUntil ≤ s.now
    && !c.posted.any (fun e => !e.parked && !e.refused && (match e.op with
      | .amo _ _ _ _ _ _ => true
      | .packetAmo _ _ _ _ _ _ _ => true
      | _ => false))
    && (List.range 16).all (fun k =>
      let h := s.hart (hartOf u k)
      h.loads = [] && h.fe.all (fun e => match feNow s.now e.2 with
        | .due _ => false
        | _ => true))

/-- dcsr with its cause and mode fields set. -/
def dcsrEnter (d : Word) (cause : Nat) (p : Priv) : Word := setWfld (setWfld d 8 6 cause) 1 0 (privNat p)

/-- Complete a halt: every context of the core keeps its pc in dpc and its wait ends; the reuse table is cleared. -/
def finishHalt (u : Nat) (s : State) : State :=
  let s := clearReuse u s
  let s := s.modCore u (fun c => { c with slot := none, dbg := { c.dbg with halted := true, haltreq := false } })
  (List.range 16).foldl (fun t k =>
    let h := hartOf u k
    if (t.hart h).run = .free then t
    else t.modHart h (fun g => { g with waiting := none, csr := { g.csr with dpc := g.pc } })) s

/-- A halt that waits completes once the core has drained. -/
def haltCheck (u : Nat) (s : State) : State :=
  if (s.core u).dbg.haltreq ∧ drained s u then finishHalt u s else s

/-- A single step ends: the hart is halted again, with its pc in dpc and the cause of a step in dcsr (11 R292). -/
def finishStep (u h : Nat) (s : State) : State :=
  ((clearReuse u s).modCore u (fun c => { c with slot := none, dbg := { c.dbg with stepping := none } })).modHart h
    (fun g => { g with csr := { g.csr with dpc := g.pc, dcsr := dcsrEnter g.csr.dcsr 4 g.priv } })

/-- An instruction of n bytes of a hart has retired or trapped: the program buffer moves past it (11 R291), and a single step ends (11 R292). -/
def stepDone (h n : Nat) (s : State) : State :=
  let u := unitOf h
  let c := s.core u
  match c.dbg.prog with
  | some (k, i) => if k = h then s.setCore u { c with dbg := { c.dbg with prog := some (k, i + n / 4) } } else s
  | none => if c.dbg.stepping = some h ∧ c.dbg.halted then finishStep u h s else s

/-- Ask a core to halt: its contexts stop issuing (11 R290). who is the hart that caused it, with the cause of dcsr. -/
def requestHalt (u who cause : Nat) (s : State) : State :=
  let s := (List.range 16).foldl (fun t k =>
    let h := hartOf u k
    t.modHart h (fun g => g.modCsr (fun c => { c with dcsr := dcsrEnter c.dcsr (if h = who then cause else 6) g.priv }))) s
  haltCheck u (s.modCore u (fun c => { c with dbg := { c.dbg with haltreq := true } }))

/- Fences. -/

/-- FENCE.S of a kind (0 acquire, 1 release, 2 both) and a scope (10 R250). -/
def fenceM (kind scope : Nat) : M Unit := do
  waitVecOwn
  waitAtomics
  modS (fun s => sendOwn s.cur s)
  (if kind = 0 then pure () else releaseSelf scope)
  (if kind = 1 then pure () else acquire scope)

/-- FENCE (14 R346): both sets non-empty act as FENCE.S both at system scope; otherwise it has no effect. -/
def execFence (pred succ : BitVec 4) (s : State) : Host.Outcome State Fault Refusal :=
  runM (do
    (if pred = 0 ∨ succ = 0 then pure () else fenceM 2 4)
    retireM 4) s

/-- FENCE.TSO (14 R346). -/
def execFenceTso (s : State) : Host.Outcome State Fault Refusal :=
  runM (do
    fenceM 2 4
    retireM 4) s

/-- FENCE.I (14 R346): later fetches come after the context's earlier stores, and the core's instruction cache is
invalidated. -/
def execFenceI (s : State) : Host.Outcome State Fault Refusal :=
  runM (do
    waitVecOwn
    waitAtomics
    waitClasses 15
    modS (fun s => dropICache (unitOf s.cur) s)
    retireM 4) s

/-- The harts that have the short format's FENCE.S, messages and TSELF (14 R351). -/
def hasMessages (h : Nat) : Bool := isVector h || isControl h

/-- FENCE.S (14 R369). -/
def execFenceS (kind : BitVec 2) (scope : BitVec 3) (s : State) : Host.Outcome State Fault Refusal :=
  runM (do
    requireM (← askS (fun s => hasMessages s.cur)) (.fenceS kind scope)
    fenceM kind.toNat scope.toNat
    retireM 4) s

/- Privileged instructions. -/

/-- ECALL (14 R349): cause 8 from U, 9 from S. From M a vector-core context, which never raises cause 11 (11 R270), takes
cause 2; other harts take cause 11. -/
def execEcall (s : State) : Host.Outcome State Fault Refusal :=
  runM (do
    let h ← me
    let v ← askS (fun s => isVector s.cur)
    match h.priv with
    | .user => trapM 8 0
    | .supervisor => trapM 9 0
    | .machine => if v then illegalM .ecall else trapM 11 0) s

/-- The dcsr bit that sends EBREAK of a mode into debug mode. -/
def ebreakBit : Priv → Nat
  | .user => 12
  | .supervisor => 13
  | .machine => 15

/-- EBREAK (14 R349; 11 R270): debug entry where the dcsr bit of the mode is set, and otherwise cause 3 with the pc. In the
program buffer it ends the program. -/
def execEbreak (s : State) : Host.Outcome State Fault Refusal :=
  runM (do
    let h ← me
    let v ← askS (fun s => isVector s.cur)
    let p ← askS (fun s => inProgram s s.cur)
    if p then modS (fun s => endProgram (unitOf s.cur) 0 s)
    else if v && h.csr.dcsr.getLsbD (ebreakBit h.priv) then modS (fun s => requestHalt (unitOf s.cur) s.cur 1 s)
    else trapM 3 h.pc) s

/-- The part of a return that SRET and MRET share (14 R350). -/
def returnM (leave : Hart → Hart) : M Unit := do
  modMe leave
  let again ← askS (fun s =>
    let g := s.hart s.cur
    g.kstat.resume && resumesAt s s.cur g.pc)
  modMe (fun g => g.afterReturn again)
  modS (fun s => retryHoist s.cur s)

/-- SRET (14 R349): in S-mode, where TSR does not forbid it, and in M-mode. -/
def execSret (s : State) : Host.Outcome State Fault Refusal :=
  runM (do
    let h ← me
    requireM (h.priv = .machine || (h.priv = .supervisor && !h.csr.mstatus.getLsbD 22)) .sret
    returnM Hart.leaveS) s

/-- MRET (14 R349). -/
def execMret (s : State) : Host.Outcome State Fault Refusal :=
  runM (do
    let h ← me
    requireM (h.priv = .machine) .mret
    returnM Hart.leaveM) s

/-- WFI (14 R349): waits until an interrupt is pending, enabled or not (07 R170). -/
def execWfi (s : State) : Host.Outcome State Fault Refusal :=
  runM (do
    let h ← me
    requireM (h.priv = .machine || (h.priv = .supervisor && !h.csr.mstatus.getLsbD 21)) .wfi
    let p ← askS (fun s => pendingIrqs s s.cur)
    if p = 0 then waitM .interrupt else retireM 4) s

/-- Whether a posted access of a partition's cores is older than a bound. -/
def olderPosted (s : State) (p bound : Nat) : Bool :=
  s.cores.any (fun c => (match clusterOfUnit c.1 with
      | some k => partOfCluster s k = p
      | none => p = 64) && c.2.posted.any (fun e => e.id < bound))

/-- SFENCE.VMA (14 R349; 09 R238): the matching translations go in every core of the partition; it completes when every
access that used one has been performed. -/
def execSfenceVma (rs1 rs2 : Reg) (s : State) : Host.Outcome State Fault Refusal :=
  runM (do
    let h ← me
    requireM (h.priv = .machine || (h.priv = .supervisor && !h.csr.mstatus.getLsbD 20)) (.sfenceVma rs1 rs2)
    let va ← readX rs1.toNat
    let asid ← readX rs2.toNat
    waitVecOwn
    let p ← askS (fun s => partOfHart s s.cur)
    modS (fun s => dropTlb p (if rs1 = 0 then none else some va.toNat)
      (if rs2 = 0 then none else some (wfld asid 15 0)) false (sendOwn s.cur s))
    let bound ← askS (fun s => h.fencing.getD s.nextId)
    let busy ← askS (fun s => olderPosted s p bound)
    if busy then do
      modMe (fun g => { g with fencing := some bound })
      waitKeepM (.invalidation p bound)
    else do
      modMe (fun g => { g with fencing := none })
      retireM 4) s

end Sys2Proof.Machine
end

