-- ==== Sys2Proof/Machine/Operands.lean ====
section
/-! DEFINITION. The operand forms of the vector instructions: registers, predicates and masks, queues (08 R186–R194), the issue
checks of 13 R332 on them, and content-named registers (08 R197–R199). -/

namespace Sys2Proof.Machine

/- Registers, predicates and masks of a context. -/

/-- The contents of a vector register. -/
def VecCtx.getV (v : VecCtx) (r : Nat) : VReg := tblGet 0 v.v r

/-- The physical name of a vector register; 0 names the register of zeros. -/
def VecCtx.getName (v : VecCtx) (r : Nat) : Nat := tblGet 0 v.vname r

/-- The contents of a predicate; p0 is the top of the mask stack (08 R188). -/
def VecCtx.getP (v : VecCtx) (k : Nat) : Mask := if k = 0 then tblGet 0 v.stack v.vmsp else tblGet 0 v.p k

/-- Whether a word under SECDED belongs to the mask of a mask-space code (08 R190, R206). -/
def VecCtx.inMask (v : VecCtx) (code : Nat) : Spoiled → Bool
  | .predicate p _ => code ≠ 0 && code < 16 && p = code
  | .stack e _ => (code = 0 && e = v.vmsp) || (16 ≤ code && code < 48 && e + 16 = code)
  | .special m _ => (code = 48 && m = wfld v.vxcls 2 0) || (code = 49 && m = 5) || (code = 50 && m = 6)
  | _ => false

/-- Whether a mask holds a word under integrity hold. -/
def VecCtx.maskHeld (v : VecCtx) (code : Nat) : Bool := v.failing.any (v.inMask code)

/-- A context in which the mask of a code is written whole: its holds end (01 R30). -/
def VecCtx.freshMask (v : VecCtx) (code : Nat) : VecCtx :=
  if v.failing = [] then v else { v with failing := v.failing.filter (fun f => !v.inMask code f) }

/-- A context with a predicate written. -/
def VecCtx.setP (v : VecCtx) (k : Nat) (m : Mask) : VecCtx :=
  let v := v.freshMask k
  if k = 0 then { v with stack := tblSet v.stack v.vmsp m } else { v with p := tblSet v.p k m }

/-- A mask by its mask-space code (08 R190). -/
def VecCtx.getMask (v : VecCtx) (code : Nat) : Mask :=
  if code < 16 then v.getP code
  else if code < 48 then tblGet 0 v.stack (code - 16)
  else if code = 48 then tblGet 0 v.flagMask (wfld v.vxcls 2 0)
  else if code = 49 then v.vsat
  else v.vflt

/-- A context with a mask written by its mask-space code. -/
def VecCtx.setMask (v : VecCtx) (code : Nat) (m : Mask) : VecCtx :=
  if code < 16 then v.setP code m
  else
  let v := v.freshMask code
  if code < 48 then { v with stack := tblSet v.stack (code - 16) m }
  else if code = 48 then { v with flagMask := tblSet v.flagMask (wfld v.vxcls 2 0) m }
  else if code = 49 then { v with vsat := m }
  else { v with vflt := m }

/-- A queue of a context. -/
def VecCtx.getQ (v : VecCtx) (q : Nat) : List QEntry := tblGet [] v.q q

/-- A context with a queue replaced. -/
def VecCtx.setQ (v : VecCtx) (q : Nat) (l : List QEntry) : VecCtx := { v with q := tblSet v.q q l }

/-- A context with n entries of a queue popped; the holds of the others move with them. -/
def VecCtx.popQ (v : VecCtx) (q n : Nat) : VecCtx :=
  { v.setQ q ((v.getQ q).drop n) with failing := v.failing.filterMap (fun f => match f with
      | .queue k e w => if k ≠ q then some f else if e < n then none else some (.queue k (e - n) w)
      | _ => some f) }

/-- The slots inside the lengths, in row-major order. -/
def slotsIn (vlr vlc : Nat) : List Nat := (List.range vlr).flatMap (fun r => (List.range vlc).map (fun c => r * 32 + c))

/-- ACTIVE without the lengths (00 R8): p0, and p[pg] where pg is not 0. -/
def VecCtx.gate (v : VecCtx) (pg : Nat) : Mask := if pg = 0 then v.getP 0 else v.getP 0 &&& v.getP pg

/-- The ACTIVE slots in row-major order. -/
def VecCtx.actives (v : VecCtx) (pg vlr vlc : Nat) : List Nat :=
  let g := v.gate pg
  (slotsIn vlr vlc).filter (fun i => g.getLsbD i)

/-- Element of w bytes at a slot. -/
def elemAt (value w i : Nat) : Nat := (value >>> (8 * w * i)) % 2 ^ (8 * w)

/-- A register value with the element at a slot replaced. -/
def setElem (value w i x : Nat) : Nat :=
  value - (elemAt value w i) * 2 ^ (8 * w * i) + (x % 2 ^ (8 * w)) * 2 ^ (8 * w * i)

/- Content-named physical registers (08 R197–R199). -/

/-- Whether a physical register is under integrity hold (08 R208). -/
def nameHeld (c : Core) (n : Nat) : Bool := c.failingLanes.any (fun e => e.1 = n)

/-- The name of a live physical register of a core with given contents: one that a context or a reuse entry maps. -/
def liveName (s : State) (u : Nat) (v : VReg) : Option Nat :=
  let c := s.core u
  let inHart (h : Nat) : Option Nat :=
    let x := (s.hart h).vec
    if v = 0 then
      ((List.range 16).find? (fun r => x.getV r = 0 && !nameHeld c (x.getName r))).map x.getName
    else (x.v.find? (fun e => e.1 < 16 && e.2 = v && !nameHeld c (x.getName e.1))).map (fun e => x.getName e.1)
  match (List.range 16).findSome? (fun k => inHart (hartOf u k)) with
  | some n => some n
  | none => (c.reuse.find? (fun e => e.key.op ≠ 0x003 && e.key.op ≠ 0x00A && e.result = v && !nameHeld c e.name)).map (·.name)

/-- The physical registers of a core (08 R197). -/
def physicalRegs : Nat := 320

/-- A free physical register for a result: where none is free, the least recently used reuse entry goes (08 R198). None is free only
while 256 architectural registers and 64 entries all name different registers. -/
def spareRegister (u : Nat) (s : State) : State :=
  let c := s.core u
  if c.reuse.length < 64 then s
  else
    let mapped := (List.range 16).flatMap (fun k => (List.range 16).map (s.hart (hartOf u k)).vec.getName)
    let held := (c.reuse.filter (fun e => e.key.op ≠ 0x003 && e.key.op ≠ 0x00A)).map (·.name)
    if (mapped ++ held).eraseDups.length < physicalRegs then s
    else s.setCore u { c with reuse := c.reuse.dropLast }

/-- The failing slices of a core with those of a physical register given to another. -/
def carrySlices (old new : Nat) (l : List (Nat × Nat)) : List (Nat × Nat) := l ++ (l.filter (fun e => e.1 = old)).map (fun e => (new, e.2))

/-- When a result is written: whether it gives all 1,024 bytes, and the cycles in which its first and its last element group are written. -/
structure Written where
  whole : Bool
  first : Nat
  last : Nat
deriving DecidableEq, Repr

/-- Write a vector register of a hart: it maps onto a live register of equal contents, which vrshare counts, or onto a new
one. A register with failing slices of which only a part is written keeps them (08 R208). -/
def setVReg (h r : Nat) (v : VReg) (w : Written) (s : State) : State :=
  let u := unitOf h
  let old := (s.hart h).vec.getName r
  let failing : Bool := !w.whole && ((s.core u).failingLanes ++ (s.core u).parity).any (fun e => e.1 = old)
  let s := spareRegister u s
  let put (n : Nat) (shared : Bool) (s : State) : State :=
    s.modHart h (fun g => g.modVec (fun x => { x with
      v := tblSet x.v r v, vname := tblSet x.vname r n
      vfe := if s.now ≤ w.last then tblSet x.vfe r (.due w.last) else tblDel x.vfe r
      vfirst := if s.now ≤ w.last then tblSet x.vfirst r w.first else tblDel x.vfirst r
      vrshare := if shared then x.vrshare + 1 else x.vrshare }))
  match if failing then none else liveName s u v with
  | some n => put n true s
  | none =>
    let n := (s.core u).nextName
    put n false (s.modCore u (fun c => { c with
      nextName := n + 1
      failingLanes := if failing then carrySlices old n c.failingLanes else c.failingLanes
      parity := if failing then carrySlices old n c.parity else c.parity }))

/-- A context's vector registers named afresh among those of its core (08 R204): equal contents share, and a register under one of the
given holds stays under hold. -/
def adoptRegs (holds : List (Nat × Nat)) (h : Nat) (s : State) : State :=
  let u := unitOf h
  let old := (s.hart h).vec
  let put (r n : Nat) (s : State) : State :=
    s.modHart h (fun g => g.modVec (fun x => { x with v := tblSet x.v r (old.getV r), vname := tblSet x.vname r n }))
  let fresh (r : Nat) (lanes : List Nat) (s : State) : State :=
    let n := (s.core u).nextName
    put r n (s.modCore u (fun c => { c with nextName := n + 1, failingLanes := c.failingLanes ++ lanes.map (fun l => (n, l)) }))
  ((List.range 16).filter (fun r => old.v.any (fun e => e.1 = r) || old.vname.any (fun e => e.1 = r))).foldl (fun t r =>
    match (holds.filter (fun e => e.1 = old.getName r)).map (·.2) with
    | [] => match liveName t u (old.getV r) with
      | some n => put r n t
      | none => fresh r [] t
    | lanes => fresh r lanes t) (s.modHart h (fun g => g.modVec (fun x => { x with v := [], vname := [] })))

/-- Every context of a core named afresh. -/
def rebuildNames (u : Nat) (s : State) : State :=
  let holds := (s.core u).failingLanes
  let l := (s.harts.filter (fun e => unitOf e.1 = u && e.2.vec.v ≠ [])).map (·.1)
  l.foldl (fun t h => adoptRegs holds h t) s

/- Which registers an instruction names. -/

/-- Instructions whose d field is a data source (16 R393; 15 R381). -/
def dataInD : Instr → Bool
  | .vst _ | .vscatter _ | .vrred _ | .vamoadd _ | .vsave _ => true
  | _ => false

/-- The vector registers that an instruction writes. -/
def vWritten (i : Instr) : List Nat :=
  match i.long? with
  | none => []
  | some (f, k) =>
    match k.d with
    | .v =>
      if dataInD i ∨ 16 ≤ f.d.toNat then []
      else (List.range (if k.dGroup = 0 then f.rep.toNat + 1 else k.dGroup)).map (fun j => f.d.toNat + j)
    | _ => []

/-- Whether an entry of the vector queue writes a register of a hart: it is neither empty nor pending for a reader
(08 R184). -/
def vqWrites (s : State) (h r : Nat) : Bool :=
  (s.core (unitOf h)).vq.any (fun e => e.hart = h && (vWritten e.instr).contains r)

/-- The full/empty state of a vector register as FEPROBE reports it (14 R367). -/
def State.vFe (s : State) (h r : Nat) : Fe :=
  if vqWrites s h r then .inFlight else feNow s.now (tblGet .full (s.hart h).vec.vfe r)

/-- Whether a vector register is empty for a reader: FEMARK marked it and nothing has written or will write it. -/
def vEmpty (s : State) (h r : Nat) : Bool := tblGet .full (s.hart h).vec.vfe r = .marked && !vqWrites s h r

/-- How a V field is used: the registers it names as a source, with the number of entries it pops if it is a queue. -/
structure VUse where
  code : Nat
  count : Nat
  tbit : Bool
  field : Nat
deriving DecidableEq, Repr

/-- The V source fields of an instruction in the order a, b, c, d (08 R194; 17 R435). -/
def vSources (i : Instr) : List VUse :=
  match i.long? with
  | none => []
  | some (f, k) =>
    let n := f.rep.toNat + 1
    let on (c : FieldClass) (u : VUse) : List VUse := match c with
      | .v => [u]
      | _ => []
    on k.a { code := f.a.toNat, count := 1, tbit := f.ta, field := 1 }
      ++ on k.b { code := f.b.toNat, count := if k.bGroup = 0 then n else k.bGroup, tbit := f.tb, field := 2 }
      ++ on k.c { code := f.c.toNat, count := if f.c = f.d then n else 1, tbit := f.tc, field := 3 }
      ++ (if dataInD i then [{ code := f.d.toNat, count := 1, tbit := false, field := 4 }] else [])

/-- The queue codes that the d field of an instruction accepts as a destination (08 R191). -/
def dQueueOk : Instr → Nat → Bool
  | .vld _, c | .vldff _, c | .vgather _, c | .vldacc _, c => 16 ≤ c && c ≤ 19
  | .vtex _, c | .vtexlod _, c => c = 20
  | .rq _, c | .rqany _, c => c = 21
  | _, _ => false

/-- The first queue code that an instruction misuses (08 R191, R192): a source other than q0–q5, a data source in d other than of
VST and VSCATTER, a destination that its queue does not accept, or one queue in two fields. -/
def queueMisuse (i : Instr) : Option Nat :=
  match i.long? with
  | none => none
  | some (f, k) =>
    let srcs := vSources i
    let dOk : Bool := match i with
      | .vst _ | .vscatter _ => f.d.toNat ≤ 21
      | _ => false
    let bad := srcs.find? (fun u => 16 ≤ u.code && (if u.field = 4 then !dOk else 22 ≤ u.code))
    match bad with
    | some u => some u.code
    | none =>
      let dst : List Nat := match k.d with
        | .v => if dataInD i then [] else [f.d.toNat]
        | _ => []
      match dst.find? (fun c => 16 ≤ c && !dQueueOk i c) with
      | some c => some c
      | none =>
        let qs := (srcs.map (·.code) ++ dst).filter (fun c => 16 ≤ c)
        qs.find? (fun c => 1 < (qs.filter (· = c)).length)

/-- Whether an instruction reads or writes a queue. -/
def usesQueue (i : Instr) : Bool :=
  (vSources i).any (fun u => 16 ≤ u.code) || (match i.long? with
    | some (f, k) => k.d = .v && 16 ≤ f.d.toNat
    | none => false)

/-- The entries at the head of a queue that a reader sees in a cycle. -/
def readyEntries (v : VecCtx) (now q : Nat) : Nat := ((v.getQ q).takeWhile (fun e => e.complete && e.visible ≤ now)).length

/-- The register codes of a source that are empty now. -/
def VUse.empties (u : VUse) (s : State) : List Nat :=
  if 16 ≤ u.code then (if readyEntries (s.hart s.cur).vec s.now (u.code - 16) < u.count then [u.code] else [])
  else ((List.range u.count).map (u.code + ·)).filter (vEmpty s s.cur)

/-- The empty-operand trap value (08 R184). -/
def emptyTval (code field : Nat) : Word := BitVec.ofNat 64 (code + field * 2 ^ 5)

/-- One X source field: an empty register traps through its t bit, or waits. -/
def readXT (r : Reg) (t : Bool) (field : Nat) : M Word := fun s =>
  if t && !(s.hart s.cur).xReady s.now r.toNat then .error (.trap 24 (emptyTval r.toNat field)) else readX r.toNat s

/-- The X sources of a long instruction in its fields a, b and c; 0 for a field of another class. -/
structure XArgs where
  a : Word
  b : Word
  c : Word

/-- One field of the X sources. -/
def xArg (k : FieldClass) (r : Reg) (t : Bool) (field : Nat) : M Word :=
  match k with
  | .x => readXT r t field
  | _ => pure 0

/-- The empty-operand traps of the t bits come before any wait (13 R332). -/
def tTraps (i : Instr) : M Unit := fun s =>
  match i.long? with
  | none => .ok ((), s)
  | some (f, k) =>
    let x (c : FieldClass) (r : Reg) (t : Bool) (field : Nat) : Option (Nat × Nat) := match c with
      | .x => if t && !(s.hart s.cur).xReady s.now r.toNat then some (r.toNat, field) else none
      | _ => none
    let vs := (vSources i).filterMap (fun u => if u.tbit then ((u.empties s)[0]?).map (fun c => (c, u.field)) else none)
    let cClass := if k.progress && f.nt then .x else k.c
    let all := [x k.a f.a f.ta 1, x k.b f.b f.tb 2, x cClass f.c f.tc 3].filterMap (fun e => e) ++ vs
    match all.foldl (fun best e => match best with
        | none => some e
        | some b => if e.2 < b.2 then some e else some b) (none : Option (Nat × Nat)) with
    | some (code, field) => .error (.trap 24 (emptyTval code field))
    | none => .ok ((), s)

/-- Wait for every empty V source; VINS reads its d, too (15 R378). -/
def vWaits (i : Instr) : M Unit := fun s =>
  let d : List Nat := match i with
    | .vins f => if vEmpty s s.cur f.d.toNat then [f.d.toNat] else []
    | _ => []
  match (vSources i).findSome? (fun u => (u.empties s)[0]?) with
  | some c => .error (.wait (if 16 ≤ c then .queueEntry (c - 16) else .vreg c))
  | none => match d with
    | r :: _ => .error (.wait (.vreg r))
    | [] => .ok ((), s)

/-- The issue checks of a long instruction after its legality (13 R332): queue misuse, empty operands with a t bit, and then the
waits; the X sources are read. -/
def operandsM (i : Instr) : M XArgs := do
  match queueMisuse i with
  | some c => trapM 28 (BitVec.ofNat 64 c)
  | none => do
    tTraps i
    match i.long? with
    | none => pure { a := 0, b := 0, c := 0 }
    | some (f, k) => do
      let a ← xArg k.a f.a f.ta 1
      let b ← xArg k.b f.b f.tb 2
      let c ← xArg (if k.progress && f.nt then .x else k.c) f.c f.tc 3
      (match k.d with
        | .x => destX f.d.toNat
        | _ => pure ())
      vWaits i
      pure { a := a, b := b, c := c }

/-- The masks that an instruction reads, by their mask-space codes: p0 and p[pg] where it acts on ACTIVE elements, those of its P fields, and
what the mask instructions name; a resumed one reads vflt (11 R273). -/
def maskSources (g : Hart) (i : Instr) : List Nat :=
  match i.long? with
  | none => []
  | some (f, k) =>
    let p (c : FieldClass) (r : Reg) : List Nat := match c with
      | .p => [r.toNat]
      | _ => []
    (if g.resuming then [50] else if k.m then [0, f.pg.toNat] else [])
      ++ p k.a f.a ++ p k.b f.b ++ p k.c f.c
      ++ (match i with
        | .vmpush _ => [0]
        | .vmelse _ => if g.vec.vmsp = 0 then [0] else [0, 15 + g.vec.vmsp]
        | .vmmovToPredicate f => [f.imm.toNat]
        | _ => [])

/-- Whether an instruction reads a word of its context that is under integrity hold: of a mask, or of an entry of a queue (08 R206). -/
def contextHeld (g : Hart) (i : Instr) : Bool :=
  g.vec.failing ≠ [] && ((maskSources g i).any g.vec.maskHeld || (vSources i).any (fun u => g.vec.failing.any (fun f => match f with
    | .queue q e _ => u.code = 16 + q && e < u.count
    | _ => false)))

/-- Whether vlr fits the rows of an element width of w bytes (13 R323). -/
def rowsFit (vlr w : Nat) : Bool := vlr ≤ 32 / w

end Sys2Proof.Machine
end

