-- ==== Sys2Proof/Machine/Flags.lean ====
section
/-! DEFINITION. The flags of vector instructions: vfflags, the class masks, vsat, and the arithmetic trap (08 R189; 11 R274,
R275; 12 R299). -/

namespace Sys2Proof.Machine

/-- The slots of a list of (slot, flags) that raised class k, as a mask. -/
def classMask (raised : List (Nat × Nat)) (k : Nat) : Nat :=
  raised.foldl (fun m e => if bitOf e.2 k then m ||| 2 ^ e.1 else m) 0

/-- The five class masks of a list of raised flags. -/
def classMasks (raised : List (Nat × Nat)) : Tbl Mask :=
  ((List.range 5).map (fun k => (k, BitVec.ofNat 1024 (classMask raised k)))).filter (fun e => e.2 ≠ 0)

/-- The vfflags bits of a list of raised flags. -/
def flagBits (raised : List (Nat × Nat)) : BitVec 5 := BitVec.ofNat 5 (raised.foldl (fun m e => m ||| e.2) 0)

/-- The union of two tables of class masks. -/
def orMasks (t u : Tbl Mask) : Tbl Mask := u.foldl (fun t e => tblSet t e.1 (tblGet 0 t e.1 ||| e.2)) t

/-- A context with raised classes ORed into vfflags and into the class masks (11 R274). -/
def VecCtx.raise (v : VecCtx) (masks : Tbl Mask) (bits : BitVec 5) : VecCtx :=
  { v with flagMask := orMasks v.flagMask masks, vfflags := v.vfflags ||| bits }

/-- A context with saturated elements marked in vsat. -/
def VecCtx.saturate (v : VecCtx) (m : Mask) : VecCtx := { v with vsat := v.vsat ||| m }

/-- The lowest set bit of a mask. -/
def lowestBit (m : Nat) : Nat := ((List.range 1024).find? (fun i => m.testBit i)).getD 0

/-- The classes enabled by vxcls.TEN. -/
def VecCtx.enabled (v : VecCtx) : Nat := wfld v.vxcls 12 8

/-- The arithmetic trap of the flags that the steps of an instruction raised (11 R275; 15 R374): the lowest enabled class that
any step raised, and the lowest element of the first step that raised it. -/
def arithTrap (ten : Nat) (steps : List (List (Nat × Nat))) : Option (Nat × Nat) :=
  (List.range 5).findSome? (fun k =>
    if !bitOf ten k then none
    else (steps.map (fun r => classMask r k)).findSome? (fun m => if m = 0 then none else some (k, lowestBit m)))

/-- The trap value of cause 30. -/
def arithTval (k slot : Nat) : Word := BitVec.ofNat 64 (k + slot * 2 ^ 8)

end Sys2Proof.Machine
end

