-- ==== Sys2Proof/Machine/Vector.lean ====
section
/-! DEFINITION. How a vector instruction issues and executes (15 R371–R375; 08 R194–R204): the checks at issue, the vector
instruction queue, the steps of rep, the lookup in the result-reuse table, flags and traps, and the occupancy of the
lanes. -/

namespace Sys2Proof.Machine

/-- Rows that a lane completes per cycle for a format (07 R169). -/
def rowsPerCycle : Nat → Nat
  | 1 => 8 | 4 => 8 | 5 => 8 | 2 => 4 | 6 => 4 | 3 => 2 | 7 => 1 | _ => 16

/-- ⌈vlr / rows⌉. -/
def rowGroups (vlr ty : Nat) : Nat := (vlr + rowsPerCycle ty - 1) / rowsPerCycle ty

/-- What one step of a lane instruction sees: the lengths, the rounding mode, the ACTIVE slots, the contents of its
sources, of the earlier destination and of the predicate in field c, and its scalar sources. -/
structure LaneIn where
  f : LongFields
  vlr : Nat
  vlc : Nat
  rm : Nat
  act : List Nat
  a : Nat
  b : Nat
  c : Nat
  d : Nat
  pk : Mask
  xa : Word
  xb : Word

/-- What a step produces: the whole register, or a scalar; the flags that slots raised; the slots that saturated. -/
structure LaneOut where
  value : Nat
  scalar : Word := 0
  raised : List (Nat × Nat) := []
  sat : Nat := 0

/-- A lane instruction: the bytes of its widest element, whether its result is a scalar, whether field c is a predicate that it
reads, the lane cycles of one step, and one step's function. -/
structure LaneOp where
  width : LongFields → Nat := fun f => fmtBytes f.ty.toNat
  scalar : Bool := false
  predC : Bool := false
  cycles : LaneIn → Nat
  step : LaneIn → LaneOut

/-- Apply a function to each ACTIVE element of w bytes in and v bytes out; the results go into d (15 R372). -/
def mapElems (x : LaneIn) (win wout : Nat) (fn : Nat → Nat → Nat → FRes) : LaneOut :=
  x.act.foldl (fun o i =>
    let r := fn (elemAt x.a win i) (elemAt x.b win i) (elemAt x.c win i)
    { o with
      value := setElem o.value wout i r.bits
      raised := if r.flags = 0 then o.raised else o.raised ++ [(i, r.flags)]
      sat := if r.sat then o.sat ||| 2 ^ i else o.sat }) { value := x.d }

/-- The lane cycles of one step of an elementwise instruction of its own ty. -/
def laneCycles (x : LaneIn) : Nat := rowGroups x.vlr x.f.ty.toNat

/-- An elementwise instruction on elements of its own ty. -/
def elementwise (cycles : LaneIn → Nat) (fn : LaneIn → Nat → Nat → Nat → FRes) : LaneOp :=
  { cycles := cycles, step := fun x => mapElems x (fmtBytes x.f.ty.toNat) (fmtBytes x.f.ty.toNat) (fn x) }

/- The vector queue entry. -/

/-- The rounding mode that an instruction captures at issue (15 R371). -/
def capturedRm (f : LongFields) (v : VecCtx) : BitVec 3 := if f.rm = 7 then v.vrm else f.rm

/-- An entry with everything that an instruction captures at issue. -/
def captureEntry (h : Nat) (i : Instr) (f : LongFields) (x : XArgs) (g : Hart) : VecEntry :=
  { hart := h, instr := i, pc := g.pc, vlc := g.vec.vlc, vlr := g.vec.vlr, vty := g.vec.vty, vmt := g.vec.vmt
    rm := capturedRm f g.vec, sa := x.a, sb := x.b, sc := x.c }

/- Operands of a step. -/

/-- The contents of a source field in a step: a register, or the entry of a queue that it pops. -/
def sourceValue (v : VecCtx) (code reg index : Nat) : Nat :=
  if 16 ≤ code then ((nth { data := 0, complete := true } (v.getQ (code - 16)) index).data).toNat else (v.getV reg).toNat

/-- The register or queue index that field c names in step j. -/
def stepC (f : LongFields) (j : Nat) : Nat := if f.c = f.d then j else 0

/-- Whether a field class is V. -/
def isV : FieldClass → Bool
  | .v => true
  | _ => false

/-- What step j of a lane instruction sees: v as the steps before it leave it, and v0 as the instruction found it, from which field a
is latched. -/
def laneIn (k : LongSpec) (op : LaneOp) (e : VecEntry) (f : LongFields) (j : Nat) (v0 v : VecCtx) : LaneIn :=
  let src (c : FieldClass) (r : Reg) (s : Nat) (v : VecCtx) : Nat := if isV c then sourceValue v r.toNat (r.toNat + s) s else 0
  { f := f, vlr := e.vlr, vlc := e.vlc, rm := e.rm.toNat
    act := v.actives f.pg.toNat e.vlr e.vlc
    a := src k.a f.a 0 v0, b := src k.b f.b j v, c := src k.c f.c (stepC f j) v
    d := if isV k.d ∧ f.d.toNat < 16 then (v.getV (f.d.toNat + j)).toNat else 0
    pk := if op.predC then v.getP f.c.toNat else 0
    xa := e.sa, xb := e.sb }

/-- Pop the queues that an instruction's source fields name (08 R192, R194). -/
def popSources (i : Instr) (v : VecCtx) : VecCtx :=
  (vSources i).foldl (fun v u => if 16 ≤ u.code then v.popQ (u.code - 16) u.count else v) v

/- Chaining (08 R195). -/

/-- The cycles in which the first and the last element group of a vector register are written, while they are still being written. -/
def regTimes (s : State) (h r : Nat) : Option (Nat × Nat) :=
  match tblGet .full (s.hart h).vec.vfe r with
  | .due n => if s.now ≤ n then some (tblGet n (s.hart h).vec.vfirst r, n) else none
  | _ => none

/-- The vector registers that an instruction reads. -/
def sourceRegs (i : Instr) : List Nat :=
  (vSources i).flatMap (fun u => if 16 ≤ u.code then [] else (List.range u.count).map (u.code + ·))
    ++ (match i with
      | .vins f => [f.d.toNat]
      | _ => [])

/-- The cycle from which an instruction of a context may start on the lanes: once they are free, or as soon as the first groups of what it
reads are written, where that is what the lanes are writing. -/
def startAt (s : State) (h : Nat) (i : Instr) : Nat :=
  let c := s.core (unitOf h)
  let rs := sourceRegs i
  (rs.filterMap (regTimes s h)).foldl (fun t r => max t (r.1 + 1))
    (max s.now (if rs.any (fun r => c.chain.contains (h, r)) then min c.chainFrom c.lanesUntil else c.lanesUntil))

/-- Wait until no earlier instruction of the context is in the queue and the vector registers that an instruction reads are written. -/
def waitWritten (i : Instr) : M Unit := do
  waitVecOwn
  fun s => match (sourceRegs i).find? (fun r => (regTimes s s.cur r).isSome) with
    | some r => .error (.wait (.vreg r))
    | none => .ok ((), s)

/-- The cycle from which a memory instruction of a context may start: the lanes are free, and what it reads is written. -/
def memStartAt (s : State) (h : Nat) (i : Instr) : Nat :=
  ((sourceRegs i).filterMap (regTimes s h)).foldl (fun t r => max t (r.2 + 1)) (max s.now (s.core (unitOf h)).lanesUntil)

/- Result reuse (08 R200–R204). -/

/-- Whether op10 belongs to the groups that the table serves (08 R201; 15 R375). -/
def reuseGroup (op : Nat) : Bool :=
  (1 ≤ op && op ≤ 0x00A) || (0x040 ≤ op && op ≤ 0x057) || (0x080 ≤ op && op ≤ 0x092) || op = 0x0C0
    || (0x100 ≤ op && op ≤ 0x105)

/-- The classes that an instruction can raise, as vfflags bits (08 R201). -/
def classSet (op ty imm : Nat) : Nat :=
  if op ≤ 0x00A ∨ (0x040 ≤ op ∧ op ≤ 0x057) ∨ op = 0x140 then 0
  else if 0x08F ≤ op ∧ op ≤ 0x092 then 0
  else if op = 0x088 ∨ op = 0x089 then flagNV
  else if op = 0x101 ∨ op = 0x102 then (if ty < 4 then 0 else flagNV)
  else if 0x103 ≤ op ∧ op ≤ 0x105 then 0
  else if op = 0x100 then (if ty < 4 then 0 else 31)
  else if op = 0x0C0 then
    let src := if imm < 32 then ty else imm % 16
    let dst := if imm < 32 then imm % 16 else ty
    if src < 4 ∧ dst < 4 then 0 else if src < 4 ∧ dst ≠ 8 then flagNX + flagOF else 31
  else 31

/-- Whether a step of an instruction is looked up. -/
def reuseEligible (i : Instr) (k : LongSpec) (f : LongFields) (v : VecCtx) : Bool :=
  !v.vreuse.getLsbD 0 && reuseGroup k.op && !usesQueue i && (v.enabled &&& classSet k.op f.ty.toNat f.imm.toNat) = 0

/-- Whether a core executes for its program buffer, whose instructions neither use nor enter the table (11 R291). -/
def programRuns (s : State) (u : Nat) : Bool := (s.core u).dbg.halted && (s.core u).dbg.stepping.isNone

/-- The format that an instruction writes: the target of VCVT, and ty otherwise. -/
def outFormat (op ty imm : Nat) : Nat := if op = 0x0C0 ∧ imm < 32 then imm % 16 else ty

/-- The key of a step (08 R200). -/
def reuseKey (k : LongSpec) (op : LaneOp) (e : VecEntry) (f : LongFields) (j : Nat) (v0 v : VecCtx) (x : LaneIn) : ReuseKey :=
  let names := (if isV k.a then [v0.getName f.a.toNat] else []) ++ (if isV k.b then [v.getName (f.b.toNat + j)] else [])
    ++ (if isV k.c then [v.getName (f.c.toNat + stepC f j)] else [])
  let whole := x.act.length = 32 * (32 / fmtBytes (outFormat k.op f.ty.toNat f.imm.toNat)) ∧ (k.op < 0x100 ∧ k.op ≠ 0x004)
  { op := k.op, ty := f.ty, imm := f.imm, rm := e.rm, sat := f.sat, pg := f.pg, nt := f.nt, ax := f.ax
    fields := (f.d.toNat + j, f.a.toNat, f.b.toNat + j, f.c.toNat + stepC f j)
    vlc := e.vlc, vlr := e.vlr, vmt := 0
    masks := [v.getP 0, v.getP f.pg.toNat] ++ (if op.predC then [x.pk] else [])
    names := names
    scalars := [e.sa, e.sb]
    dOld := if op.scalar ∨ whole then none else some (v.getName (f.d.toNat + j)) }

/-- Enter a key and a result, replacing the least recently used of 64 entries. -/
def reuseEnter (u : Nat) (e : ReuseEntry) (s : State) : State :=
  s.modCore u (fun c => { c with reuse := (e :: c.reuse.filter (fun x => x.key ≠ e.key)).take 64 })

/-- A hit makes its entry the most recently used. -/
def reuseTouch (u : Nat) (e : ReuseEntry) (s : State) : State :=
  s.modCore u (fun c => { c with reuse := e :: c.reuse.filter (fun x => x.key ≠ e.key) })

/-- What the steps of an instruction have done so far. -/
structure LaneAcc where
  s : State
  raised : List (List (Nat × Nat)) := []
  sat : Nat := 0
  cycles : Nat := 0
  stalled : Bool := false
  scalar : Word := 0
  masks : Tbl Mask := []
  bits : BitVec 5 := 0
  vsat : Mask := 0

/-- Count a lookup and its outcome in vrlook and vrhit. -/
def countLookup (h : Nat) (hit : Bool) (s : State) : State :=
  s.modHart h (fun g => g.modVec (fun v => { v with vrlook := v.vrlook + 1, vrhit := if hit then v.vrhit + 1 else v.vrhit }))

/-- The vector registers that step j reads (08 R194). -/
def stepRegs (k : LongSpec) (f : LongFields) (j : Nat) : List Nat :=
  let on (c : FieldClass) (code r : Nat) : List Nat := if isV c ∧ code < 16 then [r] else []
  on k.a f.a.toNat f.a.toNat ++ on k.b f.b.toNat (f.b.toNat + j) ++ on k.c f.c.toNat (f.c.toNat + stepC f j)
    ++ (if k.op = 0x004 then on k.d f.d.toNat f.d.toNat else [])

/-- Step j of a lane instruction: retired by reuse, or executed. -/
def laneStep (i : Instr) (k : LongSpec) (f : LongFields) (op : LaneOp) (e : VecEntry) (v0 : VecCtx) (j : Nat) (acc : LaneAcc) : LaneAcc :=
  let s := acc.s
  let h := e.hart
  let u := unitOf h
  let v := (s.hart h).vec
  let x := laneIn k op e f j v0 v
  let d := f.d.toNat + j
  let may := reuseEligible i k f v && !programRuns s u
  let key := reuseKey k op e f j v0 v x
  let hit := if may then (s.core u).reuse.find? (fun r => r.key = key && r.flags.toNat &&& v.enabled = 0) else none
  let s := if may then countLookup h hit.isSome s else s
  match hit with
  | some r =>
    let s := reuseTouch u r s
    let s := if op.scalar then s else s.modHart h (fun g => g.modVec (fun v => { v with
      v := tblSet v.v d r.result, vname := tblSet v.vname d r.name, vfe := tblDel v.vfe d, vfirst := tblDel v.vfirst d }))
    { acc with s := s, cycles := acc.cycles + 1, scalar := r.scalar.getD 0, raised := acc.raised ++ [[]]
               masks := orMasks acc.masks r.flagMask, bits := acc.bits ||| r.flags, vsat := acc.vsat ||| r.vsat }
  | none =>
    let o := op.step x
    let n := op.cycles x
    -- a chained step ends one cycle after the last group of what it reads
    let times := (stepRegs k f j).filterMap (regTimes s h)
    let start := times.foldl (fun t r => max t (r.1 + 1)) (s.now + acc.cycles)
    let stop := times.foldl (fun t r => max t (r.2 + 2)) (start + n)
    let w : Written := { whole := key.dOld = none && !op.scalar, first := start + max 1 (n / max 1 (rowGroups x.vlr f.ty.toNat)) - 1, last := stop - 1 }
    let s := if op.scalar then s else setVReg h d (BitVec.ofNat 8192 o.value) w s
    let s := if may then reuseEnter u
        { key := key, result := BitVec.ofNat 8192 o.value, name := (s.hart h).vec.getName d
          scalar := if op.scalar then some o.scalar else none
          flagMask := classMasks o.raised, vsat := BitVec.ofNat 1024 o.sat, flags := flagBits o.raised, covers := [] } s
      else s
    { acc with s := s, cycles := stop - s.now, stalled := acc.stalled || decide (start + n < stop), scalar := o.scalar
               raised := acc.raised ++ [o.raised]
               masks := orMasks acc.masks (classMasks o.raised), bits := acc.bits ||| flagBits o.raised
               vsat := acc.vsat ||| BitVec.ofNat 1024 o.sat }

/-- The lanes of a unit are busy for more cycles. -/
def occupyLanes (u cycles : Nat) (s : State) : State :=
  s.modCore u (fun c => { c with lanesUntil := max c.lanesUntil s.now + cycles })

/-- The lanes work on an instruction of a context for some cycles from now; entries that read what it writes may chain behind it. -/
def holdLanes (h cycles chainFrom : Nat) (regs : List Nat) (s : State) : State :=
  s.modCore (unitOf h) (fun c => { c with
    lanesUntil := max c.lanesUntil (s.now + cycles), chainFrom := chainFrom, chain := regs.map (fun r => (h, r)) })

/-- The physical registers that an instruction reads. -/
def sourceNames (s : State) (h : Nat) (i : Instr) : List Nat :=
  (vSources i).flatMap (fun u =>
    if 16 ≤ u.code then [] else (List.range u.count).map (fun j => (s.hart h).vec.getName (u.code + j)))

/-- The lanes of a physical register whose parity fails: the check lane stands in for a retired lane, whose own slice counts no more
(08 R208); lane 32 is the check lane before that. -/
def parityLanes (c : Core) (n : Nat) : List Nat :=
  ((c.parity.filter (fun e => e.1 = n && some e.2 ≠ c.spared)).map (fun e => if e.2 = 32 then c.spared.getD 32 else e.2)).eraseDups

/-- The vector unit's stall for one rebuild, the rebuilds at which a lane retires, and the stall of a retirement (08 R207, R208). -/
def rebuildStall : Nat := 12
def retireAt : Nat := 8
def retireStall : Nat := 3840

/-- A slice is rebuilt from the other slices and the check lane; at its eighth rebuild a lane is retired, and the check lane stands in
for it once every register's slice has been rebuilt there (08 R207, R208). -/
def rebuildSlice (u l : Nat) (s : State) : State :=
  let n := tblGet 0 (s.core u).rebuilds l + 1
  let s := (s.modCore u (fun c => { c with rebuilds := tblSet c.rebuilds l n })).modDie (dieOfUnit u) (fun d => { d with
    corrected := d.corrected + 1 })
  let s := occupyLanes u rebuildStall s
  if n = retireAt ∧ l < 32 then
    let s := occupyLanes u retireStall s
    let s := s.modCore u (fun c => { c with spared := some l, stallUntil := c.lanesUntil, parity := c.parity.filter (fun e => e.2 ≠ 32) })
    { s.modDie (dieOfUnit u) (fun d => { d with log := d.log ++ [(u, 8 * l + 6)] }) with monitor := s.monitor ++ [.retired u l] }
  else s

/-- What a read of an instruction's registers does where it finds a parity error: one slice is rebuilt; two slices of one register, or one
once the core has no spare, put the register under integrity hold (08 R207, R208). -/
def parityStep (h : Nat) (i : Instr) (s : State) : Option State :=
  let u := unitOf h
  let c := s.core u
  match (sourceNames s h i).find? (fun n => c.parity ≠ [] && parityLanes c n ≠ []) with
  | none => none
  | some n =>
    let s := s.modCore u (fun c => { c with parity := c.parity.filter (fun e => e.1 ≠ n) })
    some (match c.spared, parityLanes c n with
      | none, [l] => rebuildSlice u l s
      | _, ls => s.modCore u (fun c => { c with failingLanes := c.failingLanes ++ (ls.filter (· < 32)).map (fun l => (n, l)) }))

/-- A register, a mask or a queue entry under integrity hold that an instruction reads stops it with cause 29: the elements of the failing lanes
are marked in vflt (08 R206, R208). -/
def heldSource (s : State) (h : Nat) (i : Instr) : Option Mask :=
  let c := s.core (unitOf h)
  let ctx : Option Mask := if contextHeld (s.hart h) i then some 0 else none
  if c.failingLanes = [] then ctx
  else
    let names := sourceNames s h i
    let lanes := (c.failingLanes.filter (fun e => names.contains e.1)).map (·.2)
    if lanes = [] then ctx
    else
      let rows := match i.long? with
        | some (f, _) => 32 / fmtBytes f.ty.toNat
        | none => 32
      some (BitVec.ofNat 1024 (lanes.foldl (fun m l => (List.range rows).foldl (fun m r => m ||| 2 ^ (r * 32 + l % 32)) m) 0))

/-- Write an x register that a vector instruction produces after its lane cycles. -/
def setXLate (h r : Nat) (v : Word) (full : Nat) (s : State) : State :=
  s.modHart h (fun g => (g.setX r v).setXFe r (.due full))

/-- Execute a lane instruction: its steps in order, then its flags, unless an enabled class was raised, in which case only the flags
stand and cause 30 is raised (15 R374). -/
def runLane (i : Instr) (f : LongFields) (op : LaneOp) (e : VecEntry) : M Unit := fun s =>
  match i.long? with
  | none => .ok ((), s)
  | some (_, k) =>
    let h := e.hart
    match heldSource s h i with
    | some m => .error (.trapWith 29 0 (s.modHart h (fun g => g.modVec (fun v => { v with vflt := v.vflt ||| m }))))
    | none =>
      let acc := (List.range (f.rep.toNat + 1)).foldl (fun a j => laneStep i k f op e (s.hart h).vec j a) { s := s }
      let ten := (s.hart h).vec.enabled
      match arithTrap ten acc.raised with
      | some (c, slot) =>
        .error (.trapWith 30 (arithTval c slot) (s.modHart h (fun g => g.modVec (fun v => v.raise acc.masks acc.bits))))
      | none =>
        let t := acc.s.modHart h (fun g => g.modVec (fun v => (popSources i ((v.raise acc.masks acc.bits).saturate acc.vsat))))
        let t := if op.scalar then setXLate h f.d.toNat acc.scalar (t.now + acc.cycles - 1) t else t
        .ok ((), holdLanes h acc.cycles (t.now + (if acc.stalled then acc.cycles else 1)) (vWritten i) t)

/- Issue. -/

/-- What may make an instruction trap when it executes, so that its context waits for that: an enabled class, a held or failing register, mask or
queue entry, the mask stack's bounds. -/
def mayTrap (s : State) (h : Nat) (i : Instr) : Bool :=
  (s.hart h).vec.enabled ≠ 0 || (s.hart h).vec.failing ≠ [] || (s.core (unitOf h)).failingLanes ≠ [] || (s.core (unitOf h)).parity ≠ [] || (match i with
    | .vmpush _ | .vmelse _ | .vmpop _ => true
    | _ => false)

/-- The entries of the vector instruction queue (07 R169). -/
def vqDepth : Nat := 8

/-- Whether an instruction of the queue accesses memory, for which it needs no lanes: the memory group, VSAVE and VRSTR, and the instructions of the
texture unit and the Gallery. -/
def vecMemory : Instr → Bool
  | .vsave _ | .vrstr _ | .vld _ | .vldff _ | .vgather _ | .vst _ | .vscatter _ | .vrred _ | .vamoadd _ | .vldacc _ => true
  | .vtex _ | .vtexlod _ | .rq _ | .rqany _ => true
  | _ => false

/-- The cycle from which an entry of the queue may start. -/
def entryStart (s : State) (e : VecEntry) : Nat := if vecMemory e.instr then memStartAt s e.hart e.instr else startAt s e.hart e.instr

/-- The head of the queue of a unit goes on when it may start. -/
def nextQueued (u : Nat) (s : State) : State :=
  match (s.core u).vq with
  | [] => s
  | e :: _ => s.schedule (max (s.now + 1) (entryStart s e)) (.vectorExecute u)

/-- Put an entry into the vector instruction queue: its scalar destination is in flight. -/
def enqueueVec (e : VecEntry) (dx : Option Nat) (s : State) : State :=
  let u := unitOf e.hart
  let first := (s.core u).vq = []
  let s := s.modCore u (fun c => { c with vq := c.vq ++ [e] })
  let s := match dx with
    | some r => s.modHart e.hart (fun g => g.setXFe r .inFlight)
    | none => s
  if first then nextQueued u s else s

/-- The context waits for its entry of the queue to execute; the instruction retires then. -/
def heldM (e : VecEntry) : M Unit := fun s =>
  if vqDepth ≤ (s.core (unitOf s.cur)).vq.length then .error (.wait .vecRoom)
  else .error (.waitWith .vecHeld (enqueueVec { e with held := true } none s))

/-- An instruction that finds a parity error waits in the queue for the rebuild. -/
def parityM (e : VecEntry) : M Unit := fun s =>
  match parityStep s.cur e.instr s with
  | none => .ok ((), s)
  | some t => heldM e t

/-- Whether a long instruction may issue on the executing hart: a vector core, a well-formed word, and rows that fit (07 R162;
13 R321–R323). -/
def vecLegal (s : State) (i : Instr) (w : Nat) : Bool :=
  isVector s.cur && i.wellFormed && rowsFit (s.hart s.cur).vec.vlr w

/-- Issue a lane instruction whose widest element has w bytes: the checks, then execution at once when the queue is empty and the
lanes let it start, and otherwise a place in the queue. -/
def vecIssue (i : Instr) (w : Nat) (run : VecEntry → M Unit) : M Unit := do
  requireM (← askS (fun s => vecLegal s i w)) i
  match i.long? with
  | none => illegalM i
  | some (f, k) => do
    let x ← operandsM i
    let e ← askS (fun s => captureEntry s.cur i f x (s.hart s.cur))
    let idle ← askS (fun s => (s.core (unitOf s.cur)).vq = [] && decide (startAt s s.cur i ≤ s.now))
    let alone ← askS (fun s => mayTrap s s.cur i || usesQueue i)
    let full ← askS (fun s => decide (vqDepth ≤ (s.core (unitOf s.cur)).vq.length))
    (if idle then do parityM e; run e
    else if full then waitM .vecRoom
    else if alone then heldM e
    else modS (enqueueVec e (match k.d with
      | .x => if f.d = 0 then none else some f.d.toNat
      | _ => none)))
    retireM 8

/-- Issue and execute a lane instruction. -/
def laneExec (i : Instr) (f : LongFields) (op : LaneOp) (s : State) : Host.Outcome State Fault Refusal :=
  runM (vecIssue i (op.width f) (runLane i f op)) s

end Sys2Proof.Machine
end

