-- ==== Sys2Proof/Machine/Threads.lean ====
section
/-! DEFINITION. Threads, gangs, messages, the ready queue and full/empty control: the short format's instructions but for the
Hoist's (14 R351–R370; 07 R163, R175–R179). -/

namespace Sys2Proof.Machine

/- Who may execute them (14 R351). -/

/-- Contexts of a vector core. -/
def anyVector : M Bool := askS (fun s => isVector s.cur)

/-- Context 0 of a vector core. -/
def coreSupervisor : M Bool := askS (fun s => isVector s.cur && ctxOf s.cur = 0)

/-- Contexts 1 to 15 of a vector core. -/
def programContext : M Bool := askS (fun s => isVector s.cur && ctxOf s.cur ≠ 0)

/- Gangs (07 R175–R178). -/

/-- A gang of a partition. -/
def gangFind (s : State) (p g : Nat) : Option Gang := (s.part p).gangs.find? (fun e => e.id = g)

/-- Replace a gang of a partition. -/
def gangPut (p : Nat) (g : Gang) (s : State) : State :=
  s.modPart p (fun q => { q with gangs := q.gangs.map (fun e => if e.id = g.id then g else e) })

/-- The least number from n that a list lacks, searched for at most as many steps as the list is long. -/
def leastFree (l : List Nat) (n : Nat) : Nat :=
  ((List.range (l.length + 1)).find? (fun k => !l.contains (n + k))).getD 0 + n

/-- A gang with a member added: a party to the current generation unless that is under way. The threads of a co-resident population are all
started from its admission on, so that they are parties whenever they start (07 R178). -/
def Gang.join (g : Gang) (who rank : Nat) (starts : Bool) : Gang :=
  { g with
    members := g.members ++ [{ who := who, rank := rank, arrived := false
                               party := if g.underWay && !(g.coresident && starts) then g.generation + 1 else g.generation }]
    begun := g.begun + natOf starts }

/-- Whether a member has arrived at the current generation. -/
def Gang.here (g : Gang) (m : Member) : Bool := m.arrived && m.gen = g.generation

/-- The lowest free rank of a gang. -/
def Gang.freeRank (g : Gang) : Nat := leastFree (g.members.map (·.rank)) g.reserved

/-- The scope of a barrier: the narrowest that contains the core of every member (07 R177). -/
def Gang.scope (g : Gang) : Nat :=
  let us := g.members.map (fun m => unitOf m.who)
  let same (f : Nat → Nat) : Bool := us.all (fun a => us.all (fun b => f a = f b))
  if same (fun u => u) then 0 else if same (fun u => u / 8) then 1 else if same dieOfUnit then 2 else 3

/-- Whether a generation is under way and every current member that is a party to it has arrived. A saved member (numbered from
2^20) delays it, and so does a thread of a co-resident population that has not started (07 R178). -/
def Gang.allArrived (g : Gang) : Bool :=
  g.underWay && (!g.coresident || g.reserved ≤ g.begun)
    && g.members.all (fun m => g.generation < m.party || (g.here m && m.who < 2 ^ 20))

/-- Whether the earlier accesses of a party are performed in the classes of a scope. -/
def partyDone (s : State) (h : Nat) (mask : BitVec 4) : Bool :=
  countsZero s h mask && (s.hart h).loads = [] && !(s.core (unitOf h)).vq.any (fun e => e.hart = h)

/-- What the completion of a generation waits for (07 R177): first the classes of the scope; then a party with a count outside
the scope waits for all of its counts, which is marked as a widening. -/
inductive GangMove where
  | none | widen | complete
deriving DecidableEq, Repr

/-- The parties to the current generation. -/
def Gang.parties (g : Gang) : List Member := g.members.filter (fun m => m.party ≤ g.generation)

/-- What a gang can do now. -/
def gangMove (s : State) (g : Gang) : GangMove :=
  if !g.allArrived ∨ !g.parties.all (fun m => partyDone s m.who (scopeClasses g.scope)) then .none
  else if g.parties.all (fun m => countsZero s m.who 15) then .complete
  else if g.parties.any (fun m => !countsZero s m.who 15 && !m.widened) then .widen
  else .none

/-- Make that move: mark the widenings, or complete the generation, which counts them in vsmiss and is an acquire for every
waiting party. -/
def gangDo (p gid : Nat) (s : State) : State :=
  match gangFind s p gid with
  | none => s
  | some g =>
    match gangMove s g with
    | .none => s
    | .widen =>
      let late (m : Member) : Bool := m.party ≤ g.generation && !countsZero s m.who 15
      let s := (g.parties.filter late).foldl (fun t m => sendOwn m.who t) s
      gangPut p { g with members := g.members.map (fun m => if late m then { m with widened := true } else m) } s
    | .complete =>
      let s := (g.parties.filter (·.widened)).foldl (fun t m => t.modHart m.who (fun x =>
        { x with vec := { x.vec with vsmiss := x.vec.vsmiss + 1 } })) s
      let s := if g.scope = 0 then s else g.parties.foldl (fun t m => dropAllLoads (unitOf m.who) t) s
      gangPut p { g with
        generation := g.generation + 1, members := g.members.map (fun m => { m with widened := false })
        underWay := g.members.any (fun m => m.arrived && m.gen = g.generation + 1) } s

/-- A thread leaves its gang: its arrival goes with its membership, and a dynamic gang without members dissolves
(07 R176). -/
def gangLeave (h : Nat) (s : State) : State :=
  let t := (s.hart h).thread
  match gangFind s t.partition t.gang with
  | none => s
  | some g =>
    let g := { g with members := g.members.filter (fun m => m.who ≠ h) }
    let s := s.modHart h (fun x => { x with thread := { x.thread with gang := 0 } })
    if g.members = [] ∧ g.reserved = 0 then
      s.modPart t.partition (fun q => { q with gangs := q.gangs.filter (fun e => e.id ≠ g.id) })
    else gangDo t.partition g.id (gangPut t.partition g s)

/-- The membership of the executing thread. -/
def myGang (s : State) : Option (Gang × Member) :=
  let t := (s.hart s.cur).thread
  if t.gang = 0 then none
  else match gangFind s t.partition t.gang with
    | none => none
    | some g => (g.members.find? (fun m => m.who = s.cur)).map (fun m => (g, m))

/-- −1. -/
def minusOne : Word := BitVec.allOnes 64

/-- GJOIN (14 R359). -/
def execGjoin (rd rs1 : Reg) (s : State) : Host.Outcome State Fault Refusal :=
  runM (do
    requireM (← programContext) (.gjoin rd rs1)
    let g ← readX rs1.toNat
    destX rd.toNat
    let h ← askS (fun s => s.cur)
    let p ← askS (fun s => (s.hart s.cur).thread.partition)
    let gangs ← askS (fun s => (s.part p).gangs)
    let mine ← askS myGang
    let join (e : Gang) (rank : Nat) : M Unit := do
      modS (gangPut p (e.join h rank false))
      modMe (fun x => { x with thread := { x.thread with gang := e.id } })
      writeX rd.toNat (BitVec.ofNat 64 e.id)
    (if mine.isSome then writeX rd.toNat minusOne
    else if g = 0 then
      if 4096 ≤ gangs.length then writeX rd.toNat (minusOne - 2)
      else do
        let e : Gang := { id := leastFree (gangs.map (·.id)) 1, reserved := 0, coresident := false, members := [], generation := 0 }
        modS (fun s => s.modPart p (fun q => { q with gangs := q.gangs ++ [e] }))
        join e 0
    else match gangs.find? (fun e => e.id = g.toNat) with
      | none => writeX rd.toNat (minusOne - 1)
      | some e => join e e.freeRank)
    retireM 4) s

/-- GLEAVE (14 R360). -/
def execGleave (rd : Reg) (s : State) : Host.Outcome State Fault Refusal :=
  runM (do
    requireM (← programContext) (.gleave rd)
    destX rd.toNat
    let mine ← askS myGang
    (if mine.isNone then writeX rd.toNat minusOne
    else do
      modS (fun s => gangLeave s.cur s)
      writeX rd.toNat 0)
    retireM 4) s

/-- GBAR (14 R360; 07 R176, R177): the arrival stands while it waits. -/
def execGbar (rd : Reg) (s : State) : Host.Outcome State Fault Refusal :=
  runM (do
    requireM (← programContext) (.gbar rd)
    destX rd.toNat
    let h ← askS (fun s => s.cur)
    let p ← askS (fun s => (s.hart s.cur).thread.partition)
    let setMember (g : Gang) (m : Member) : M Unit :=
      modS (gangPut p { g with members := g.members.map (fun x => if x.who = h then m else x) })
    match ← askS myGang with
    | none => writeX rd.toNat minusOne
    | some (g, m) => do
      (if m.arrived then pure ()
      else do
        let gen := max m.party g.generation
        setMember { g with underWay := g.underWay || gen = g.generation } { m with arrived := true, gen := gen }
        modS (sendOwn h))
      modS (gangDo p g.id)
      match ← askS myGang with
      | none => writeX rd.toNat minusOne
      | some (g, m) =>
        if m.gen < g.generation then do
          setMember g { m with arrived := false }
          writeX rd.toNat 0
        else waitKeepM .barrier
    retireM 4) s

/-- GSIZE (14 R360). -/
def execGsize (rd : Reg) (s : State) : Host.Outcome State Fault Refusal :=
  runM (do
    requireM (← programContext) (.gsize rd)
    destX rd.toNat
    let mine ← askS myGang
    writeX rd.toNat (match mine with
      | some (g, _) => BitVec.ofNat 64 g.members.length
      | none => minusOne)
    retireM 4) s

/-- GRANK (14 R360). -/
def execGrank (rd : Reg) (s : State) : Host.Outcome State Fault Refusal :=
  runM (do
    requireM (← programContext) (.grank rd)
    destX rd.toNat
    let mine ← askS myGang
    writeX rd.toNat (match mine with
      | some (_, m) => BitVec.ofNat 64 m.rank
      | none => minusOne)
    retireM 4) s

/- Threads (14 R353–R358). -/

/-- The fields of a launch record that a started thread keeps. -/
def LaunchRec.info (r : LaunchRec) (i : Nat) : ThreadInfo :=
  { popid := r.popid, index := BitVec.ofNat 32 (r.first + i), comp := r.comp, as := r.as, partition := r.partition
    gang := r.gang, batch := r.batch }

/-- The records of a batch that thread t of it holds in q6 (05 R124). -/
def LaunchRec.queue6 (r : LaunchRec) (t : Nat) : List (BitVec 512) := (r.records.drop (t * r.perThread)).take r.perThread

/-- The start-up state of thread i of a launch record (04 R96; 14 R353). -/
def LaunchRec.startHart (r : LaunchRec) (i : Nat) (stvec sscratch : Word) (now : Nat) : Hart :=
  let w (n : Nat) : Word := BitVec.ofNat 64 n
  { Hart.resetContext with
    pc := r.pc, priv := if r.privS then .supervisor else .user, run := .running, readyAt := now + 1
    x := ([(2, r.stktop - w i * r.stkbytes), (10, r.seed0), (11, r.seed1), (12, r.seed2), (13, r.seed3), (14, w (r.first + i)),
      (15, w r.size), (16, w r.gang)] : Tbl Word)
    csr := { Csrs.delegated with mstatus := w (2 ^ 18), stvec := stvec, sscratch := sscratch }
    vec := { q6 := r.queue6 (r.first + i) }
    thread := r.info i }

/-- A context that a co-resident population's thread takes is reserved for it no longer (05 R110). -/
def takeReserved (h : Nat) (r : LaunchRec) (s : State) : State :=
  if r.coresident then
    s.modPart r.partition (fun q => { q with running := q.running.map (fun x =>
      if x.popid = r.popid.toNat then { x with reserve := x.reserve.filter (· ≠ h) } else x) })
  else s

/-- Start thread i of a record on a context, and put it into its population's gang. The start is an acquire: the core's load entries go (03 R77). -/
def startThread (h : Nat) (r : LaunchRec) (stvec sscratch : Word) (s : State) : State :=
  let s := takeReserved h r (dropAllLoads (unitOf h) (s.setHart h (r.startHart r.started stvec sscratch s.now)))
  match (if r.gang = 0 then none else gangFind s r.partition r.gang) with
  | some g => gangPut r.partition (g.join h (r.first + r.started) true) s
  | none => s

/-- A sub-queue whose head knows when it came there. -/
def stampHead (now : Nat) : List LaunchRec → List LaunchRec
  | r :: rest => { r with headAt := some (r.headAt.getD now) } :: rest
  | [] => []

/-- TSPAWN (14 R353). -/
def execTspawn (rd rs1 rs2 : Reg) (s : State) : Host.Outcome State Fault Refusal :=
  runM (do
    requireM (← coreSupervisor) (.tspawn rd rs1 rs2)
    let a ← readX rs1.toNat
    let b ← readX rs2.toNat
    destX rd.toNat
    let u ← askS (fun s => unitOf s.cur)
    let ctx := wfld a 3 0
    let sq := wfld a 9 8
    let state ← askS (fun s => (s.hart (hartOf u ctx)).run)
    let recs ← askS (fun s => tblGet [] (s.core u).launch sq)
    (if ctx = 0 ∨ state ≠ .free then writeX rd.toNat minusOne
    else match recs with
      | [] => writeX rd.toNat (minusOne - 1)
      | r :: rest => do
        -- no local memory is reached through the window (09 R214)
        (if inWindow 0 b.toNat then trapM 5 b else pure ())
        let p ← resolve .load b.toNat 16 true
        let (pair, _) ← loadPlace p b.toNat 16 rd
        modS (startThread (hartOf u ctx) r (BitVec.ofNat 64 pair) (BitVec.ofNat 64 (pair / 2 ^ 64)))
        let now ← askS (fun s => s.now)
        let left := if r.started + 1 = r.nthr then stampHead now rest else { r with started := r.started + 1 } :: rest
        modS (fun s => s.modCore u (fun c => { c with launch := tblSet c.launch sq left }))
        writeX rd.toNat (BitVec.ofNat 64 (r.first + r.started)))
    retireM 4) s

/-- Gallery holds of a context (06 R158): its pair descents end. -/
def releaseHolds (h : Nat) (s : State) : State :=
  (s.descents.filter (fun d => d.hart = h)).foldl (fun t d => endDescent (partOfHart t h) d t) s

/-- Discard q0–q7 of a context and its tokens in wait. -/
def discardQueues (h : Nat) (s : State) : State :=
  (s.modHart h (fun g => { g with q7 := [], vec := { g.vec with q := [], q6 := [] } })).modCore (unitOf h)
    (fun c => { c with tokens := c.tokens.filter (fun t => t.1 ≠ h) })

/-- Abort Hoist requests of a context: they keep the sectors written and never complete (11 R279). -/
def abortHoist (h : Nat) (all : Bool) (s : State) : State :=
  s.modCore (unitOf h) (fun c => { c with hoist := c.hoist.filter (fun r => r.hart ≠ h || !(all || r.stopped.isSome)) })

/-- Whether a context has posted accesses or Hoist requests that are not complete. -/
def contextBusy (s : State) (h : Nat) : Bool :=
  (s.core (unitOf h)).posted.any (fun e => e.hart = h) || (s.core (unitOf h)).hoist.any (fun r => r.hart = h)

/-- TREAP (14 R354). -/
def execTreap (rd rs1 : Reg) (s : State) : Host.Outcome State Fault Refusal :=
  runM (do
    requireM (← coreSupervisor) (.treap rd rs1)
    let a ← readX rs1.toNat
    destX rd.toNat
    let h ← askS (fun s => hartOf (unitOf s.cur) (wfld a 3 0))
    let g ← askS (fun s => s.hart h)
    (if ctxOf h = 0 ∨ g.run ≠ .exited then writeX rd.toNat minusOne
    else do
      modS (abortHoist h false)
      let busy ← askS (fun s => contextBusy s h)
      if busy then waitKeepM (.reap (ctxOf h))
      else do
        modS (fun s => (discardQueues h (releaseHolds h s)).modHart h (fun g => { g with run := .free }))
        writeX rd.toNat g.thread.comp)
    retireM 4) s

/-- Steps 1 to 4 of the end of a thread that does not end itself (14 R355): its issue stops, its unretired vector
instructions and Hoist requests go, it leaves its gang, its locks and holds are released and its queues are discarded. -/
def stopThread (h : Nat) (s : State) : State :=
  let u := unitOf h
  let s := s.modHart h (fun g => { g with tkilling := true, waiting := none, loads := [], reservation := none })
  let s := s.modCore u (fun c => { c with
    vq := c.vq.filter (fun e => e.hart ≠ h)
    slot := match c.slot with
      | some sl => if sl.hart = h then none else some sl
      | none => none })
  let s := discardQueues h (releaseHolds h (releaseLocks h (gangLeave h (abortHoist h true s))))
  sendOwn h s

/-- TKILL (14 R355). -/
def execTkill (rs1 : Reg) (s : State) : Host.Outcome State Fault Refusal :=
  runM (do
    requireM (← coreSupervisor) (.tkill rs1)
    let a ← readX rs1.toNat
    let h ← askS (fun s => hartOf (unitOf s.cur) (wfld a 3 0))
    let g ← askS (fun s => s.hart h)
    (if ctxOf h = 0 ∨ g.run = .free then pure ()
    else do
      (if g.tkilling then pure () else modS (fun s => clearReuse (unitOf s.cur) (stopThread h s)))
      let busy ← askS (fun s => contextBusy s h)
      if busy then waitKeepM (.killed (ctxOf h))
      else modS (fun s => s.modHart h (fun g => { g with run := .free, tkilling := false })))
    retireM 4) s

/-- The number of a context's state in TSTAT. -/
def RunState.code : RunState → Nat
  | .free => 0 | .running => 1 | .exited => 2

/-- TSTAT of a context (14 R356). -/
def tstatContext (s : State) (h : Nat) : Word :=
  let g := s.hart h
  let counts := (List.range 4).foldl (fun n c => n + natOf (postedCount s h c ≠ 0) * 2 ^ (8 + c)) 0
  let copies := min 15 ((s.core (unitOf h)).hoist.filter (fun r => r.hart = h)).length
  BitVec.ofNat 64 (g.run.code + natOf g.kstat.pend * 2 ^ 2 + natOf g.waiting.isSome * 2 ^ 3
    + natOf (g.priv = .supervisor) * 2 ^ 4 + natOf g.kstat.hnd * 2 ^ 5 + counts + copies * 2 ^ 12
    + (if g.run = .free then 0 else g.thread.popid.toNat * 2 ^ 32))

/-- TSTAT of a launch sub-queue. -/
def tstatQueue (s : State) (u sq : Nat) : Word :=
  match tblGet [] (s.core u).launch sq with
  | [] => 0
  | r :: _ =>
    BitVec.ofNat 64 (r.nthr + r.started * 2 ^ 4 + r.prio * 2 ^ 8 + natOf r.coresident * 2 ^ 10 + natOf r.privS * 2 ^ 11
      + 2 ^ 15 + r.popid.toNat * 2 ^ 32)

/-- TSTAT (14 R356). -/
def execTstat (rd rs1 : Reg) (s : State) : Host.Outcome State Fault Refusal :=
  runM (do
    requireM (← anyVector) (.tstat rd rs1)
    let a ← readX rs1.toNat
    destX rd.toNat
    let v ← askS (fun s =>
      let u := unitOf s.cur
      if a.getLsbD 4 then (if ctxOf s.cur = 0 then tstatQueue s u (wfld a 1 0) else minusOne)
      else tstatContext s (hartOf u (wfld a 3 0)))
    writeX rd.toNat v
    retireM 4) s

/-- The tag of a hart of a vector or control core (14 R352). -/
def tagOf (h : Nat) : BitVec 16 :=
  if isVector h then BitVec.ofNat 16 (ctxOf h + (unitOf h % 512) * 2 ^ 4)
  else BitVec.ofNat 16 (ctxOf h + ((h - 0x10000) / 2 % 64) * 2 ^ 4 + 2 ^ 13)

/-- The partition-relative index of a cluster (07 R159). -/
def clusterIndex (s : State) (c : Nat) : Nat :=
  countBits ((s.part (partOfCluster s c)).entry.clusters.toNat % 2 ^ c) 512

/-- TSELF (14 R357). -/
def execTself (rd : Reg) (s : State) : Host.Outcome State Fault Refusal :=
  runM (do
    requireM (← askS (fun s => hasMessages s.cur)) (.tself rd)
    destX rd.toNat
    let v ← askS (fun s =>
      let h := s.cur
      let c := (clusterOfUnit (unitOf h)).getD 0
      let idx := if isVector h ∧ ctxOf h ≠ 0 then (s.hart h).thread.index.toNat else 0
      BitVec.ofNat 64 ((tagOf h).toNat + dieOfUnit (unitOf h) * 2 ^ 16 + clusterIndex s c * 2 ^ 19 + idx * 2 ^ 32))
    writeX rd.toNat v
    retireM 4) s

/-- The entries that q7 holds (08 R191). -/
def q7Depth : Nat := 32

/-- TEXIT (14 R358). -/
def execTexit (s : State) : Host.Outcome State Fault Refusal :=
  runM (do
    requireM (← programContext) .texit
    waitVecOwn
    let h ← askS (fun s => s.cur)
    let g ← me
    (if g.loads ≠ [] then waitM .loads else pure ())
    let ctx0 := h / 16 * 16
    let n ← askS (fun s => (s.hart ctx0).q7.length)
    if q7Depth ≤ n then waitM .notice
    else do
      modS (fun s => releaseLocks h (gangLeave h s))
      let payload := BitVec.ofNat 64 (g.thread.popid.toNat + g.thread.index.toNat * 2 ^ 32)
      let tag := BitVec.ofNat 16 ((tagOf h).toNat + 4 * 2 ^ 13)
      modS (fun s => s.modHart ctx0 (fun z => { z with q7 := z.q7 ++ [(payload, tag)] }))
      modS (sendOwn h)
      modMe (fun g => { g with run := .exited, instret := g.instret + 1, reservation := none })
      modS (fun s => s.modCore (unitOf h) (fun c => { c with slot := none }))) s

/- Messages (14 R361–R363). -/

/-- The hart that a target word names for a sender, if it may be sent to. -/
def msendTarget (s : State) (from_ : Nat) (t : Word) : Option Nat :=
  let die := dieOfUnit (unitOf from_)
  let ctx := wfld t 3 0
  let unit := wfld t 12 4
  if wfld t 63 16 ≠ 0 then none
  else
    let h : Option Nat := match wfld t 15 13 with
      | 0 => some (hartOf (512 * die + unit) ctx)
      | 1 => if unit < 64 ∧ ctx < 2 then some (0x10000 + 2 * (64 * die + unit) + ctx) else none
      | _ => none
    match h with
    | none => none
    | some k =>
      let samePart := (clusterOfUnit (unitOf k)).bind (clusterOwner s) = some (partOfHart s from_)
      if samePart ∧ (ctxOf k ≠ 0 ∨ (s.hart from_).priv = .supervisor) then some k else none

/-- The PEND bit of the peer channel on which a sender's messages arrive (11 R283). -/
def messageChannel (from_ : Nat) : Nat := if isVector from_ then 2 else 3

/-- Whether a sender's message can enter a target now: q7 has room, and a core that has recorded itself for a cut takes only arrivals
from units of the cut on channels whose marker is still to come (11 R283, R284). -/
def messageFits (s : State) (target from_ : Nat) : Bool :=
  let k := (s.core (unitOf target)).kcut
  let cuts := if isVector from_ then (s.core (unitOf from_)).kcut.arm else (s.cluster ((from_ - 0x10000) / 2)).cutArm
  if isVector target ∧ k.recorded then k.pend.getLsbD (messageChannel from_) && cuts else (s.hart target).q7.length < q7Depth

/-- An entry arrives in q7; after the record of a cut it is logged instead. -/
def messageArrive (target chan : Nat) (payload : Word) (tag : BitVec 16) (s : State) : State :=
  let k := (s.core (unitOf target)).kcut
  if isVector target ∧ k.recorded ∧ k.pend.getLsbD chan then
    s.modCore (unitOf target) (fun c => { c with kcut := { c.kcut with log := c.kcut.log ++ [(target, payload, tag)] } })
  else s.modHart target (fun g => { g with q7 := g.q7 ++ [(payload, tag)] })

/-- MSEND (14 R361). -/
def execMsend (rs1 rs2 : Reg) (s : State) : Host.Outcome State Fault Refusal :=
  runM (do
    requireM (← askS (fun s => hasMessages s.cur)) (.msend rs1 rs2)
    let t ← readX rs1.toNat
    let v ← readX rs2.toNat
    let h ← askS (fun s => s.cur)
    match ← askS (fun s => msendTarget s h t) with
    | none => trapM 28 23
    | some k => do
      releaseSelf (if clusterOfUnit (unitOf h) = clusterOfUnit (unitOf k) then 1 else 2)
      let chan := messageChannel h
      let fits ← askS (fun s => messageFits s k h)
      let gone ← askS (fun s => isVector k && (s.hart k).run ≠ .running)
      if !fits then waitKeepM (.messageRoom k)
      else if gone then pure ()
      else modS (messageArrive k chan v (tagOf h))
    retireM 4) s

/-- Tokens that waited for room enter the q7 of a hart (16 R413). -/
def refillQ7 (h : Nat) (s : State) : State :=
  let u := unitOf h
  let mine := (s.core u).tokens.filter (fun t => t.1 = h)
  if mine = [] then s
  else
    let n := q7Depth - (s.hart h).q7.length
    (s.modHart h (fun g => { g with q7 := g.q7 ++ (mine.take n).map (·.2) })).modCore u (fun c =>
      { c with tokens := c.tokens.filter (fun t => t.1 ≠ h) ++ mine.drop n })

/-- A pop of q7 (14 R363); an empty q7 answers what is given or waits. -/
def qpopM (i : Instr) (rd rt : Reg) (waits : Bool) : M Unit := do
  requireM (← askS (fun s => hasMessages s.cur)) i
  requireM (rd ≠ rt || rd = 0) i
  destX rd.toNat
  destX rt.toNat
  modS (fun s => refillQ7 s.cur s)
  let g ← me
  match g.q7 with
  | (v, tag) :: rest => do
    modMe (fun g => { g with q7 := rest })
    modS (fun s => refillQ7 s.cur s)
    acquire 4
    writeX rd.toNat v
    writeX rt.toNat (tag.setWidth 64)
  | [] =>
    if waits then waitM .message
    else do
      writeX rd.toNat 0
      writeX rt.toNat minusOne
  retireM 4

/-- QPOP (14 R363). -/
def execQpop (rd rt : Reg) (s : State) : Host.Outcome State Fault Refusal := runM (qpopM (.qpop rd rt) rd rt true) s

/-- QPOPT (14 R363). -/
def execQpopt (rd rt : Reg) (s : State) : Host.Outcome State Fault Refusal := runM (qpopM (.qpopt rd rt) rd rt false) s

/- The ready queue (14 R364, R365). -/

/-- RQPUSH (14 R364). -/
def execRqpush (rs1 rs2 : Reg) (s : State) : Host.Outcome State Fault Refusal :=
  runM (do
    requireM (← anyVector) (.rqpush rs1 rs2)
    let t ← readX rs1.toNat
    let p ← readX rs2.toNat
    let u ← askS (fun s => unitOf s.cur)
    let prio := wfld p 1 0
    let l ← askS (fun s => tblGet [] (s.core u).ready prio)
    if 64 ≤ l.length then trapM 28 (BitVec.ofNat 64 (wfld t 15 0 + prio * 2 ^ 16))
    else modS (fun s => s.modCore u (fun c => { c with ready := tblSet c.ready prio (l ++ [t.setWidth 16]) }))
    retireM 4) s

/-- The most urgent non-empty FIFO of a ready queue, its head and its rest. -/
def readyHead (c : Core) : Option (Nat × BitVec 16 × List (BitVec 16)) :=
  [3, 2, 1, 0].findSome? (fun p => match tblGet [] c.ready p with
    | t :: rest => some (p, t, rest)
    | [] => none)

/-- A pop of the ready queue. -/
def rqpopM (i : Instr) (rd : Reg) (waits : Bool) : M Unit := do
  requireM (← anyVector) i
  destX rd.toNat
  let u ← askS (fun s => unitOf s.cur)
  match ← askS (fun s => readyHead (s.core u)) with
  | some (p, t, rest) => do
    modS (fun s => s.modCore u (fun c => { c with ready := tblSet c.ready p rest }))
    writeX rd.toNat (BitVec.ofNat 64 (t.toNat + p * 2 ^ 16))
  | none => if waits then waitM .readyTask else writeX rd.toNat minusOne
  retireM 4

/-- RQPOP (14 R365). -/
def execRqpop (rd : Reg) (s : State) : Host.Outcome State Fault Refusal := runM (rqpopM (.rqpop rd) rd true) s

/-- RQTRY (14 R365). -/
def execRqtry (rd : Reg) (s : State) : Host.Outcome State Fault Refusal := runM (rqpopM (.rqtry rd) rd false) s

/- Full/empty control (14 R367, R368). -/

/-- The full/empty state of a register of a bank now: 0 is the x registers and 1 the v registers. -/
def feOf (s : State) (h bank r : Nat) : Fe := if bank = 0 then (s.hart h).xFe s.now r else s.vFe h r

/-- FEPROBE (14 R367). -/
def execFeprobe (rd reg bank : Reg) (s : State) : Host.Outcome State Fault Refusal :=
  runM (do
    requireM (← anyVector) (.feprobe rd reg bank)
    destX rd.toNat
    let e ← askS (fun s => feOf s s.cur bank.toNat reg.toNat)
    writeX rd.toNat (match e with
      | .full => 1
      | .marked => 0
      | _ => 2)
    retireM 4) s

/-- FEMARK (14 R368). -/
def execFemark (reg bank : Reg) (s : State) : Host.Outcome State Fault Refusal :=
  runM (do
    requireM (← anyVector) (.femark reg bank)
    let e ← askS (fun s => feOf s s.cur bank.toNat reg.toNat)
    (match e with
      | .full => pure ()
      | .marked => pure ()
      | _ => waitM (if bank = 0 then .xreg reg.toNat else .vreg reg.toNat))
    (if bank = 0 then modMe (fun g => g.setXFe reg.toNat .marked)
    else modMe (fun g => g.modVec (fun v => { v with vfe := tblSet v.vfe reg.toNat .marked })))
    retireM 4) s

end Sys2Proof.Machine
end

