-- ==== Sys2Proof/Machine/Hoist.lean ====
section
/-! DEFINITION. The Hoist (16 R410–R418; 10 R260, R261; 11 R277–R279): pushing a request, its pieces, its completion, and the
instructions that wait for it (CWAIT, DRAIN) or report it. -/

namespace Sys2Proof.Machine

/- Requests. -/

/-- The entries of the FIFO (16 R410). -/
def hoistDepth : Nat := 16

/-- A 48-bit field as an address: sign-extended from bit 47 for global memory, and an offset otherwise. -/
def hoistAddr (space raw : Nat) : Nat := if space = 0 then (sextW 48 raw).toNat else raw

/-- The source space, the destination space and the scope of a request. -/
def HoistReq.ssp (r : HoistReq) : Nat := wfld r.w0 50 48
def HoistReq.dsp (r : HoistReq) : Nat := wfld r.w0 53 51
def HoistReq.scope (r : HoistReq) : Nat := wfld r.w0 58 56
def HoistReq.cen (r : HoistReq) : Bool := r.w0.getLsbD 59
def HoistReq.tok (r : HoistReq) : Bool := r.w0.getLsbD 60

/-- The VA of a request's counter. -/
def HoistReq.counter (r : HoistReq) : Nat := (sextW 48 (wfld r.w3 47 0)).toNat

/-- The bytes of a request. -/
def HoistReq.bytes (r : HoistReq) : Nat := r.vlr * r.vlc * fmtBytes r.vty.toNat

/-- The address of byte j of a block with a base and a row stride of signed bytes. -/
def hoistByte (r : HoistReq) (base stride j : Nat) : Nat :=
  let rowBytes := r.vlc * fmtBytes r.vty.toNat
  (BitVec.ofNat 64 base + BitVec.ofNat 64 (j / rowBytes) * sextW 32 stride + BitVec.ofNat 64 (j % rowBytes)).toNat

/-- The source address of byte j. -/
def HoistReq.srcByte (r : HoistReq) (j : Nat) : Nat := hoistByte r (hoistAddr r.ssp (wfld r.w0 47 0)) (wfld r.w2 31 0) j

/-- The destination address of byte j. -/
def HoistReq.dstByte (r : HoistReq) (j : Nat) : Nat := hoistByte r (hoistAddr r.dsp (wfld r.w1 47 0)) (wfld r.w2 63 32) j

/-- The address space under which the Hoist translates a request: its context's, with the captured privilege. -/
def hoistSpace (s : State) (r : HoistReq) : Space :=
  { unit := unitOf r.hart, partition := partOfHart s r.hart, root := asOfHart s r.hart, priv := r.priv
    mstatus := (s.hart r.hart).csr.mstatus }

/- Copy faults (11 R277, R278): a kind and an address. -/

/-- Whether a VA lies in a core's window range, which no Hoist access with space 0 reaches (09 R214). -/
def windowRange (va : Nat) : Bool := windowBase ≤ va

/-- Translate a global byte of a request; kind 0 or 1 for a page fault, 2 for an access fault, 3 for a write into a frozen
region. -/
def hoistTranslate (s : State) (r : HoistReq) (acc : Acc) (va : Nat) : Except (Nat × Nat) Phys :=
  let sp := hoistSpace s r
  if windowRange va then .error (2, va)
  else match translate s sp acc va with
    | .ok (p, _) => .ok p
    | .error c =>
      if c = acc.pageFault then .error (if acc = .store then 1 else 0, va)
      else if c = 29 then .error (5, va)
      else
        let frozen := acc = .store && (match translate s sp .load va with
          | .ok (p, _) => !p.host && (match regionOf s p.pa with
            | some k => (s.region k).freeze
            | none => false)
          | .error _ => false)
        .error (if frozen then 3 else 2, va)

/-- The bytes of a local memory by its vmt code. -/
def Core.localMem (c : Core) (space : Nat) : List Host.Cell :=
  match space with
  | 1 => c.scratch
  | 3 => c.wbuf
  | 4 => c.abuf
  | _ => c.cbuf

/-- The size of the address range of a space (09 R212). -/
def spaceSize (space : Nat) : Nat := if space = 1 then 0x80000 else if space = 2 then 0x400000 else 0x40000

/-- The core and the offset that an offset of a local space names. -/
def localHome (core space off : Nat) : Nat × Nat × Nat :=
  if space = 2 then (core / 8 * 8 + off / 0x80000, 1, off % 0x80000) else (core, space, off)

/-- Read one source byte of a request. -/
def hoistRead (s : State) (r : HoistReq) (j : Nat) : Except (Nat × Nat) Byte :=
  let a := r.srcByte j
  if r.ssp = 0 then
    match hoistTranslate s r .load a with
    | .error e => .error e
    | .ok p => if s.failing.contains (sectorOf p.num) then .error (5, a) else .ok ((gBytes s p.num 1).headD 0)
  else if spaceSize r.ssp ≤ a ∨ r.ssp = 3 then .error (2, a)
  else
    let (core, space, off) := localHome (unitOf r.hart) r.ssp a
    if (s.core core).failingWords.contains (space, off / 8) then .error (5, a)
    else .ok (memGet ((s.core core).localMem space) off)

/-- Write bytes into a local memory; its load entries of those words go, and whole words are under hold no longer. -/
def localWrite (core space : Nat) (cells : List Host.Cell) (s : State) : State :=
  if space = 1 then scratchWrite core cells s
  else
    let whole (w : Nat) : Bool := (List.range 8).all (fun i => cells.any (fun x => x.1 = w * 8 + i))
    let s := dropLoads core space ((cells.map (fun c => c.1 / 8)).eraseDups) s
    s.modCore core (fun c =>
      let c := { c with failingWords := c.failingWords.filter (fun f => !(f.1 = space && whole f.2)) }
      match space with
      | 3 => { c with wbuf := memWriteCells c.wbuf cells }
      | 4 => { c with abuf := memWriteCells c.abuf cells }
      | _ => { c with cbuf := memWriteCells c.cbuf cells })

/-- A write into global memory by an engine of a unit: every copy of its sectors is invalidated and it is performed; over a
dead path it is lost and logged (01 R25). -/
def engineWrite (u reader src ctx : Nat) (cells : List Host.Cell) (s : State) : State :=
  let a := (cells.map (·.1)).headD 0
  if isRemote a ∧ !pathUp s a then logFault u src ctx a s
  else deviceWrite reader cells s

/-- The next piece of a request from byte j on: the indexes of the bytes that land in j's destination sector. -/
def HoistReq.piece (r : HoistReq) (j : Nat) : List Nat :=
  let sec := r.dstByte j / 128
  (List.range r.bytes).filter (fun i => j ≤ i && r.dstByte i / 128 = sec)

/-- The progress after the piece of byte j: the first later byte whose sector no earlier byte has. -/
def HoistReq.after (r : HoistReq) (j : Nat) : Nat :=
  let secs := (List.range r.bytes).map (fun i => r.dstByte i / 128)
  ((List.range r.bytes).find? (fun i => j < i && !(secs.take i).contains (nth 0 secs i))).getD r.bytes

/-- Whether a piece waits at a locked scratch bank (07 R173). -/
def pieceLocked (s : State) (r : HoistReq) (js : List Nat) : Bool :=
  (r.dsp = 1 || r.dsp = 2) && js.any (fun j =>
    let (core, _, off) := localHome (unitOf r.hart) r.dsp (r.dstByte j)
    banksClosed s core ((r.came.map (·.2.2)).getD s.now) (2 ^ 60 + 2 ^ 40 * unitOf r.hart + r.id) [off])

/-- The first cell of a write that reaches only a part of a sector, or of a 64-bit word, that is under hold (01 R30). -/
def partlyHeld (held : Nat → Bool) (unit : Nat) (cells : List (Nat × Nat)) : Option Nat :=
  (cells.find? (fun c => held (c.2 / unit)
    && !(List.range unit).all (fun i => cells.any (fun x => x.2 = c.2 / unit * unit + i)))).map (·.1)

/-- Perform one piece: read its bytes, then write it whole; a write of a part of held data stops with kind 5 (01 R30). The state does not hold the
piece where its destination line is in overflow, and the answer says so. -/
def hoistPiece (s : State) (r : HoistReq) (js : List Nat) : Except (Nat × Nat) (Bool × State) :=
  let reader := partOfHart s r.hart
  match js.mapM (fun j => (hoistRead s r j).map (fun b => (r.dstByte j, b))) with
  | .error e => .error e
  | .ok cells =>
    if r.dsp = 0 then
      match cells.mapM (fun c => (hoistTranslate s r .store c.1).map (fun p => (p.num, c.2))) with
      | .error e => .error e
      | .ok phys =>
        match partlyHeld (s.failing.contains ·) 128 ((cells.map (·.1)).zip (phys.map (·.1))) with
        | some a => .error (5, a)
        | none => match awaitOverflow reader (sectorOf ((phys.map (·.1)).headD 0)) s with
          | some t => .ok (false, t)
          | none => .ok (true, engineWrite (unitOf r.hart) reader 1 (ctxOf r.hart) phys s)
    else match cells.find? (fun c => spaceSize r.dsp ≤ c.1) with
      | some c => .error (2, c.1)
      | none =>
        let (core, space, _) := localHome (unitOf r.hart) r.dsp ((cells.map (·.1)).headD 0)
        let out := cells.map (fun c => ((localHome (unitOf r.hart) r.dsp c.1).2.2, c.2))
        match partlyHeld (fun w => (s.core core).failingWords.contains (space, w)) 8 ((cells.map (·.1)).zip (out.map (·.1))) with
        | some a => .error (5, a)
        | none => .ok (true, localWrite core space out s)

/-- What is checked before a request moves any byte: a reserved scope, the C buffer from U-mode, the window, and the counter's
translation as a write (16 R412; 10 R244; 09 R214, R215). -/
def hoistCheck (s : State) (r : HoistReq) : Option (Nat × Nat) :=
  if 4 < r.scope then some (4, 0)
  else if r.priv = .user ∧ (r.ssp = 5 ∨ r.dsp = 5) then some (4, 0)
  else if r.ssp = 0 ∧ (List.range r.bytes).any (fun j => windowRange (r.srcByte j)) then some (2, r.srcByte 0)
  else if r.dsp = 0 ∧ (List.range r.bytes).any (fun j => windowRange (r.dstByte j)) then some (2, r.dstByte 0)
  else if r.cen then
    match hoistTranslate s r .store r.counter with
    | .error e => some e
    | .ok p => if p.host then some (2, r.counter) else none
  else none

/-- Change a request of a core. -/
def modReq (u id : Nat) (f : HoistReq → HoistReq) (s : State) : State :=
  s.modCore u (fun c => { c with hoist := c.hoist.map (fun r => if r.id = id then f r else r) })

/-- A request stops: it records the address and the kind, the fault is logged, and its context is told (11 R277, R278). -/
def hoistStop (u id kind addr : Nat) (s : State) : State :=
  match (s.core u).hoist.find? (fun r => r.id = id) with
  | none => s
  | some r =>
    let s := reportFault (hoistSpace s r) true (if kind = 0 then .load else .store) addr s
    logFault u 1 (ctxOf r.hart) addr (modReq u id (fun r => { r with stopped := some (kind, BitVec.ofNat 64 addr) }) s)

/-- Whether a request is the oldest of its context that is not complete. -/
def isOldest (c : Core) (r : HoistReq) : Bool :=
  match c.hoist.find? (fun x => x.hart = r.hart) with
  | some x => x.id = r.id
  | none => false

/-- Whether a request waits while its partition's lines are re-homed: it reaches global memory (09 R223). -/
def hoistRehoming (s : State) (r : HoistReq) : Bool :=
  (r.ssp = 0 || r.dsp = 0 || r.cen) && (s.part (partOfHart s r.hart)).rehoming.isSome

/-- Whether a request may move a piece in this cycle: the core's Hoist has moved none and none is promised it, or it is this request's promise. -/
def pieceTurn (s : State) (u : Nat) (r : HoistReq) : Bool := (s.core u).pieceFree ≤ s.now || r.slot = some s.now

/-- Promise a request the first cycle in which the Hoist moves no piece yet (16 R412). -/
def bookPiece (u id : Nat) (s : State) : State :=
  let t := (s.core u).pieceFree
  ((modReq u id (fun r => { r with slot := some t }) s).modCore u (fun c => { c with pieceFree := t + 1 })).schedule t (.hoistRequestStart u id)

/-- A piece has been moved: the request's progress, and the cycle in which the Hoist may move the next. -/
def pieceDone (u id progress : Nat) (s : State) : State :=
  (modReq u id (fun r => { r with started := true, came := none, slot := none, progress := progress }) s).modCore u
    (fun c => { c with pieceFree := max c.pieceFree (s.now + 1) })

/-- A request works on its next piece; when all are written it completes in the next cycle. -/
def hoistWork (u id : Nat) (s : State) : State :=
  match (s.core u).hoist.find? (fun r => r.id = id) with
  | none => s
  | some r =>
    if r.stopped.isSome ∨ r.written ∨ !isOldest (s.core u) r ∨ (s.core u).kcut.arm then s
    else if hoistRehoming s r then s.schedule (s.now + 1) (.hoistRequestStart u id)
    else match (if r.progress = 0 then hoistCheck s r else none) with
      | some (kind, a) => hoistStop u id kind a s
      | none =>
        if r.bytes ≤ r.progress then
          (modReq u id (fun r => { r with started := true, written := true }) s).schedule s.now (.hoistRequestComplete u id)
        else
          let js := r.piece r.progress
          if pieceLocked s r js then
            let (core, _, off) := localHome u r.dsp (r.dstByte (js.headD 0))
            (modReq u id (fun r => { r with came := some (core, off / 0x4000, (r.came.map (·.2.2)).getD s.now) }) s).schedule (s.now + 1) (.hoistRequestStart u id)
          else if !pieceTurn s u r then bookPiece u id s
          else match hoistPiece s r js with
            | .error (kind, a) => hoistStop u id kind a s
            | .ok (false, t) => t.schedule (s.now + 1) (.hoistRequestStart u id)
            | .ok (true, t) =>
              (pieceDone u id (r.after r.progress) t).schedule (s.now + 1) (.hoistRequestStart u id)

/-- HOIST_REQUEST_START (16 R412; 11 R277): the oldest request of a context moves a piece a cycle. -/
def execHoistRequestStart (core request : Nat) (s : State) : Host.Outcome State Fault Refusal :=
  .next (hoistWork core request s)

/-- A token enters the q7 of its hart, or waits for room there; it is discarded when the hart runs no thread (16 R413). -/
def placeToken (h : Nat) (payload : Word) (tag : BitVec 16) (s : State) : State :=
  if isVector h ∧ (s.hart h).run ≠ .running then s
  else refillQ7 h (s.modCore (unitOf h) (fun c => { c with tokens := c.tokens ++ [(h, payload, tag)] }))

/-- The tag of a Hoist token (14 R352). -/
def hoistTag (h : Nat) : BitVec 16 := BitVec.ofNat 16 ((tagOf h).toNat + 2 * 2 ^ 13)

/-- A request whose pieces are all written completes: the counter, the token, and the context's next request. -/
def hoistFinish (u id : Nat) (s : State) : State :=
  match (s.core u).hoist.find? (fun r => r.id = id && r.written) with
  | none => s
  | some r =>
    let again (s : State) : State := s.schedule (s.now + 1) (.hoistRequestComplete u id)
    match (if hoistRehoming s r then .ok (some (again s), none)
      else if r.cen then
        match hoistTranslate s r .store r.counter with
        | .error e => .error e
        | .ok p =>
          if s.failing.contains (sectorOf p.num) then .error (5, r.counter)
          else .ok ((awaitOverflow (partOfHart s r.hart) (sectorOf p.num) s).map again, some p)
      else .ok (none, none) : Except (Nat × Nat) (Option State × Option Phys)) with
    | .error (kind, a) => hoistStop u id kind a (modReq u id (fun r => { r with written := false }) s)
    | .ok (some t, _) => t
    | .ok (none, at_) =>
      let s := match at_ with
        | some p => engineWrite u (partOfHart s r.hart) 1 (ctxOf r.hart) (cellsAt p.num (leBytes 8 ((gRead s p.num 8 + 1) % 2 ^ 64))) s
        | none => s
      let s := s.modCore u (fun c => { c with hoist := c.hoist.filter (fun x => x.id ≠ id) })
      let s := if r.tok then placeToken r.hart (BitVec.ofNat 64 (wfld r.w1 47 0)) (hoistTag r.hart) s else s
      match (s.core u).hoist.find? (fun x => x.hart = r.hart) with
      | some next => if next.stopped.isNone then s.schedule s.now (.hoistRequestStart u next.id) else s
      | none => s

/-- HOIST_REQUEST_COMPLETE (16 R413; 10 R261). -/
def execHoistRequestComplete (core request : Nat) (s : State) : Host.Outcome State Fault Refusal :=
  .next (hoistFinish core request s)

/- Instructions. -/

/-- Whether the four words are legal (16 R411). -/
def hoistWordsOk (w0 w1 w2 w3 : Word) : Bool :=
  let _ := w2
  wfld w0 63 61 = 0 && wfld w0 50 48 < 6 && wfld w0 53 51 < 6 && wfld w1 63 48 = 0
    && (if w0.getLsbD 59 then wfld w3 2 0 = 0 && wfld w3 63 48 = 0 else w3 = 0)

/-- A push: the words are read and checked, a release waits, and the request enters the FIFO with the shape, privilege and
context captured. full answers when the FIFO has no room. -/
def hoistPush (i : Instr) (rs1 : Reg) (full : M Unit) (pushed : M Unit) : M Unit := do
  requireM (← anyVector) i
  requireM (1 ≤ rs1.toNat && rs1.toNat ≤ 28) i
  let w0 ← readX rs1.toNat
  let w1 ← readX (rs1.toNat + 1)
  let w2 ← readX (rs1.toNat + 2)
  let w3 ← readX (rs1.toNat + 3)
  requireM (hoistWordsOk w0 w1 w2 w3) i
  let u ← askS (fun s => unitOf s.cur)
  let room ← askS (fun s => decide ((s.core u).hoist.length < hoistDepth))
  if !room then full
  else do
    (if w0.getLsbD 55 ∧ wfld w0 58 56 ≤ 4 then releaseSelf (wfld w0 58 56) else pure ())
    modS (fun s =>
      let g := s.hart s.cur
      let id := (s.core u).nextReq
      let r : HoistReq := { id := id, hart := s.cur, w0 := w0, w1 := w1, w2 := w2, w3 := w3, vlr := g.vec.vlr, vlc := g.vec.vlc
                            vty := g.vec.vty, priv := dataPriv g, progress := 0, started := false, stopped := none
                            written := false }
      let first := !(s.core u).hoist.any (fun x => x.hart = s.cur)
      let s := s.modCore u (fun c => { c with hoist := c.hoist ++ [r], nextReq := id + 1 })
      if first then s.schedule (s.now + 1) (.hoistRequestStart u id) else s)
    pushed

/-- HPUSH (16 R414). -/
def execHpush (rs1 : Reg) (s : State) : Host.Outcome State Fault Refusal :=
  runM (do
    hoistPush (.hpush rs1) rs1 (waitM .hoistRoom) (pure ())
    retireM 4) s

/-- HPUSHT (16 R414). -/
def execHpusht (rd rs1 : Reg) (s : State) : Host.Outcome State Fault Refusal :=
  runM (do
    requireM (← anyVector) (.hpusht rd rs1)
    destX rd.toNat
    hoistPush (.hpusht rd rs1) rs1 (writeX rd.toNat 1) (writeX rd.toNat 0)
    retireM 4) s

/-- HQLEN (16 R415). -/
def execHqlen (rd : Reg) (s : State) : Host.Outcome State Fault Refusal :=
  runM (do
    requireM (← anyVector) (.hqlen rd)
    destX rd.toNat
    let v ← askS (fun s =>
      let l := (s.core (unitOf s.cur)).hoist
      let mine := l.filter (fun r => r.hart = s.cur)
      BitVec.ofNat 64 (mine.length + l.length * 2 ^ 8 + natOf (mine.any (fun r => r.stopped.isSome)) * 2 ^ 16))
    writeX rd.toNat v
    retireM 4) s

/-- CWAIT (16 R416). -/
def execCwait (rs1 rs2 : Reg) (s : State) : Host.Outcome State Fault Refusal :=
  runM (do
    requireM (← anyVector) (.cwait rs1 rs2)
    let a ← readX rs1.toNat
    let target ← readX rs2.toNat
    let h ← askS (fun s => s.cur)
    if wfld a 2 0 ≠ 0 then trapM 4 a
    else if inWindow h a.toNat then trapM 5 a
    else do
      let p ← resolve .load a.toNat 8 true
      let (v, _) ← loadPlace p a.toNat 8 0
      if v < target.toNat then
        match p with
        | .global r => waitKeepM (.counter (BitVec.ofNat 64 r.num) target)
        | _ => trapM 5 a
      else do
        acquire 4
        retireM 4) s

/-- Whether a request that was pushed before a bound copies into a local memory of a core (09 R229). -/
def drainCovers (u mem bound : Nat) (r : HoistReq) : Bool :=
  r.id < bound && !r.written && (match mem with
    | 0 => r.dsp = 1 || (r.dsp = 2 && wfld r.w1 21 19 = u % 8)
    | 1 => r.dsp = 3
    | 2 => r.dsp = 4
    | _ => r.dsp = 5)

/-- DRAIN (16 R417; 09 R229). -/
def execDrain (mem : Reg) (s : State) : Host.Outcome State Fault Refusal :=
  runM (do
    requireM (← anyVector) (.drain mem)
    requireM (mem.toNat < 4) (.drain mem)
    let u ← askS (fun s => unitOf s.cur)
    let g ← me
    let bound ← askS (fun s => g.fencing.getD (s.core u).nextReq)
    let busy ← askS (fun s => (s.core u).hoist.any (drainCovers u mem.toNat bound))
    if busy then do
      modMe (fun g => { g with fencing := some bound })
      waitKeepM (.drain mem.toNat bound)
    else do
      modMe (fun g => { g with fencing := none })
      retireM 4) s

end Sys2Proof.Machine
end

