-- ==== Sys2Proof/Machine/Waits.lean ====
section
/-! DEFINITION. When the waits of 07 R170 are released, and the events that belong to waiting harts: WAIT_RELEASE,
INTERRUPT_ENTRY, CORE_TIMER_EXPIRY, the arrival of data, posted accesses, the router and the lock leases. -/

namespace Sys2Proof.Machine

/-- Whether the barrier of a hart has completed, or can make its next move. -/
def barrierReady (s : State) (h : Nat) : Bool :=
  let t := (s.hart h).thread
  match gangFind s t.partition t.gang with
  | none => true
  | some g =>
    match g.members.find? (fun m => m.who = h) with
    | none => true
    | some m => !m.arrived || m.gen < g.generation || gangMove s g ≠ .none

/-- Whether a queue q0–q7 of a context holds an entry, which a reader sees from the next cycle on at the latest. -/
def queueHas (g : Hart) (now q : Nat) : Bool :=
  if q < 6 then (match tblGet [] g.vec.q q with
    | e :: _ => e.complete && e.visible ≤ now + 1
    | [] => false)
  else if q = 6 then g.vec.q6 ≠ [] else g.q7 ≠ []

/-- The entries of a queue. -/
def queueLength (g : Hart) (q : Nat) : Nat :=
  if q < 6 then (tblGet [] g.vec.q q).length else if q = 6 then g.vec.q6.length else g.q7.length

/-- Whether the condition that a hart waits for holds (07 R170). -/
def released (s : State) (h : Nat) (w : Wait) : Bool :=
  let g := s.hart h
  let u := unitOf h
  let c := s.core u
  match w with
  | .xreg r => g.xFe s.now r = .full
  | .vreg r => s.vFe h r = .full || vqWrites s h r
  | .queueEntry q => queueHas g s.now q
  | .queueRoom q n => queueLength g q + n ≤ queueDepth q
  | .vecRoom => c.vq.length < 8
  | .vecHeld => !c.vq.any (fun e => e.hart = h)
  | .vecRetired => !c.vq.any (fun e => e.hart = h)
  | .hoistRoom => c.hoist.length < hoistDepth
  | .messageRoom t => messageFits s t h
  | .readyTask => (readyHead c).isSome
  | .message => g.q7 ≠ [] || c.tokens.any (fun t => t.1 = h)
  | .counter a t => t.toNat ≤ gRead s a.toNat 8
  | .drain m b => !c.hoist.any (drainCovers u m b)
  | .classes m => countsZero s h m
  | .loads => g.loads = []
  | .barrier => barrierReady s h
  | .bank core b => bankOpen s h core b
  | .lock core b => match lockHolder s core b with
    | some k => hartOf core k = h
    | none => !c.locks.any (fun e => e.1 = b) && bankQueue s core b = []
  | .interrupt => pendingIrqs s h ≠ 0
  | .reap x => !contextBusy s (hartOf u x)
  | .killed x => !contextBusy s (hartOf u x)
  | .notice => (s.hart (h / 16 * 16)).q7.length < q7Depth
  | .benchRoom => (s.cluster ((h - 0x10000) / 2)).bench.length < 8
  | .benchIdle => (s.cluster ((h - 0x10000) / 2)).bench = []
  | .binSlot q _ e =>
    !s.listQueues.any (fun x => x.pa = q) || gRead s (q + 0x38) 2 = gRead s (q + 0x14) 2
      || (gRead s (e + 4) 4 + 2 ^ 32 - gRead s (e + 8) 4) % 2 ^ 32 ≠ 2 ^ (gRead s (q + 0x10) 1 % 32)
  | .epoch a => gRead s (a + 8) 1 % 2 = 0
  | .nodeLock a => gRead s a 1 % 2 = 0
  | .holds a => gRead s (a + 12) 2 ≠ 0xFFFF
  | .postedRoom => !bufferFull s u
  | .rehoming => (s.part (partOfHart s h)).rehoming.isNone
  | .hostRead => match g.hostRead with
    | some (_, .pending) => false
    | _ => true
  | .acquire => !acquirePending s h
  | .atomics => !atomicsPending s h
  | .sector a => !c.posted.any (fun e => e.hart = h && e.sector = sectorOf a)
  | .invalidation p b => !olderPosted s p b

/-- WAIT_RELEASE (07 R170): a hart whose condition holds is eligible from the next cycle; a barrier first makes its move. -/
def execWaitRelease (hart : Nat) (s : State) : Host.Outcome State Fault Refusal :=
  match (s.hart hart).waiting with
  | none => .next s
  | some w =>
    if released s hart w then
      let t := (s.hart hart).thread
      .next (wake hart (if w = .barrier then gangDo t.partition t.gang s else s))
    else .next s

/-- INTERRUPT_ENTRY (11 R266, R268, R269): the hart takes the first of its enabled pending interrupts. A vector instruction that it waits for
leaves the queue and executes again from the start (07 R171). -/
def execInterruptEntry (hart : Nat) (s : State) : Host.Outcome State Fault Refusal :=
  match nextIrq s hart with
  | none => .next s
  | some i => .next ((s.modHart hart (fun g => g.takeTrap true i (irqTval s hart i))).modCore (unitOf hart)
      (fun c => { c with slot := none, vq := c.vq.filter (fun e => !(e.held && e.hart = hart)) }))

/-- CORE_TIMER_EXPIRY (08 R210, R211; 11 R268): interrupt 16 is pending while cycle is at least ktimecmp. -/
def execCoreTimerExpiry (hart : Nat) (s : State) : Host.Outcome State Fault Refusal :=
  .next (s.modHart hart (fun g => { g with irqPending := setBitW g.irqPending 16 (!(s.cycle.ult g.csr.ktimecmp)) }))

/-- LOAD_DATA_RETURN (00 R4; 07 R168; 08 R183): the result in flight towards rd is written and rd is full. -/
def execLoadDataReturn (hart : Nat) (rd : Reg) (s : State) : Host.Outcome State Fault Refusal :=
  .next (loadArrives hart rd s)

/-- POSTED_ENTRY_TIMEOUT (09 R220): 32 cycles after its first store an entry is sent. -/
def execPostedEntryTimeout (core entry : Nat) (s : State) : Host.Outcome State Fault Refusal :=
  .next (sendWhere core (fun e => e.id = entry) s)

/-- POSTED_STORE_ACK (09 R220, R221): a sent access arrives, is performed and is acknowledged. -/
def execPostedStoreAck (core entry : Nat) (s : State) : Host.Outcome State Fault Refusal :=
  .next (arrive core entry s)

/-- ROUTER_FORWARD (10 R254). -/
def execRouterForward (cluster entry : Nat) (s : State) : Host.Outcome State Fault Refusal :=
  .next (forward cluster entry s)

/-- SCRATCH_LOCK_LEASE_EXPIRY (07 R173). -/
def execScratchLockLeaseExpiry (core bank : Nat) (s : State) : Host.Outcome State Fault Refusal :=
  .next (lockExpiry core bank s)

end Sys2Proof.Machine
end

