-- ==== Sys2Proof/Machine/VecMem.lean ====
section
/-! DEFINITION. The memory group (16 R392–R407): where the elements of an instruction lie, which of them fault, what the others
load, store and add, and what a faulting or resumed execution leaves (11 R272, R273; 10 R262); VSAVE and VRSTR (15 R381).
These instructions execute at their issue, when the vector instruction queue is empty and what they read is written, and otherwise in their turn
in the queue, for which their context waits (08 R195). -/

namespace Sys2Proof.Machine

/-- The instructions of op10 0x140–0x147. -/
inductive MemKind where
  | load | loadFF | gather | store | scatter | red | add | acc
deriving DecidableEq, Repr

/-- Whether an instruction of the group writes its d field. -/
def MemKind.loads : MemKind → Bool
  | .load | .loadFF | .gather | .acc => true
  | _ => false

/-- Whether b names an index group. -/
def MemKind.indexed : MemKind → Bool
  | .gather | .scatter | .red | .add => true
  | _ => false

/-- The kind of access that an element is translated as. -/
def MemKind.access (k : MemKind) : Acc := if k.loads then .load else .store

/-- The cause of a misaligned element (09 R218; 16 R397). -/
def MemKind.misaligned (k : MemKind) : Nat := if k.loads then 4 else 6

/-- The bytes of an element's access for an element width w: A128 words and accumulators have 16. -/
def MemKind.bytes (k : MemKind) (w : Nat) : Nat :=
  match k with
  | .acc | .red => 16
  | _ => w

/-- A space that the instruction does not accept: illegal at execution (16 R396). -/
def MemKind.illegalSpace (k : MemKind) (vmt : Nat) : Bool :=
  match k with
  | .load | .loadFF | .gather => vmt = 5
  | .acc => 1 ≤ vmt && vmt ≤ 4
  | _ => false

/-- A space in which every element faults, with its cause (16 R396). -/
def MemKind.spaceCause (k : MemKind) (vmt : Nat) : Option Nat :=
  match k with
  | .load | .loadFF | .gather => if vmt = 3 then some 5 else none
  | .store | .scatter => if vmt = 5 then some 7 else none
  | .red => if vmt ≠ 0 then some 7 else none
  | .add => if 3 ≤ vmt then some 7 else none
  | .acc => none

/-- What an execution of the group has at hand: its fields, lengths and elements, its base, row stride and layout. -/
structure MemIn where
  h : Nat
  f : LongFields
  kind : MemKind
  w : Nat
  vmt : Nat
  base : Word
  stride : Word
  packed : Bool
  slots : List Nat
  vlr : Nat
  vlc : Nat
  rm : Nat
  resuming : Bool
  pipe : Nat := 0

/-- One access: the elements that it stands for, its first address, its bytes, and the cycles after which it is translated. -/
structure MemAcc where
  slots : List Nat
  addr : Nat
  n : Nat
  late : Nat := 0
deriving DecidableEq, Repr

/-- One byte of memory: a global address (space 0), or an offset of a local memory of a core. -/
structure Spot where
  core : Nat
  space : Nat
  pos : Nat
deriving DecidableEq, Repr

/-- The offset of a memory instruction (13 R324). -/
def memOffset (f : LongFields) (progress : Bool) : Word :=
  if progress then sextW 6 f.imm.toNat * 512 else sextW 11 (f.imm.toNat * 32 + f.c.toNat) * 16

/-- The signed 32-bit index of a slot (16 R395). -/
def indexOf (v : VecCtx) (b i : Nat) : Word :=
  let r := i / 32
  let reg := if 16 ≤ b then sourceValue v b b 0 else (v.getV (b + r / 8)).toNat
  sextW 32 (elemAt reg 4 (r % 8 * 32 + i % 32))

/-- The address of an element (16 R392). -/
def MemIn.addrOf (x : MemIn) (v : VecCtx) (i : Nat) : Nat :=
  if x.kind.indexed then (x.base + indexOf v x.f.b.toNat i).toNat
  else
    let u := if x.kind = .acc then 16 else x.w
    (x.base + BitVec.ofNat 64 (i / 32) * x.stride + BitVec.ofNat 64 (i % 32 * u)).toNat

/-- The first byte of a row's stream under packed L6 (16 R394). -/
def MemIn.rowBase (x : MemIn) (r : Nat) : Word := x.base + BitVec.ofNat 64 r * x.stride

/-- The accesses of an instruction in ascending order: one per element, or one per group of four columns of a packed store. -/
def MemIn.accesses (x : MemIn) (v : VecCtx) : List MemAcc :=
  if x.packed then
    if x.kind.loads then
      x.slots.map (fun i =>
        let c := i % 32
        { slots := [i], addr := (x.rowBase (i / 32) + BitVec.ofNat 64 (6 * c / 8)).toNat, n := (6 * c + 5) / 8 - 6 * c / 8 + 1 })
    else
      ((x.slots.map (· / 4)).eraseDups).map (fun g =>
        { slots := x.slots.filter (· / 4 = g), addr := (x.rowBase (g / 8) + BitVec.ofNat 64 (3 * (g % 8))).toNat, n := 3 })
  else x.slots.map (fun i => { slots := [i], addr := x.addrOf v i, n := x.kind.bytes x.w })

/- Where an access leads. -/

/-- The lookups of an instruction so far: each distinct page has one, a page a cycle (09 R237). held lists the translations found with the cycle
of each. -/
structure Looked where
  s : State
  held : List (TlbEntry × Nat) := []
  count : Nat := 0
  last : Nat := 0

/-- Translate n bytes in one page through a memory pipe: elements that share a page share its lookup. -/
def lookPage (h pipe : Nat) (acc : Acc) (va n : Nat) (k : Looked) : Except (Nat × Nat) (Phys × Nat) × Looked :=
  match k.held.find? (fun e => e.1.va = va / 2 ^ e.1.bits) with
  | some (_, t) =>
    match translatePipe k.s h pipe 0 acc va n with
    | .ok (r, _) => (.ok (r, t), k)
    | .error c => (.error (c, va), { k with s := reportFault (spaceOf k.s h acc) true acc va k.s })
  | none =>
    match translatePipe k.s h pipe k.count acc va n with
    | .ok (r, none) => (.ok (r, 0), k)
    | .ok (r, some l) =>
      let t := k.count + r.late
      (.ok (r, t), { s := holdEntry { spaceOf k.s h acc with pipe := pipe, after := k.count } acc (some l) k.s
                     held := (l.entry, t) :: k.held, count := k.count + 1, last := max k.last t })
    | .error c => (.error (c, va), { k with s := reportFault (spaceOf k.s h acc) true acc va k.s, last := max k.last k.count
                                            count := k.count + 1 })

/-- Translate and check n bytes that lie in one page or one local memory: the first byte and the cycles until it is known, or the cause and
address of the fault. -/
def reachFirst (h pipe : Nat) (acc : Acc) (vmt va n : Nat) (k : Looked) : Except (Nat × Nat) (Spot × Nat) × Looked :=
  if vmt = 0 then
    if windowRange va then (.error (acc.accessFault, va), k)
    else match lookPage h pipe acc va n k with
      | (.ok (r, t), k) => (.ok ({ core := 0, space := 0, pos := r.num }, t), k)
      | (.error e, k) => (.error e, k)
  else if spaceSize vmt ≤ va then (.error (acc.accessFault, va), k)
  else
    let (core, space, off) := localHome (unitOf h) vmt va
    (.ok ({ core := core, space := space, pos := off }, 0), k)

/-- The bytes of an access, each translated and checked by itself. -/
def reachEach (h pipe : Nat) (acc : Acc) (vmt : Nat) : Nat → Nat → Looked → Except (Nat × Nat) (List Spot × Nat) × Looked
  | _, 0, k => (.ok ([], 0), k)
  | va, n + 1, k =>
    match reachFirst h pipe acc vmt (va % 2 ^ 64) 1 k with
    | (.error e, k) => (.error e, k)
    | (.ok (p, t), k) =>
      match reachEach h pipe acc vmt (va + 1) n k with
      | (.error e, k) => (.error e, k)
      | (.ok (l, u), k) => (.ok (p :: l, max t u), k)

/-- The bytes of an aligned access. -/
def reachWhole (h pipe : Nat) (acc : Acc) (vmt va n : Nat) (k : Looked) : Except (Nat × Nat) (List Spot × Nat) × Looked :=
  match reachFirst h pipe acc vmt va n k with
  | (.error e, k) => (.error e, k)
  | (.ok (p, t), k) => (.ok ((List.range n).map (fun i => { p with pos := p.pos + i }), t), k)

/-- Where an access of an instruction leads, but for integrity holds: alignment, the space, translation, host memory, of which some sectors
came back with an error. -/
def MemIn.reach (x : MemIn) (failed : List Nat) (a : MemAcc) (k : Looked) : Except (Nat × Nat) (List Spot × Nat) × Looked :=
  match x.kind.spaceCause x.vmt with
  | some c => (.error (c, a.addr), k)
  | none =>
    if !x.packed ∧ a.addr % a.n ≠ 0 then (.error (x.kind.misaligned, a.addr), k)
    else
      match (if x.packed then reachEach x.h x.pipe x.kind.access x.vmt a.addr a.n k
        else reachWhole x.h x.pipe x.kind.access x.vmt a.addr a.n k) with
      | (.error e, k) => (.error e, k)
      | (.ok (l, t), k) =>
        if l.any (fun p => p.space = 0 && isHostNum p.pos) ∧ (x.kind = .red ∨ x.kind = .add) then (.error (7, a.addr), k)
        else match l.findIdx? (fun p => p.space = 0 && failed.contains (sectorOf p.pos)) with
          | some j => (.error (5, (a.addr + j) % 2 ^ 64), k)
          | none => (.ok (l, t), k)

/-- An access with where it leads. -/
abbrev Reached := MemAcc × Except (Nat × Nat) (List Spot)

/-- Where all accesses lead, in ascending order. -/
def MemIn.reachAll (x : MemIn) (failed : List Nat) : List MemAcc → Looked → List Reached × Looked
  | [], k => ([], k)
  | a :: rest, k =>
    match x.reach failed a k with
    | (.error e, k) =>
      let (l, k) := x.reachAll failed rest k
      ((a, .error e) :: l, k)
    | (.ok (p, t), k) =>
      let (l, k) := x.reachAll failed rest k
      (({ a with late := t }, .ok p) :: l, k)

/-- The bytes of the accesses that do not fault. -/
def okSpots (l : List Reached) : List (MemAcc × List Spot) :=
  l.filterMap (fun e => match e.2 with
    | .ok p => some (e.1, p)
    | .error _ => none)

/-- Whether a byte lies under integrity hold. -/
def spotHeld (s : State) (p : Spot) : Bool :=
  if p.space = 0 then s.failing.contains (sectorOf p.pos) else (s.core p.core).failingWords.contains (p.space, p.pos / 8)

/-- Whether the accesses write the whole held sector or word of a byte, which ends its hold (01 R30). -/
def spotCovered (all : List Spot) (p : Spot) : Bool :=
  let n := if p.space = 0 then 128 else 8
  (List.range n).all (fun i => all.contains { p with pos := p.pos / n * n + i })

/-- Data under hold make the accesses that need them fault with cause 29 (01 R29; 16 R397): every one but a store that covers the
whole sector or word. -/
def markHeld (s : State) (stores : Bool) (l : List Reached) : List Reached :=
  if s.failing = [] ∧ (okSpots l).all (fun e => e.2.all (fun p => (s.core p.core).failingWords = [])) then l
  else
    let all := if stores then (okSpots l).flatMap (·.2) else []
    l.map (fun e => match e.2 with
      | .error _ => e
      | .ok ps =>
        match ps.findIdx? (fun p => spotHeld s p && !(stores && spotCovered all p)) with
        | some j => (e.1, .error (29, (e.1.addr + j) % 2 ^ 64))
        | none => e)

/-- The faults in ascending order: the elements, the cause and the address of each. -/
def faultsOf (l : List Reached) : List (List Nat × Nat × Nat) :=
  l.filterMap (fun e => match e.2 with
    | .error (c, a) => some (e.1.slots, c, a)
    | .ok _ => none)

/- Legality and issue. -/

/-- The registers of an index group: ⌈rows / 8⌉ (16 R395); the rows of a resumed execution are those of vflt. -/
def groupSize (g : Hart) : Nat :=
  if g.resuming then (((List.range 32).filter (fun r => (List.range 32).any (fun c => g.vec.vflt.getLsbD (r * 32 + c)))).foldl max 0) / 8 + 1
  else (g.vec.vlr + 7) / 8

/-- An index group past v15, or a queue for a group of more than one register, is illegal (16 R395). -/
def groupLegal (g : Hart) (b : Nat) : Bool :=
  if 16 ≤ b then groupSize g = 1 else b + groupSize g ≤ 16

/-- An empty register of an index group behind its first. -/
def groupEmpty (s : State) (b : Nat) : Option Nat :=
  if 16 ≤ b then none
  else ((List.range (groupSize (s.hart s.cur) - 1)).map (b + 1 + ·)).find? (vEmpty s s.cur)

/-- The issue checks of an instruction of the group (13 R332), with those of the index group. -/
def memOperands (i : Instr) (f : LongFields) (indexed : Bool) : M XArgs := do
  let early ← askS (fun s =>
    if queueMisuse i = none ∧ indexed ∧ f.tb ∧ !(f.ta && (s.hart s.cur).xFe s.now f.a.toNat ≠ .full) ∧ !vEmpty s s.cur f.b.toNat
    then groupEmpty s f.b.toNat else none)
  match early with
  | some r => trapM 24 (emptyTval r 2)
  | none => do
    let x ← operandsM i
    match (← askS (fun s => if indexed then groupEmpty s f.b.toNat else none)) with
    | some r => waitM (.vreg r)
    | none => pure x

/-- Room in the queue that d names, where the instruction appends an entry; a resumed one holds its entry already. -/
def queueRoomM (d : Nat) : M Unit := fun s =>
  let g := s.hart s.cur
  if d < 16 ∨ (g.resuming ∧ (g.vec.getQ (d - 16)).any (fun e => !e.complete)) then .ok ((), s)
  else if (g.vec.getQ (d - 16)).length < queueDepth (d - 16) then .ok ((), s)
  else .error (.wait (.queueRoom (d - 16) 1))

/-- The data that an instruction loads into its d field: the register's or the incomplete entry's earlier contents, or zeros in a
new entry (08 R193). -/
def oldData (g : Hart) (d : Nat) : Nat :=
  if d < 16 then (g.vec.getV d).toNat
  else match (g.vec.getQ (d - 16)).find? (fun e => !e.complete) with
    | some e => if g.resuming then e.data.toNat else 0
    | none => 0

/-- Write the data that an instruction has loaded: into the register, or as an entry of the queue, which readers see once the last data have
come and which stays incomplete while elements fault (11 R272). -/
def putData (h d : Nat) (data : Nat) (w : Written) (complete : Bool) (s : State) : State :=
  if d < 16 then setVReg h d (BitVec.ofNat 8192 data) w s
  else s.modHart h (fun g =>
    let q := g.vec.getQ (d - 16)
    let e : QEntry := { data := BitVec.ofNat 8192 data, complete := complete, visible := w.last + 1 }
    let q := if g.resuming ∧ q.any (fun e => !e.complete) then q.map (fun o => if o.complete then o else e) else q ++ [e]
    { g with vec := g.vec.setQ (d - 16) q })

/- Loads. -/

/-- The value of a byte as the context sees it. -/
def spotByte (s : State) (h : Nat) (p : Spot) : Byte :=
  if p.space = 0 then (viewBytes s h p.pos 1).headD 0 else memGet ((s.core p.core).localMem p.space) p.pos

/-- The bytes of an access as a number. -/
def spotsValue (s : State) (h : Nat) (l : List Spot) : Nat := leNat (l.map (spotByte s h))

/-- The global sectors of a list of accesses, each once, ascending in the order of the accesses. -/
def globalSectors (l : List (MemAcc × List Spot)) : List Nat :=
  ((l.flatMap (fun e => (e.2.filter (fun p => p.space = 0)).map (fun p => sectorOf p.pos))).eraseDups)

/-- The banks of scratch that a list of accesses touches, with their cores. -/
def scratchBanks (l : List (MemAcc × List Spot)) : List (Nat × Nat) :=
  ((l.flatMap (fun e => (e.2.filter (fun p => p.space = 1)).map (fun p => (p.core, p.pos / 0x4000)))).eraseDups)

/-- Loads and the accesses to the core's own scratch wait at a bank that another context has locked (07 R173). -/
def banksFree (banks : List (Nat × Nat)) : M Unit := banks.foldl (fun m b => do m; bankFree b.1 (b.2 * 0x4000)) (pure ())

/-- The cycles until the data of an access have returned: its translation, and the latency of its sectors or local memories (00 R4). -/
def accessCycles (s : State) (u reader : Nat) (e : MemAcc × List Spot) : Nat :=
  e.1.late + e.2.foldl (fun m p =>
    max m (if p.space = 0 then loadCycles s u reader { pa := if isHostNum p.pos then p.pos - hostBase else p.pos, host := isHostNum p.pos }
      else if p.space = 1 ∧ p.core ≠ u then 36 else 10)) 1

/-- When the elements of a load are written: those of the first element group, and all of them. -/
def loadTimes (s : State) (u reader : Nat) (whole : Bool) (ty : Nat) (l : List (MemAcc × List Spot)) : Written :=
  let ends := l.map (fun e => (e.1.slots.headD 0 / 32, s.now + accessCycles s u reader e))
  { whole := whole
    first := ((ends.filter (fun e => e.1 < rowsPerCycle ty)).map (·.2)).foldl max s.now
    last := (ends.map (·.2)).foldl max s.now }

/-- Prepare the reads of a list of accesses: banks, earlier packets, the context's own adds on the sectors, and other contexts'
entries on them, which are sent (09 R220). -/
def prepareReads (l : List (MemAcc × List Spot)) : M Unit := do
  let u ← askS (fun s => unitOf s.cur)
  banksFree (scratchBanks l)
  ((scratchBanks l).map (·.1)).eraseDups.foldl (fun m c => do m; if c = u then pure () else flushPackets c) (pure ())
  (globalSectors l).foldl (fun m sec => do m; waitOwnOps (sec * 128)) (pure ())
  modS (fun s => sendWhere u (fun e => e.hart ≠ s.cur && (globalSectors l).contains e.sector) s)

/-- The L1 takes the sectors of a list of accesses, unless nt says that they do not allocate. -/
def allocateReads (nt : Bool) (l : List (MemAcc × List Spot)) (s : State) : State :=
  if nt then s
  else (globalSectors l).foldl (fun t sec => l1Load (unitOf t.cur) (partOfHart t t.cur) (sec * 128) 128 t) s

/-- The element of a loaded value: six bits of a packed stream, or all of it. -/
def loadedElem (x : MemIn) (a : MemAcc) (v : Nat) : Nat :=
  if x.packed then (v >>> (6 * ((a.slots.headD 0) % 32) % 8)) % 64 else v

/-- The loaded elements merged into earlier data. -/
def mergeLoads (s : State) (x : MemIn) (old : Nat) (l : List (MemAcc × List Spot)) : Nat :=
  l.foldl (fun d e => setElem d x.w (e.1.slots.headD 0) (loadedElem x e.1 (spotsValue s x.h e.2))) old

/-- Reads of sectors, those of host memory one after another: the sectors that came back with an error (00 R4). -/
def hostSectorsM (sectors : List Nat) : M (List Nat) := fun s =>
  let g := s.hart s.cur
  let done := match g.hostRead with
    | some (a, .ready) => g.hostDone ++ [(sectorOf a, true)]
    | some (a, .failed) => g.hostDone ++ [(sectorOf a, false)]
    | _ => g.hostDone
  let secs := sectors.filter (fun sec => isHostNum (sec * 128))
  if secs = [] then .ok ([], s)
  else match secs.find? (fun sec => !done.any (fun e => e.1 = sec)) with
    | none => .ok ((done.filter (fun e => !e.2)).map (·.1), s.setHart s.cur { g with hostRead := none, hostDone := [] })
    | some sec => match g.hostRead with
      | some (_, .pending) => .error (.wait .hostRead)
      | _ => (do beginHostRead (sec * 128) 0; pure [] : M (List Nat)) (s.setHart s.cur { g with hostDone := done })

/-- The host memory reads of a list of accesses. -/
def hostReads (l : List (MemAcc × List Spot)) : M (List Nat) := hostSectorsM (globalSectors l)

/- The end of an execution. -/

/-- The mask of a list of faults. -/
def faultMask (l : List (List Nat × Nat × Nat)) : Mask :=
  BitVec.ofNat 1024 (l.foldl (fun m e => e.1.foldl (fun m i => m ||| 2 ^ i) m) 0)

/-- The fault of the lowest element. -/
def lowestFault (l : List (List Nat × Nat × Nat)) : Option (List Nat × Nat × Nat) :=
  l.foldl (fun b e => match b with
    | none => some e
    | some c => if e.1.headD 0 < c.1.headD 0 then some e else some c) none

/-- An execution ends: with faults their elements are marked, RESUME is set and the lowest is taken (11 R272); otherwise what a
resumed execution held is cleared (R273) and the instruction retires. -/
def endMem (i : Instr) (faults : List (List Nat × Nat × Nat)) : M Unit := fun s =>
  match lowestFault faults with
  | some (_, c, a) =>
    .error (.trapWith c (BitVec.ofNat 64 a) (s.modHart s.cur (fun g => { g with
      vec := { g.vec with vflt := if g.resuming then faultMask faults else g.vec.vflt ||| faultMask faults }
      kstat := { g.kstat with resume := true } })))
  | none =>
    (do
      modMe (fun g =>
        let g := g.modVec (popSources i)
        if g.resuming then { g with resuming := false, vec := { g.vec with vflt := 0 }
                                    kstat := { g.kstat with resume := false, owe := false } }
        else g)
      retireM 8 : M Unit) s

/-- A memory instruction goes on now, or in its turn in the queue; a failing slice of what it reads is rebuilt first (08 R195, R207). -/
def memTurnM (i : Instr) (f : LongFields) (x : XArgs) : M Unit := fun s =>
  let e := captureEntry s.cur i f x (s.hart s.cur)
  if (s.core (unitOf s.cur)).vq = [] ∧ memStartAt s s.cur i ≤ s.now then parityM e s else heldM e s

/-- A register, mask or queue entry under hold among an instruction's sources stops it (08 R206, R208). -/
def heldSourceM (i : Instr) : M Unit := do
  fun s => match heldSource s s.cur i with
    | some m => .error (.trapWith 29 0 (s.modHart s.cur (fun g => g.modVec (fun v => { v with vflt := v.vflt ||| m }))))
    | none => .ok ((), s)

/-- While a partition's lines are re-homed its global accesses wait (09 R223). -/
def waitRehoming (vmt : Nat) : M Unit := do
  if vmt = 0 ∧ (← askS (fun s => (s.part (partOfHart s s.cur)).rehoming.isSome)) then waitM .rehoming else pure ()

/-- The memory pipe that q0 to q3 in d name; every other instruction takes the next in turn (16 R396). -/
def pipeOf (f : LongFields) : Option Nat := if 16 ≤ f.d.toNat ∧ f.d.toNat < 20 then some (f.d.toNat - 16) else none

/-- The turn of the memory pipes passes on behind an instruction of the group. -/
def turnPipe (f : LongFields) (s : State) : State :=
  if (pipeOf f).isSome then s else s.modCore (unitOf s.cur) (fun c => { c with nextPipe := (c.nextPipe + 1) % 4 })

/-- Issue an instruction of the group: its checks and waits, its elements, its layout. -/
def memIssue (i : Instr) (kind : MemKind) (f : LongFields) : M (MemIn × XArgs) := do
  let w := fmtBytes f.ty.toNat
  requireM (← askS (fun s => isVector s.cur && i.wellFormed
    && ((s.hart s.cur).resuming || rowsFit (s.hart s.cur).vec.vlr w)
    && (!kind.indexed || groupLegal (s.hart s.cur) f.b.toNat))) i
  let x ← memOperands i f kind.indexed
  waitField f.w.toNat
  memTurnM i f x
  heldSourceM i
  let g ← me
  let h ← askS (fun s => s.cur)
  waitRehoming g.vec.vmt.toNat
  let lay := if kind.indexed then 0 else wfld x.b 63 48
  let packed := lay = 1
  requireM (!kind.illegalSpace g.vec.vmt.toNat) i
  requireM (lay = 0 || lay = 0xFFFF || (lay = 1 && f.ty = 0 && kind ≠ .acc)) i
  requireM (!(packed && kind = .store && g.vec.vlc % 4 ≠ 0)) i
  let all := (List.range 1024).filter (fun k => g.vec.vflt.getLsbD k)
  let turn ← askS (fun s => (s.core (unitOf s.cur)).nextPipe)
  pure ({ h := h, f := f, kind := kind, w := w, vmt := g.vec.vmt.toNat
          base := x.a + memOffset f (kind = .store && f.nt)
          stride := sextW 48 (wfld x.b 47 0), packed := packed
          slots := if g.resuming then all else g.vec.actives f.pg.toNat g.vec.vlr g.vec.vlc
          vlr := g.vec.vlr, vlc := g.vec.vlc, rm := (capturedRm f g.vec).toNat, resuming := g.resuming
          pipe := (pipeOf f).getD turn }, x)

/-- The translations of an instruction leave a state; its context issues past it from the cycle after the last (09 R237). -/
def lookedM {α : Type} (f : Looked → α × Looked) : M α := fun s =>
  let (a, k) := f { s := s }
  .ok (a, if k.last = 0 then k.s else k.s.modHart s.cur (fun g => { g with readyAt := max g.readyAt (s.now + k.last + 1) }))

/-- The accesses below the first that faults, or all where none below one lies. -/
def beforeFault (l : List Reached) : List Reached :=
  let first := ((faultsOf l).map (fun e => e.1.headD 0)).foldl min 1024
  match l.filter (fun e => e.1.slots.headD 0 < first) with
  | [] => l
  | below => below

/-- Where the accesses of an instruction lead; the reads of host memory are waited for. VLDFF reads none at or above its first fault (16 R400). -/
def reachM (x : MemIn) : M (List Reached) := do
  let v ← askS (fun s => (s.hart x.h).vec)
  let l ← lookedM (x.reachAll [] (x.accesses v))
  let failed ← if x.kind.loads then hostReads (okSpots (if x.kind = .loadFF then beforeFault l else l)) else pure []
  modS (turnPipe x.f)
  if failed = [] then pure l else lookedM (x.reachAll failed (x.accesses v))

/- VLD, VLDFF and VGATHER. -/

/-- Whether a VLD may be looked up and entered (08 R203). -/
def loadEligible (i : Instr) (x : MemIn) (v : VecCtx) : Bool :=
  x.kind = .load && !v.vreuse.getLsbD 0 && !v.vreuse.getLsbD 1 && (x.vmt = 0 || x.vmt = 1 || x.vmt = 4) && x.f.w = 0 && !x.f.nt
    && !usesQueue i && !x.resuming

/-- Whether an instruction writes every element of its register. -/
def MemIn.whole (x : MemIn) : Bool := x.slots.length = 32 * (32 / x.w)

/-- The key of a VLD: with the address space in which its addresses have their meaning. -/
def loadKey (s : State) (x : MemIn) (xs : XArgs) : ReuseKey :=
  let g := s.hart x.h
  { op := 0x140, ty := x.f.ty, imm := x.f.imm, rm := 0, sat := false, pg := x.f.pg, nt := false, ax := false
    fields := (x.f.d.toNat, x.f.a.toNat, x.f.b.toNat, x.f.c.toNat), vlc := x.vlc, vlr := x.vlr, vmt := x.vmt
    masks := [g.vec.getP 0, g.vec.getP x.f.pg.toNat], names := []
    scalars := [xs.a, xs.b, asOfHart s x.h, BitVec.ofNat 64 (partOfHart s x.h), BitVec.ofNat 64 (privNat (dataPriv g))]
    dOld := if x.whole then none else some (g.vec.getName x.f.d.toNat) }

/-- What a load entry covers: sectors of global memory, words of a local memory. -/
def loadCovers (x : MemIn) (l : List (MemAcc × List Spot)) : List (Nat × Nat) :=
  ((l.flatMap (fun e => e.2.map (fun p => (x.vmt, if x.vmt = 0 then sectorOf p.pos else p.pos / 8))))).eraseDups

/-- Whether a load's result may be entered: every global sector lies in the L1, and none has a posted access of the core. -/
def mayEnter (s : State) (u : Nat) (x : MemIn) (l : List (MemAcc × List Spot)) : Bool :=
  x.vmt ≠ 0 || (globalSectors l).all (fun sec =>
    !isHostNum (sec * 128) && l1Hit s u (sec * 128) 128 && !(s.core u).posted.any (fun e => e.sector = sec && inBuffer e))

/-- Perform the loads of an instruction that has no fault below its end. -/
def performLoads (i : Instr) (x : MemIn) (xs : XArgs) (l : List Reached) : M Unit := do
  let ok := okSpots l
  let faults := faultsOf l
  let d := x.f.d.toNat
  let u ← askS (fun s => unitOf s.cur)
  prepareReads ok
  let may ← askS (fun s => loadEligible i x (s.hart x.h).vec && faults = [] && !programRuns s u)
  let key ← askS (fun s => loadKey s x xs)
  let hit ← askS (fun s => if may then (s.core u).reuse.find? (fun r => r.key = key && r.covers = loadCovers x ok) else none)
  if may then modS (countLookup x.h hit.isSome) else pure ()
  match hit with
  | some r => modS (fun s => (reuseTouch u r s).modHart x.h (fun g => g.modVec (fun v => { v with
      v := tblSet v.v d r.result, vname := tblSet v.vname d r.name, vfe := tblDel v.vfe d, vfirst := tblDel v.vfirst d })))
  | none => do
    let g ← me
    let data ← askS (fun s => mergeLoads s x (oldData g d) ok)
    let w ← askS (fun s => loadTimes s u (partOfHart s x.h) (x.whole && ok.length = x.slots.length) x.f.ty.toNat ok)
    modS (allocateReads x.f.nt ok)
    modS (putData x.h d data w (faults = []))
    if may ∧ (← askS (fun s => mayEnter s u x ok)) then
      modS (fun s => reuseEnter u { key := key, result := BitVec.ofNat 8192 data, name := (s.hart x.h).vec.getName d, scalar := none
                                    flagMask := [], vsat := 0, flags := 0, covers := loadCovers x ok } s)
    else pure ()
  endMem i faults

/-- VLD and VGATHER. -/
def vloadM (i : Instr) (kind : MemKind) (f : LongFields) : M Unit := do
  let (x, xs) ← memIssue i kind f
  queueRoomM f.d.toNat
  let l ← reachM x
  let l ← askS (fun s => markHeld s false l)
  performLoads i x xs l

/-- VLDFF (16 R400): it ends before its first ordinary fault, unless no ACTIVE element lies below it. -/
def vldffM (i : Instr) (f : LongFields) : M Unit := do
  let (x, xs) ← memIssue i .loadFF f
  queueRoomM f.d.toNat
  let l ← reachM x
  let first := ((faultsOf l).map (fun e => e.1.headD 0)).foldl min 1024
  let below := l.filter (fun e => e.1.slots.headD 0 < first)
  if first = 1024 ∨ below = [] then do
    let l ← askS (fun s => markHeld s false l)
    performLoads i x xs l
  else do
    let held ← askS (fun s => markHeld s false below)
    if faultsOf held = [] then do
      let drop : Mask := BitVec.ofNat 1024 ((x.slots.filter (fun k => first ≤ k)).foldl (fun m k => m ||| 2 ^ k) 0)
      performLoads i x xs below
      modMe (fun g => g.modVec (fun v => v.setP 0 (v.getP 0 &&& ~~~ drop)))
    else performLoads i x xs held

/- Stores. -/

/-- The last byte given for each place, in the order of the places' last writes. -/
def lastCells (l : List Host.Cell) : List Host.Cell :=
  l.foldl (fun acc c => acc.filter (fun o => o.1 ≠ c.1) ++ [c]) []

/-- The data of a store or add: d as a register, or the head entry of a queue. -/
def dataValue (v : VecCtx) (d : Nat) : Nat := sourceValue v d d 0

/-- The bytes that an access of a store writes: its element, or a packed group of four columns. -/
def storeBytes (x : MemIn) (data : Nat) (a : MemAcc) : List Byte :=
  let i := a.slots.headD 0
  if x.packed then
    leBytes 3 ((List.range 4).foldl (fun n k => n + (elemAt data 1 (i / 4 * 4 + k) % 64) * 2 ^ (6 * k)) 0)
  else leBytes a.n (elemAt data x.w i)

/-- The cells of the stores of a list of accesses, in ascending element order. -/
def storeCells (x : MemIn) (data : Nat) (l : List (MemAcc × List Spot)) : List (Spot × Byte) :=
  l.flatMap (fun e => e.2.zip (storeBytes x data e.1))

/-- The entries of a unit's buffer make room for one more: while it is full all are sent, and the oldest that can be performed is acknowledged
(09 R220; notes/assumptions/109.md). -/
def makeRoom (u : Nat) (s : State) : State :=
  if !bufferFull s u then s
  else
    let s := sendWhere u (fun _ => true) s
    (((s.core u).posted.filter inBuffer).map (·.id)).foldl (fun t id => if bufferFull t u then arrive u id t else t) s

/-- Store cells of one global sector: into an owned line of the L1, or posted (09 R220). -/
def storeSector (h sec : Nat) (cells : List Host.Cell) (s : State) : State :=
  let u := unitOf h
  let a := sec * 128
  let r : Phys := { pa := if isHostNum a then a - hostBase else a, host := isHostNum a }
  match ownedFor u h r s with
  | some t => performCells h cells (cells.foldl (fun t c => l1Dirty u c.1 1 t) (dropLoads u 0 [sec] t))
  | none => postStore h (classOf s u r (partOfHart s h)) cells (makeRoom u s)

/-- Perform the stores of a list of cells: local memories at once, one packet for each other core's scratch, and the global sectors
one by one. -/
def performStores (h : Nat) (cells : List (Spot × Byte)) (s : State) : State :=
  let u := unitOf h
  let pick (p : Spot → Bool) : List Host.Cell := (cells.filter (fun c => p c.1)).map (fun c => (c.1.pos, c.2))
  let s := [1, 3, 4, 5].foldl (fun t space =>
    match pick (fun p => p.space = space && p.core = u) with
    | [] => t
    | l => localWrite u space l t) s
  let owners := ((cells.filter (fun c => c.1.space = 1 && c.1.core ≠ u)).map (fun c => c.1.core)).eraseDups
  let s := owners.foldl (fun t o => postNow h 0 0 (.packet o (pick (fun p => p.space = 1 && p.core = o))) t) s
  let global := pick (fun p => p.space = 0)
  (cellSectors global).foldl (fun t sec => storeSector h sec (lastCells (global.filter (fun c => sectorOf c.1 = sec))) t) s

/-- Wait for room in the posted-store buffer where an access is posted. -/
def postRoomM (l : List (MemAcc × List Spot)) : M Unit := do
  if (globalSectors l) ≠ [] ∧ (← askS (fun s => bufferFull s (unitOf s.cur))) then waitM .postedRoom else pure ()

/-- The banks of the core's own scratch are free. -/
def ownBanksFree (l : List (MemAcc × List Spot)) : M Unit := do
  let u ← askS (fun s => unitOf s.cur)
  banksFree ((scratchBanks l).filter (fun b => b.1 = u))

/-- VST without a progress word, and VSCATTER. -/
def vstoreM (i : Instr) (kind : MemKind) (f : LongFields) : M Unit := do
  let (x, _) ← memIssue i kind f
  let l ← reachM x
  let l ← askS (fun s => markHeld s true l)
  let ok := okSpots l
  postRoomM ok
  ownBanksFree ok
  let data ← askS (fun s => dataValue (s.hart x.h).vec f.d.toNat)
  modS (performStores x.h (storeCells x data ok))
  endMem i (faultsOf l)

/- The progress word (10 R262). -/

/-- Where the progress word lies: its checks come before any element (16 R397). -/
def progressWord (a : Word) : M Phys := do
  if a.toNat % 8 ≠ 0 then trapM 6 a
  else if windowRange a.toNat then trapM 7 a
  else do
    let r ← translateM .store a.toNat 8
    needWhole a.toNat r.num 8
    pure r

/-- The class of a posted access to a global byte. -/
def spotClass (s : State) (h : Nat) (p : Spot) : Nat :=
  if p.space ≠ 0 then 0
  else classOf s (unitOf h) { pa := if isHostNum p.pos then p.pos - hostBase else p.pos, host := isHostNum p.pos } (partOfHart s h)

/-- One progress add: a posted release of device scope, which waits for the accesses with numbers from a first one on below a last. -/
def postProgress (h first last : Nat) (p : Phys) (count : Nat) (s : State) : State :=
  let u := unitOf h
  let a := p.num
  let e := { newPosted s h (sectorOf a) (classOf s u p (partOfHart s h)) (.progress a count first last) with release := true, scope := 3 }
  let s := dropLoads u 0 [sectorOf a] s
  let s := if p.host ∨ isRemote p.pa then s else l1Invalidate u (lineOf a) (sectorMask a 1) s
  addPosted u e (makeRoom u s)

/-- The adds of rows of a strip, ascending: one for each row that holds an element of a list, of their number. lasts names the number past the last
access of each row. -/
def postRows (h first : Nat) (lasts : List Nat) (p : Phys) (slots : List Nat) (rows : List Nat) (s : State) : State :=
  rows.foldl (fun t r =>
    match (slots.filter (fun i => i / 32 = r)).length with
    | 0 => t
    | n => postProgress h first (lasts.getD r 0) p n t) s

/-- The stores of a list of accesses row by row, with the number past the last access of each row. -/
def performRows (x : MemIn) (data : Nat) (l : List (MemAcc × List Spot)) (s : State) : State × List Nat :=
  (List.range 32).foldl (fun (t, lasts) r =>
    let t := performStores x.h (storeCells x data (l.filter (fun e => e.1.slots.headD 0 / 32 = r))) t
    (t, lasts ++ [t.nextId])) (s, [])

/-- VST with nt: the elements row by row, and each row's add, sent behind that row's elements; with faults the adds below the lowest faulting row go
and the others are owed. -/
def vstProgressM (i : Instr) (f : LongFields) : M Unit := do
  let (x, xs) ← memIssue i .store f
  modS (fun s => sendOwn s.cur s)
  let p ← progressWord xs.c
  let l ← reachM x
  let l ← askS (fun s => markHeld s true l)
  let ok := okSpots l
  let strict ← askS (fun s => strictCtx s x.h && (classOf s (unitOf x.h) p (partOfHart s x.h) = 3
    || ok.any (fun e => e.2.any (fun q => spotClass s x.h q = 3)) || postedCount s x.h 3 ≠ 0))
  if strict then trapM 26 xs.c
  else do
    (if (← askS (fun s => bufferFull s (unitOf s.cur))) then waitM .postedRoom else pure ())
    ownBanksFree ok
    let g ← me
    let data := dataValue g.vec f.d.toNat
    let first ← askS (fun s => s.nextId)
    let lasts ← askS (fun s => (performRows x data ok s).2)
    modS (fun s => (performRows x data ok s).1)
    let faults := faultsOf l
    match lowestFault faults with
    | some (slots, _, _) => do
      if x.resuming then pure ()
      else do
        let row := slots.headD 0 / 32
        modS (postRows x.h first lasts p x.slots (List.range row))
        modMe (fun g => { g with kstat := { g.kstat with owe := true, owRow := row }, oweFirst := first })
    | none => do
      if !x.resuming then modS (postRows x.h first lasts p x.slots (List.range 32))
      else if g.kstat.owe then
        modS (postRows x.h g.oweFirst lasts p (g.vec.actives f.pg.toNat x.vlr x.vlc)
          ((List.range x.vlr).filter (fun r => g.kstat.owRow ≤ r)))
      else pure ()
    modS (fun s => progressCheck (unitOf s.cur) s)
    endMem i faults

/- VRRED and VAMOADD. -/

/-- Raise the flags that elements raised; an enabled class traps before anything is sent (11 R275). -/
def raiseM (raised : List (Nat × Nat)) : M Unit := fun s =>
  let v := (s.hart s.cur).vec
  let t := s.modHart s.cur (fun g => g.modVec (fun v => v.raise (classMasks raised) (flagBits raised)))
  match arithTrap v.enabled [raised] with
  | some (k, slot) => .error (.trapWith 30 (arithTval k slot) t)
  | none => .ok ((), t)

/-- VRRED: each element that does not fault sends its contribution. -/
def vrredM (i : Instr) (f : LongFields) : M Unit := do
  let (x, _) ← memIssue i .red f
  let l ← reachM x
  let l ← askS (fun s => markHeld s false l)
  let ok := okSpots l
  postRoomM ok
  let data ← askS (fun s => dataValue (s.hart x.h).vec f.d.toNat)
  let sums := ok.map (fun e =>
    let k := e.1.slots.headD 0
    (k, e.2, contribution f.ty.toNat (elemAt data x.w k)))
  raiseM ((sums.map (fun e => (e.1, e.2.2.2))).filter (fun e => e.2 ≠ 0))
  modS (fun s => sums.foldl (fun t e => match e.2.1, e.2.2.1 with
    | p :: _, some n =>
      let u := unitOf x.h
      let t := dropLoads u 0 [sectorOf p.pos] t
      let t := if isRemote p.pos then t else l1Invalidate u (lineOf p.pos) (sectorMask p.pos 1) t
      postNow x.h (sectorOf p.pos) (spotClass t x.h p) (.contribute p.pos (BitVec.ofNat 128 n)) (makeRoom u t)
    | _, _ => t) s)
  endMem i (faultsOf l)

/-- VAMOADD: each element adds at its home; the elements of another core's scratch go as one packet. -/
def vamoaddM (i : Instr) (f : LongFields) : M Unit := do
  let (x, _) ← memIssue i .add f
  let l ← reachM x
  let l ← askS (fun s => markHeld s false l)
  let ok := okSpots l
  postRoomM ok
  ownBanksFree ok
  let data ← askS (fun s => dataValue (s.hart x.h).vec f.d.toNat)
  let adds : List (Spot × Word) := ok.filterMap (fun e => (e.2.head?).map (fun p => (p, BitVec.ofNat 64 (elemAt data x.w (e.1.slots.headD 0)))))
  let u ← askS (fun s => unitOf s.cur)
  modS (fun s => adds.foldl (fun t e =>
    if e.1.space = 1 ∧ e.1.core = u then performOp (newPosted t x.h 0 0 (.packetAdd u [(e.1.pos, f.ty, e.2)])) t
    else if e.1.space = 0 then
      let t := dropLoads u 0 [sectorOf e.1.pos] t
      let t := if isRemote e.1.pos then t else l1Invalidate u (lineOf e.1.pos) (sectorMask e.1.pos 1) t
      postNow x.h (sectorOf e.1.pos) (spotClass t x.h e.1) (.fadd e.1.pos f.ty e.2) (makeRoom u t)
    else t) s)
  let owners := ((adds.filter (fun e => e.1.space = 1 && e.1.core ≠ u)).map (fun e => e.1.core)).eraseDups
  modS (fun s => owners.foldl (fun t o => postNow x.h 0 0 (.packetAdd o
    ((adds.filter (fun e => e.1.space = 1 && e.1.core = o)).map (fun e => (e.1.pos, f.ty, e.2)))) t) s)
  endMem i (faultsOf l)

/- VLDACC. -/

/-- The exponent of the accumulators of a format context (12 R305). -/
def FormatCtx.exponent (k : FormatCtx) : Int :=
  if k.afmt = 8 then -23
  else if k.afmt = 0 then 0
  else if k.afmt = 5 then sintOf 8 k.anchor.toNat
  else if k.afmt = 9 ∧ k.wfmt = 9 then -18
  else -32

/-- The exponent with which an accumulator at an offset is read (16 R406): format context k mod 8, row and column scales. -/
def accExponent (s : State) (u off : Nat) : Int :=
  let k := tblGet ({} : FormatCtx) (s.cluster (u / 8)).fmt (u % 8)
  let q := off / 16
  k.exponent + sintOf 8 (tblGet (0 : BitVec 8) k.rowScale (q / 64)).toNat + sintOf 8 (tblGet (0 : BitVec 8) k.colScale (q % 64)).toNat

/-- VLDACC (16 R406, R407). -/
def vldaccM (i : Instr) (f : LongFields) : M Unit := do
  let (x, _) ← memIssue i .acc f
  queueRoomM f.d.toNat
  let l ← reachM x
  let l ← askS (fun s => markHeld s false l)
  let ok := okSpots l
  prepareReads ok
  let u ← askS (fun s => unitOf s.cur)
  let rs : List (Nat × FRes) ← askS (fun s => ok.map (fun e =>
    let n := sintOf 128 (spotsValue s x.h e.2)
    (e.1.slots.headD 0, accTo f.ty.toNat x.rm n (if x.vmt = 5 then accExponent s u e.1.addr else -64))))
  raiseM ((rs.map (fun r => (r.1, r.2.flags))).filter (fun r => r.2 ≠ 0))
  let g ← me
  let data := rs.foldl (fun d r => setElem d x.w r.1 r.2.bits) (oldData g f.d.toNat)
  modMe (fun g => g.modVec (fun v => v.saturate (BitVec.ofNat 1024 (rs.foldl (fun m r => if r.2.sat then m ||| 2 ^ r.1 else m) 0))))
  let w ← askS (fun s => loadTimes s u (partOfHart s x.h) (x.whole && ok.length = x.slots.length) f.ty.toNat ok)
  modS (allocateReads false ok)
  modS (putData x.h f.d.toNat data w (faultsOf l = []))
  endMem i (faultsOf l)

/- VSAVE and VRSTR. -/

/-- What VSAVE and VRSTR check: every byte is translated and checked before any is performed. -/
def wholeReg (i : Instr) (f : LongFields) (acc : Acc) : M (MemAcc × List Spot) := do
  requireM (← askS (fun s => isVector s.cur && i.wellFormed)) i
  let x ← operandsM i
  waitField f.w.toNat
  memTurnM i f x
  heldSourceM i
  let vmt ← askS (fun s => (s.hart s.cur).vec.vmt.toNat)
  waitRehoming vmt
  let va := (x.a + memOffset f false).toNat
  if acc = .load ∧ vmt = 5 then illegalM i
  else if (acc = .load ∧ vmt = 3) ∨ (acc = .store ∧ vmt = 5) then trapM acc.accessFault (BitVec.ofNat 64 va)
  else do
    let h ← askS (fun s => s.cur)
    match (← lookedM (reachEach h 0 acc vmt va 1024)) with
    | .error (c, a) => trapKeepM c (BitVec.ofNat 64 a)
    | .ok (l, late) => do
      match (← askS (fun s => l.findIdx? (fun p => spotHeld s p && !(acc = .store && spotCovered l p)))) with
      | some j => trapKeepM 29 (BitVec.ofNat 64 ((va + j) % 2 ^ 64))
      | none => pure ({ slots := [0], addr := va, n := 1024, late := late }, l)

/-- VSAVE: it stores the bytes of v[d], once no result is pending there. -/
def vsaveM (f : LongFields) : M Unit := do
  let (acc, l) ← wholeReg (.vsave f) f .store
  postRoomM [(acc, l)]
  ownBanksFree [(acc, l)]
  modS (fun s => performStores s.cur (l.zip (leBytes 1024 ((s.hart s.cur).vec.getV f.d.toNat).toNat)) s)
  retireM 8

/-- VRSTR: it loads all bytes of v[d], which is full. -/
def vrstrM (f : LongFields) : M Unit := do
  let (acc, l) ← wholeReg (.vrstr f) f .load
  let failed ← hostReads [(acc, l)]
  match l.findIdx? (fun p => p.space = 0 && failed.contains (sectorOf p.pos)) with
  | some j => trapM 5 (BitVec.ofNat 64 ((acc.addr + j) % 2 ^ 64))
  | none => do
    prepareReads [(acc, l)]
    let u ← askS (fun s => unitOf s.cur)
    let data ← askS (fun s => spotsValue s s.cur l)
    let w ← askS (fun s => loadTimes s u (partOfHart s s.cur) true 0 [(acc, l)])
    modS (allocateReads false [(acc, l)])
    modS (fun s => setVReg s.cur f.d.toNat (BitVec.ofNat 8192 data) w s)
    retireM 8

/- SAMO (16 R408). -/

/-- The scope and the order of a SAMO. -/
def samoScope (f : LongFields) : Nat := f.imm.toNat % 8
def samoAcquires (f : LongFields) : Bool := f.imm.getLsbD 3
def samoReleases (f : LongFields) : Bool := f.imm.getLsbD 4

/-- A SAMO of a kind: its operands, its alignment (a load takes cause 4 for it; notes/assumptions/110.md), its waits, and one scoped access. -/
def samoM (i : Instr) (kind : Nat) (f : LongFields) : M Unit := do
  requireM (← askS (fun s => (isVector s.cur || isControl s.cur) && i.wellFormed)) i
  let x ← operandsM i
  let n := 2 ^ f.ty.toNat
  let acc : Acc := if kind = 0 then .load else .store
  if x.a.toNat % n ≠ 0 then trapM (if kind = 0 then 4 else 6) x.a
  else do
    waitField f.w.toNat
    let p ← resolve acc x.a.toNat n true
    let way ← if samoReleases f then releaseFor p (samoScope f) x.a else pure .plain
    modS (fun s => sendOwn s.cur s)
    (if kind = 0 then do
      let (v, lat) ← loadPlace p x.a.toNat n f.d
      loadReturns f.d (extend n true v) lat
    else if kind = 1 then storePlace p x.a.toNat n (x.b.toNat % 2 ^ (8 * n)) way (samoScope f)
    else amoPlace p x.a.toNat kind n x.b x.c f.d way (samoScope f)
      (if samoAcquires f then some (samoScope f) else none))
    if samoAcquires f then acquire (samoScope f) else pure ()
    retireM 8

/-- VSAVE (15 R381). -/
def execVsave (f : LongFields) (s : State) : Host.Outcome State Fault Refusal := runM (vsaveM f) s

/-- VRSTR (15 R381). -/
def execVrstr (f : LongFields) (s : State) : Host.Outcome State Fault Refusal := runM (vrstrM f) s

/-- VLD (16 R399). -/
def execVld (f : LongFields) (s : State) : Host.Outcome State Fault Refusal := runM (vloadM (.vld f) .load f) s

/-- VLDFF (16 R400). -/
def execVldff (f : LongFields) (s : State) : Host.Outcome State Fault Refusal := runM (vldffM (.vldff f) f) s

/-- VGATHER (16 R401). -/
def execVgather (f : LongFields) (s : State) : Host.Outcome State Fault Refusal := runM (vloadM (.vgather f) .gather f) s

/-- VST (16 R402). -/
def execVst (f : LongFields) (s : State) : Host.Outcome State Fault Refusal :=
  runM (if f.nt then vstProgressM (.vst f) f else vstoreM (.vst f) .store f) s

/-- VSCATTER (16 R403). -/
def execVscatter (f : LongFields) (s : State) : Host.Outcome State Fault Refusal := runM (vstoreM (.vscatter f) .scatter f) s

/-- VRRED (16 R404). -/
def execVrred (f : LongFields) (s : State) : Host.Outcome State Fault Refusal := runM (vrredM (.vrred f) f) s

/-- VAMOADD (16 R405). -/
def execVamoadd (f : LongFields) (s : State) : Host.Outcome State Fault Refusal := runM (vamoaddM (.vamoadd f) f) s

/-- VLDACC (16 R406, R407). -/
def execVldacc (f : LongFields) (s : State) : Host.Outcome State Fault Refusal := runM (vldaccM (.vldacc f) f) s

/-- SAMO LOAD (16 R408). -/
def execSamoLoad (f : LongFields) (s : State) : Host.Outcome State Fault Refusal := runM (samoM (.samoLoad f) 0 f) s

/-- SAMO STORE (16 R408). -/
def execSamoStore (f : LongFields) (s : State) : Host.Outcome State Fault Refusal := runM (samoM (.samoStore f) 1 f) s

/-- SAMO ADD (16 R408). -/
def execSamoAdd (f : LongFields) (s : State) : Host.Outcome State Fault Refusal := runM (samoM (.samoAdd f) 2 f) s

/-- SAMO SWAP (16 R408). -/
def execSamoSwap (f : LongFields) (s : State) : Host.Outcome State Fault Refusal := runM (samoM (.samoSwap f) 3 f) s

/-- SAMO AND (16 R408). -/
def execSamoAnd (f : LongFields) (s : State) : Host.Outcome State Fault Refusal := runM (samoM (.samoAnd f) 4 f) s

/-- SAMO OR (16 R408). -/
def execSamoOr (f : LongFields) (s : State) : Host.Outcome State Fault Refusal := runM (samoM (.samoOr f) 5 f) s

/-- SAMO XOR (16 R408). -/
def execSamoXor (f : LongFields) (s : State) : Host.Outcome State Fault Refusal := runM (samoM (.samoXor f) 6 f) s

/-- SAMO MIN (16 R408). -/
def execSamoMin (f : LongFields) (s : State) : Host.Outcome State Fault Refusal := runM (samoM (.samoMin f) 7 f) s

/-- SAMO MAX (16 R408). -/
def execSamoMax (f : LongFields) (s : State) : Host.Outcome State Fault Refusal := runM (samoM (.samoMax f) 8 f) s

/-- SAMO MINU (16 R408). -/
def execSamoMinu (f : LongFields) (s : State) : Host.Outcome State Fault Refusal := runM (samoM (.samoMinu f) 9 f) s

/-- SAMO MAXU (16 R408). -/
def execSamoMaxu (f : LongFields) (s : State) : Host.Outcome State Fault Refusal := runM (samoM (.samoMaxu f) 10 f) s

/-- SAMO CAS (16 R408). -/
def execSamoCas (f : LongFields) (s : State) : Host.Outcome State Fault Refusal := runM (samoM (.samoCas f) 11 f) s

end Sys2Proof.Machine
end

