-- ==== Sys2Proof/Machine/Bench.lean ====
section
/-! DEFINITION. The Bench (17 R420–R433; 12 R305–R310): the checks of its instructions at issue on context 1 of a control core, the
command queue, and what the Bench does with an accepted instruction. -/

namespace Sys2Proof.Machine

/- Formats (17 R422, R424). -/

/-- The accepted input pairs. -/
def benchPairOk (p : Nat × Nat) : Bool :=
  [(8, 8), (0, 0), (9, 9), (9, 10), (10, 9), (10, 10), (5, 5)].contains p

/-- The depth along the reduction axis of a format. -/
def benchDepth (fmt : Nat) : Nat := if fmt = 8 then 512 else if fmt = 5 then 128 else 256

/-- The bytes of an activation row or of a plane column. -/
def benchRowBytes (fmt : Nat) : Nat := if fmt = 8 then 384 else 256

/-- The bits of one element in memory. -/
def benchBits (fmt : Nat) : Nat := if fmt = 8 then 6 else if fmt = 5 then 16 else 8

/-- A format context of a cluster. -/
def Cluster.format (c : Cluster) (j : Nat) : FormatCtx := tblGet {} c.fmt j

/-- The input pair of a format context. -/
def FormatCtx.pair (k : FormatCtx) : Nat × Nat := (k.afmt, k.wfmt)

/-- The input pair of a plane. -/
def Plane.pair (p : Plane) : Nat × Nat := (p.afmt, p.wfmt)

/- Products (12 R306–R308). -/

/-- T[k] of the L6 product table. -/
def l6Table (k : Nat) : Nat := match k with
  | 0 => 0x8000
  | 1 => 0x9838
  | 2 => 0xB505
  | _ => 0xD744

/-- A product: its contribution in units of 2^P, and whether it sets INVALID or INEXACT. -/
structure BenchProd where
  value : Int := 0
  invalid : Bool := false
  inexact : Bool := false

/-- The product of two L6 codes. -/
def l6Prod (a b : Nat) : BenchProd :=
  if a = 0x30 ∨ b = 0x30 then { invalid := true }
  else if a = 0x10 ∨ b = 0x10 then {}
  else
    let sigma := sintOf 5 a + sintOf 5 b
    let k := (sigma % 4).toNat
    let e := sigma / 4
    let mag := l6Table k * 2 ^ (e + 8).toNat
    { value := signed (bitOf a 5 ≠ bitOf b 5) mag }

/-- The product of two operands of a pair, with the anchor exponent. -/
def benchProd (pair : Nat × Nat) (p : Int) (a b : Nat) : BenchProd :=
  if pair.1 = 8 then l6Prod a b
  else if pair.1 = 0 then { value := sintOf 8 a * sintOf 8 b }
  else match decodeF pair.1 a, decodeF pair.2 b with
    | .fin n1 m1 e1, .fin n2 m2 e2 =>
      if pair.1 = 5 then
        let (v, nx) := roundInt 0 (n1 ≠ n2) (m1 * m2) (e1 + e2 - p) false
        { value := v, inexact := nx }
      else { value := signed (n1 ≠ n2) (shl (m1 * m2) (e1 + e2 - p)) }
    | _, _ => { invalid := true }

/-- The exact sum of the products of a row and a column, with what they set. -/
def benchDot (pair : Nat × Nat) (p : Int) (row col : Nat) : BenchProd :=
  let n := benchBits pair.1
  let m := benchBits pair.2
  (List.range (benchDepth pair.1)).foldl (fun acc k =>
    let r := benchProd pair p ((row >>> (n * k)) % 2 ^ n) ((col >>> (m * k)) % 2 ^ m)
    { value := acc.value + r.value, invalid := acc.invalid || r.invalid, inexact := acc.inexact || r.inexact }) {}

/- Operands (17 R424, R425, R427, R429, R430). -/

/-- Whether only the bits of a mask are set in an operand. -/
def onlyBits (w : Word) (mask : Nat) : Bool := w &&& ~~~ (BitVec.ofNat 64 mask) = 0

/-- The context, the rows and the first C row that x[a] of BSTREAM and BCLR names. -/
def streamArgs (xa : Word) : Nat × Nat × Nat := (wfld xa 2 0, wfld xa 15 8 + 1, wfld xa 23 16)

/-- The hart that a BSYNC of a cluster names, if it is allowed. -/
def bsyncTarget (c : Nat) (xa : Word) : Option Nat :=
  let ctx := wfld xa 3 0
  let unit := wfld xa 12 4
  match wfld xa 15 13 with
  | 0 => if ctx ≠ 0 ∧ unit / 8 = c % 64 then some (hartOf (8 * c + unit % 8) ctx) else none
  | 1 => if ctx = 1 ∧ unit = c % 64 then some (0x10000 + 2 * c + 1) else none
  | _ => none

/- The Bench state that the accepted instructions will leave (17 R421). -/

/-- What the checks at issue depend on: the pairs of the format contexts, of the active plane and of the shadow plane. -/
structure BenchView where
  pairs : Tbl (Nat × Nat)
  active : Option (Nat × Nat)
  shadow : Option (Nat × Nat)

/-- The present state of a cluster's Bench as its checks see it. -/
def Cluster.view (c : Cluster) : BenchView :=
  { pairs := c.fmt.map (fun e => (e.1, e.2.pair)), active := c.active.map Plane.pair, shadow := c.shadow.map Plane.pair }

/-- The pair of a format context in a view. -/
def BenchView.pair (v : BenchView) (j : Nat) : Nat × Nat := tblGet (8, 8) v.pairs j

/-- A view after one accepted instruction. -/
def BenchView.after (v : BenchView) (c : BenchCmd) : BenchView :=
  match c.instr with
  | .bfmtFormat _ | .bfmtRowScales _ | .bfmtColumnScales _ =>
    if wfld c.xa 9 8 = 0 then { v with pairs := tblSet v.pairs (wfld c.xa 2 0) (wfld c.xb 3 0, wfld c.xb 7 4) } else v
  | .bls _ => { v with shadow := some (v.pair (wfld c.xa 2 0)) }
  | .bswap _ => { v with active := v.shadow, shadow := none }
  | _ => v

/-- The view at issue. -/
def benchView (s : State) (c : Nat) : BenchView := (s.cluster c).bench.foldl BenchView.after (s.cluster c).view

/- Issue. -/

/-- The cluster of the executing hart, a control core's. -/
def myCluster (s : State) : Nat := (s.cur - 0x10000) / 2

/-- The commands that the Bench queues (17 R420). -/
def benchDepthQueue : Nat := 8

/-- The start of an instruction on rows c0 to c0 + n − 1 of a core's accumulators: no earlier than their last writes (17 R428). -/
def BenchTimes.rowsFree (b : BenchTimes) (core c0 n t : Nat) : Nat :=
  b.tails.foldl (fun t e => if e.1 = core ∧ e.2.1 < c0 + n ∧ c0 < e.2.1 + e.2.2.1 then max t e.2.2.2 else t) t

/-- The timetable after an instruction that is accepted at a cycle, and the cycle at which that instruction is complete, no earlier
than those before it (17 R426, R428). -/
def BenchTimes.accept (b : BenchTimes) (v : BenchView) (now : Nat) (i : Instr) (xa : Word) : BenchTimes × Nat :=
  let start := max now b.free
  let (m, rows, c0) := streamArgs xa
  let tails := b.tails.filter (fun e => now < e.2.2.2)
  match i with
  | .bls _ =>
    let done := (match b.overlap with
      | some t => max now t
      | none => start) + (if (v.pair m).1 = 8 then 24 else 16)
    let last := max b.last done
    ({ free := max b.free done, overlap := none, tails := tails, last := last }, last)
  | .bstream _ =>
    let start := b.rowsFree m c0 rows start
    let last := max b.last (start + rows + 31)
    ({ free := start + rows, overlap := some start, tails := tails ++ [(m, c0, rows, start + rows + 31)], last := last }, last)
  | .bclr _ =>
    let done := b.rowsFree m c0 rows start + rows
    let last := max b.last done
    ({ free := done, overlap := none, tails := tails ++ [(m, c0, rows, done - 1)], last := last }, last)
  | .bsync _ =>
    let last := max start b.last
    ({ free := last, overlap := none, tails := tails, last := last }, last)
  | _ =>
    let last := max b.last (start + 1)
    ({ free := start + 1, overlap := none, tails := tails, last := last }, last)

/-- What every Bench instruction meets first: only context 1 of a control core executes it, its operands are read, and a failure of an
earlier one is reported (17 R420, R433). -/
def benchEnter (i : Instr) : M XArgs := do
  requireM (← askS (fun s => isControl s.cur && ctxOf s.cur = 1 && i.wellFormed)) i
  let x ← operandsM i
  let c ← askS myCluster
  match (← askS (fun s => (s.cluster c).benchFail)) with
  | some (off, _) => do
    modS (fun s => s.modCluster c (fun k => { k with benchFail := none }))
    trapKeepM 29 (BitVec.ofNat 64 off)
  | none => pure x

/-- The lowest code of a list of checks that fails (17 R421). -/
def benchCheck (l : List (Nat × Bool)) : M Unit :=
  match l.find? (fun e => !e.2) with
  | some (code, _) => trapM 27 (BitVec.ofNat 64 code)
  | none => pure ()

/-- Hand an instruction to the command queue. -/
def benchAccept (i : Instr) (x : XArgs) (bytes : List Byte) : M Unit := do
  let c ← askS myCluster
  let g ← me
  if (← askS (fun s => decide (benchDepthQueue ≤ (s.cluster c).bench.length))) then waitM .benchRoom
  else do
    modS (fun s =>
      let (times, done) := (s.cluster c).times.accept (benchView s c) s.now i x.a
      let cmd : BenchCmd := { instr := i, pc := g.pc, xa := x.a, xb := x.b, xc := x.c, bytes := bytes, done := done }
      let first := (s.cluster c).bench = []
      let s := s.modCluster c (fun k => { k with bench := k.bench ++ [cmd], times := times })
      if first then s.schedule done (.benchExecute c) else s)
    retireM 8

/-- Wait until the command queue is empty and the Bench idle. -/
def benchIdleM : M Unit := fun s =>
  if (s.cluster (myCluster s)).bench = [] then .ok ((), s) else .error (.wait .benchIdle)

/-- The bytes at a VA of a control core, each translated and checked before any is used. -/
def ctrlReach (acc : Acc) : Nat → Nat → M (List Spot)
  | _, 0 => pure []
  | va, n + 1 => do
    let r ← translateM acc (va % 2 ^ 64) 1
    let l ← ctrlReach acc (va + 1) n
    pure ({ core := 0, space := 0, pos := r.num } :: l)

/-- Read n bytes at a VA as plain loads of the executing context. -/
def ctrlRead (va n : Nat) : M (List Byte) := do
  waitRehoming 0
  let l ← ctrlReach .load va n
  match (← askS (fun s => l.findIdx? (spotHeld s))) with
  | some j => trapM 29 (BitVec.ofNat 64 (va + j))
  | none => do
    let acc : MemAcc := { slots := [0], addr := va, n := n }
    let failed ← hostReads [(acc, l)]
    match l.findIdx? (fun p => failed.contains (sectorOf p.pos)) with
    | some j => trapM 5 (BitVec.ofNat 64 (va + j))
    | none => do
      prepareReads [(acc, l)]
      modS (allocateReads false [(acc, l)])
      askS (fun s => l.map (spotByte s s.cur))

/-- Write bytes at a VA as plain stores of the executing context. -/
def ctrlWrite (va : Nat) (bs : List Byte) : M Unit := do
  waitRehoming 0
  let l ← ctrlReach .store va bs.length
  match (← askS (fun s => l.findIdx? (fun p => spotHeld s p && !spotCovered l p))) with
  | some j => trapM 29 (BitVec.ofNat 64 (va + j))
  | none => do
    postRoomM [({ slots := [0], addr := va, n := bs.length }, l)]
    modS (fun s => performStores s.cur (l.zip bs) s)

/-- BFMT: the part that OP names (17 R424). -/
def bfmtM (i : Instr) : M Unit := do
  let x ← benchEnter i
  let op := wfld x.a 9 8
  benchCheck [(1, onlyBits x.a 0x307 && op ≠ 3 && (op ≠ 0 || onlyBits x.b 0xFF00FF)),
    (2, op ≠ 0 || benchPairOk (wfld x.b 3 0, wfld x.b 7 4))]
  let c ← askS myCluster
  if (← askS (fun s => decide (benchDepthQueue ≤ (s.cluster c).bench.length))) then waitM .benchRoom
  else do
    let bytes ← if op = 1 then ctrlRead x.b.toNat 256 else if op = 2 then ctrlRead x.b.toNat 64 else pure []
    benchAccept i x bytes

/-- BLS (17 R425). -/
def blsM (i : Instr) : M Unit := do
  let x ← benchEnter i
  let c ← askS myCluster
  let fmt ← askS (fun s => ((benchView s c).pair (wfld x.a 2 0)).1)
  benchCheck [(1, onlyBits x.a 7), (4, x.b.toNat % 1024 = 0 && x.b.toNat + 64 * benchRowBytes fmt ≤ 0x40000)]
  benchAccept i x []

/-- BSWAP (17 R426). -/
def bswapM (i : Instr) : M Unit := do
  let x ← benchEnter i
  let c ← askS myCluster
  benchCheck [(5, (← askS (fun s => (benchView s c).shadow)).isSome)]
  benchAccept i x []

/-- BSTREAM (17 R427). -/
def bstreamM (i : Instr) : M Unit := do
  let x ← benchEnter i
  let c ← askS myCluster
  let (m, rows, c0) := streamArgs x.a
  let v ← askS (fun s => benchView s c)
  let off := x.b.toNat
  let stride := x.c.toNat
  benchCheck [(1, onlyBits x.a 0xFFFF07), (3, v.active = some (v.pair m)),
    (4, off % 128 = 0 && stride % 128 = 0 && off < 2 ^ 18 && stride < 2 ^ 18 && c0 + rows ≤ 256
      && off + (rows - 1) * stride + benchRowBytes (v.pair m).1 ≤ 0x40000)]
  benchAccept i x []

/-- BCLR (17 R429). -/
def bclrM (i : Instr) : M Unit := do
  let x ← benchEnter i
  let (_, rows, c0) := streamArgs x.a
  benchCheck [(1, onlyBits x.a 0xFFFF07), (4, c0 + rows ≤ 256)]
  benchAccept i x []

/-- BSYNC (17 R430). -/
def bsyncM (i : Instr) : M Unit := do
  let x ← benchEnter i
  let c ← askS myCluster
  benchCheck [(1, wfld x.a 63 16 = 0), (6, (bsyncTarget c x.a).isSome)]
  benchAccept i x []

/-- BSTAT (17 R431). -/
def bstatM (i : Instr) (f : LongFields) : M Unit := do
  let x ← benchEnter i
  benchCheck [(1, onlyBits x.a 0x107)]
  benchIdleM
  let c ← askS myCluster
  let j := wfld x.a 2 0
  let k ← askS (fun s => s.cluster c)
  let q := k.format j
  writeX f.d.toNat (BitVec.ofNat 64 (natOf q.overflow + 2 * natOf q.inexact + 4 * natOf q.invalid + q.afmt * 2 ^ 8
    + q.wfmt * 2 ^ 12 + q.anchor.toNat * 2 ^ 16 + natOf (k.active.map Plane.pair = some q.pair) * 2 ^ 24
    + natOf k.shadow.isSome * 2 ^ 25))
  (if x.a.getLsbD 8 then
    modS (fun s => s.modCluster c (fun k => { k with fmt := tblSet k.fmt j { q with overflow := false, inexact := false, invalid := false } }))
  else pure ())
  retireM 8

/-- The record of a format context (17 R432). -/
def formatRecord (q : FormatCtx) : List Byte :=
  leBytes 8 (q.afmt + q.wfmt * 2 ^ 4 + q.anchor.toNat * 2 ^ 8 + natOf q.overflow * 2 ^ 16 + natOf q.inexact * 2 ^ 17
      + natOf q.invalid * 2 ^ 18)
    ++ leBytes 56 0 ++ (List.range 256).map (fun k => tblGet 0 q.rowScale k) ++ (List.range 64).map (fun k => tblGet 0 q.colScale k)
    ++ leBytes 128 0

/-- The scales that bytes give, as a table that lists no zero. -/
def scaleTable (bs : List Byte) : Tbl (BitVec 8) :=
  ((List.range bs.length).map (fun k => (k, nth 0 bs k))).filter (fun e => e.2 ≠ 0)

/-- The format context of a record; none where BRSTR rejects it. -/
def formatOfRecord (bs : List Byte) : Option FormatCtx :=
  let w := leNat (bs.take 8)
  let pair := (fld w 3 0, fld w 7 4)
  if fld w 63 19 ≠ 0 ∨ leNat ((bs.drop 8).take 56) ≠ 0 ∨ leNat (bs.drop 0x180) ≠ 0 ∨ !benchPairOk pair then none
  else some { afmt := pair.1, wfmt := pair.2, anchor := BitVec.ofNat 8 (fld w 15 8), overflow := bitOf w 16, inexact := bitOf w 17
              invalid := bitOf w 18, rowScale := scaleTable ((bs.drop 0x40).take 256), colScale := scaleTable ((bs.drop 0x140).take 64) }

/-- BSAVE (17 R432). -/
def bsaveM (i : Instr) : M Unit := do
  let x ← benchEnter i
  benchCheck [(1, onlyBits x.a 7)]
  if x.b.toNat % 64 ≠ 0 then trapM 6 x.b
  else do
    benchIdleM
    let c ← askS myCluster
    let q ← askS (fun s => (s.cluster c).format (wfld x.a 2 0))
    ctrlWrite x.b.toNat (formatRecord q)
    retireM 8

/-- BRSTR (17 R432). -/
def brstrM (i : Instr) : M Unit := do
  let x ← benchEnter i
  benchCheck [(1, onlyBits x.a 7)]
  if x.b.toNat % 64 ≠ 0 then trapM 4 x.b
  else do
    benchIdleM
    let c ← askS myCluster
    let bs ← ctrlRead x.b.toNat 512
    match formatOfRecord bs with
    | none => trapM 27 7
    | some q => do
      modS (fun s => s.modCluster c (fun k => { k with fmt := tblSet k.fmt (wfld x.a 2 0) q }))
      retireM 8

/- Execution. -/

/-- The first word under hold in n bytes of a local memory of a core: its offset. -/
def heldWord (s : State) (core space off n : Nat) : Option Nat :=
  let l := (s.core core).failingWords
  if l = [] then none
  else ((List.range ((n + 7) / 8)).find? (fun i => l.contains (space, off / 8 + i))).map (fun i => (off / 8 + i) * 8)

/-- The offset of an accumulator of a row. -/
def accOffset (row col : Nat) : Nat := (row * 64 + col) * 16

/-- One row of a stream: the accumulators of one C row take the products of one activation row (17 R427; 12 R309). -/
def streamRow (c m : Nat) (plane : Plane) (aoff crow : Nat) (s : State) : State :=
  let q := (s.cluster c).format m
  let u := 8 * c + m
  let rb := benchRowBytes q.afmt
  let row := memRead (s.core u).abuf aoff rb
  let out := (List.range 64).map (fun n =>
    let r := benchDot q.pair q.exponent row (fld plane.data (8 * rb * (n + 1) - 1) (8 * rb * n))
    let t := sintOf 128 (memRead (s.core u).cbuf (accOffset crow n) 16) + r.value
    (r, t))
  let cells := cellsAt (accOffset crow 0) (out.flatMap (fun e => leBytes 16 (wrapInt 128 e.2)))
  let big (t : Int) : Bool := t < -((2 ^ 127 : Nat) : Int) || t ≥ ((2 ^ 127 : Nat) : Int)
  (localWrite u 5 cells s).modCluster c (fun k => { k with fmt := tblSet k.fmt m { q with
    overflow := q.overflow || out.any (fun e => big e.2)
    invalid := q.invalid || out.any (fun e => e.1.invalid), inexact := q.inexact || out.any (fun e => e.1.inexact) } })

/-- The rows of a stream from row i on; a row whose data are under hold stops it, with the offset of the word. -/
def streamRows (c m : Nat) (plane : Plane) (off stride c0 : Nat) : Nat → Nat → State → State × Option Nat
  | 0, _, s => (s, none)
  | n + 1, i, s =>
    let u := 8 * c + m
    let rb := benchRowBytes ((s.cluster c).format m).afmt
    match heldWord s u 4 (off + i * stride) rb with
    | some w => (s, some w)
    | none => match heldWord s u 5 (accOffset (c0 + i) 0) 1024 with
      | some w => (s, some w)
      | none => streamRows c m plane off stride c0 n (i + 1) (streamRow c m plane (off + i * stride) (c0 + i) s)

/-- The token of a BSYNC (17 R430; 11 R283). -/
def benchToken (c target : Nat) (payload : Word) (s : State) : State :=
  let tag := BitVec.ofNat 16 (0x6000 + (c % 64) * 2 ^ 4)
  let k := (s.core (unitOf target)).kcut
  if isVector target ∧ k.recorded then (if k.pend.getLsbD 3 then messageArrive target 3 payload tag s else s)
  else placeToken target payload tag s

/-- An accepted instruction takes effect; with the offset of the word under hold that stopped it. -/
def benchDo (c : Nat) (cmd : BenchCmd) (s : State) : State × Option Nat :=
  let k := s.cluster c
  let j := wfld cmd.xa 2 0
  match cmd.instr with
  | .bfmtFormat _ | .bfmtRowScales _ | .bfmtColumnScales _ =>
    let q := k.format j
    let q := match wfld cmd.xa 9 8 with
      | 0 => { q with afmt := wfld cmd.xb 3 0, wfmt := wfld cmd.xb 7 4, anchor := BitVec.ofNat 8 (wfld cmd.xb 23 16) }
      | 1 => { q with rowScale := scaleTable cmd.bytes }
      | _ => { q with colScale := scaleTable cmd.bytes }
    (s.modCluster c (fun k => { k with fmt := tblSet k.fmt j q }), none)
  | .bls _ =>
    let q := k.format j
    let off := cmd.xb.toNat
    let n := 64 * benchRowBytes q.afmt
    match heldWord s (8 * c + j) 3 off n with
    | some w => (s.modCluster c (fun k => { k with shadow := none }), some w)
    | none =>
      (s.modCluster c (fun k => { k with shadow := some { afmt := q.afmt, wfmt := q.wfmt
                                                          data := memRead (s.core (8 * c + j)).wbuf off n } }), none)
  | .bswap _ => (s.modCluster c (fun k => { k with active := k.shadow, shadow := none }), none)
  | .bstream _ =>
    let (m, rows, c0) := streamArgs cmd.xa
    match k.active with
    | some p => streamRows c m p cmd.xb.toNat cmd.xc.toNat c0 rows 0 s
    | none => (s, none)
  | .bclr _ =>
    let (m, rows, c0) := streamArgs cmd.xa
    let cells := (List.range rows).flatMap (fun r => (List.range 64).flatMap (fun n =>
      if cmd.xb.getLsbD n then cellsAt (accOffset (c0 + r) n) (leBytes 16 0) else []))
    (localWrite (8 * c + m) 5 cells s, none)
  | .bsync _ =>
    match bsyncTarget c cmd.xa with
    | some h => (if cmd.mute then s else benchToken c h cmd.xb s, none)
    | none => (s, none)
  | _ => (s, none)

/-- BENCH_EXECUTE (17 R420, R428, R433): the oldest accepted instruction takes effect; one that meets failing data discards those
behind it. -/
def execBenchExecute (cluster : Nat) (s : State) : Host.Outcome State Fault Refusal :=
  match (s.cluster cluster).bench with
  | [] => .next s
  | cmd :: rest =>
    match benchDo cluster cmd s with
    | (t, some off) =>
      .next ((t.modCluster cluster (fun k => { k with bench := [], times := { free := s.now }, benchFail := some (off, cmd.pc) })).modHart
        (0x10000 + 2 * cluster + 1) (fun g => g.modCsr (fun c => { c with kbfail := setWfld cmd.pc 1 0 0 })))
    | (t, none) =>
      let t := t.modCluster cluster (fun k => { k with bench := rest })
      match rest with
      | [] => .next t
      | next :: _ => .next (t.schedule next.done (.benchExecute cluster))

/-- BFMTFORMAT (17 R424). -/
def execBfmtFormat (f : LongFields) (s : State) : Host.Outcome State Fault Refusal := runM (bfmtM (.bfmtFormat f)) s

/-- BFMTROWSCALES (17 R424). -/
def execBfmtRowScales (f : LongFields) (s : State) : Host.Outcome State Fault Refusal := runM (bfmtM (.bfmtRowScales f)) s

/-- BFMTCOLUMNSCALES (17 R424). -/
def execBfmtColumnScales (f : LongFields) (s : State) : Host.Outcome State Fault Refusal := runM (bfmtM (.bfmtColumnScales f)) s

/-- BLS (17 R425). -/
def execBls (f : LongFields) (s : State) : Host.Outcome State Fault Refusal := runM (blsM (.bls f)) s

/-- BSWAP (17 R426). -/
def execBswap (f : LongFields) (s : State) : Host.Outcome State Fault Refusal := runM (bswapM (.bswap f)) s

/-- BSTREAM (17 R427). -/
def execBstream (f : LongFields) (s : State) : Host.Outcome State Fault Refusal := runM (bstreamM (.bstream f)) s

/-- BCLR (17 R429). -/
def execBclr (f : LongFields) (s : State) : Host.Outcome State Fault Refusal := runM (bclrM (.bclr f)) s

/-- BSTAT (17 R431). -/
def execBstat (f : LongFields) (s : State) : Host.Outcome State Fault Refusal := runM (bstatM (.bstat f) f) s

/-- BSYNC (17 R430). -/
def execBsync (f : LongFields) (s : State) : Host.Outcome State Fault Refusal := runM (bsyncM (.bsync f)) s

/-- BSAVE (17 R432). -/
def execBsave (f : LongFields) (s : State) : Host.Outcome State Fault Refusal := runM (bsaveM (.bsave f)) s

/-- BRSTR (17 R432). -/
def execBrstr (f : LongFields) (s : State) : Host.Outcome State Fault Refusal := runM (brstrM (.brstr f)) s

end Sys2Proof.Machine
end

