-- ==== Sys2Proof/Machine/Exact.lean ====
section
/-! DEFINITION. Exact rational numbers and their one rounding, for textures, rays, triangles and blending (06 R132, R138, R139,
R148). -/

namespace Sys2Proof.Machine

/-- A rational number n / d with d positive, not reduced. -/
structure Q where
  n : Int
  d : Nat
deriving DecidableEq, Repr

/-- An integer. -/
def Q.ofInt (n : Int) : Q := { n := n, d := 1 }

/-- Sum, difference, product, quotient by a non-zero number, and negation. -/
def Q.add (a b : Q) : Q := if a.d = b.d then { n := a.n + b.n, d := a.d } else { n := a.n * b.d + b.n * a.d, d := a.d * b.d }
def Q.neg (a : Q) : Q := { n := -a.n, d := a.d }
def Q.sub (a b : Q) : Q := a.add b.neg
def Q.mul (a b : Q) : Q := { n := a.n * b.n, d := a.d * b.d }
def Q.div (a b : Q) : Q := { n := (if b.n < 0 then -a.n else a.n) * b.d, d := a.d * b.n.natAbs }

/-- a ≤ b and a < b. -/
def Q.le (a b : Q) : Bool := decide (a.n * b.d ≤ b.n * a.d)
def Q.lt (a b : Q) : Bool := decide (a.n * b.d < b.n * a.d)

/-- The greatest integer not above a. -/
def Q.floor (a : Q) : Int := a.n / (a.d : Int)

/-- The least integer not below a. -/
def Q.ceil (a : Q) : Int := -((-a.n) / (a.d : Int))

/-- The nearest integer, ties to even. -/
def Q.round (a : Q) : Int :=
  let f := a.floor
  let r := 2 * (a.n - f * a.d)
  if r < (a.d : Int) then f else if r > (a.d : Int) then f + 1 else if f % 2 = 0 then f else f + 1

/-- The value of a finite floating number. -/
def Q.ofFin (neg : Bool) (m : Nat) (e : Int) : Q :=
  if 0 ≤ e then { n := signed neg (shl m e), d := 1 } else { n := signed neg m, d := 2 ^ (-e).toNat }

/-- The value of an encoded floating number; none for NaN and infinity. -/
def Q.ofBits (c v : Nat) : Option Q :=
  match decodeF c v with
  | .fin n m e => some (Q.ofFin n m e)
  | _ => none

/-- ROUND of a rational into a floating format: the quotient to 80 bits with a sticky rest. -/
def roundQ (c rm : Nat) (a : Q) : FRes :=
  if a.n = 0 then { bits := 0 }
  else
    let m := a.n.natAbs
    let s : Int := (bitLen a.d : Int) + 80 - (bitLen m : Int)
    let num := if 0 ≤ s then m * 2 ^ s.toNat else m
    let den := if 0 ≤ s then a.d else a.d * 2 ^ (-s).toNat
    roundF c rm false (a.n < 0) (num / den) (-s) (num % den ≠ 0)

/-- A real number extended by the infinities. -/
inductive Ext where
  | ninf
  | fin (q : Q)
  | pinf
deriving DecidableEq, Repr

/-- a ≤ b. -/
def Ext.le : Ext → Ext → Bool
  | .ninf, _ => true
  | _, .pinf => true
  | .fin a, .fin b => a.le b
  | _, _ => false

/-- The greater and the lesser of two. -/
def Ext.max (a b : Ext) : Ext := if a.le b then b else a
def Ext.min (a b : Ext) : Ext := if a.le b then a else b

/-- The value of an encoded floating number; none for NaN. -/
def Ext.ofBits (c v : Nat) : Option Ext :=
  match decodeF c v with
  | .nan _ => none
  | .inf n => some (if n then .ninf else .pinf)
  | .fin n m e => some (.fin (Q.ofFin n m e))

/-- ROUND of an extended real by rne. -/
def roundExt (c : Nat) : Ext → Nat
  | .ninf => (infRes c true).bits
  | .pinf => (infRes c false).bits
  | .fin q => (roundQ c 0 q).bits

/-- The greatest r with r^5 ≤ x, from a bit downwards. -/
def root5From (x : Nat) : Nat → Nat → Nat
  | 0, r => r
  | k + 1, r =>
    let t := r + 2 ^ k
    root5From x k (if t ^ 5 ≤ x then t else r)

/-- (n / d)^(12/5) in units of 2^−w: its floor. -/
def pow24 (w n d : Nat) : Nat := root5From (n ^ 12 * 2 ^ (5 * w) / d ^ 12) (w + 2) 0

end Sys2Proof.Machine
end

