-- ==== Sys2Proof/Machine/Reader.lean ====
section
/-! DEFINITION. Plain reads by the texture unit, the Gallery and the units of the command cores, under a context's address space or a
function's (09 R230; 17 R435): a computation over memory that collects what it read and ends early at a fault. -/

namespace Sys2Proof.Machine

/-- Under whose address space a read is translated. -/
inductive Who where
  | hart (h : Nat)
  | func (fn : Nat)
deriving DecidableEq, Repr

/-- What a computation over memory has done: the state with the translations held, the sectors read, and the sectors of host memory that came
back with an error. -/
structure Reads where
  s : State
  who : Who
  sectors : List Nat := []
  failed : List Nat := []

/-- Why a computation over memory ends early: a fault with its cause and address, a malformed hierarchy (06 R144), or a wait for a
locked node, an even EPOCH or a free hold. -/
inductive Ended where
  | fault (cause addr : Nat)
  | malformed
  | wait (w : Wait)
deriving DecidableEq, Repr

/-- A computation over memory. -/
abbrev GM (α : Type) := ExceptT Ended (StateM Reads) α

/-- End early. -/
def endG {α : Type} (e : Ended) : GM α := throw e

/-- The address space of a function for the accesses of the command cores, the units, the encoder and the plug-in: its first stage
from ASREG (03 R65) and the second stage of its partition, as an S-mode access with SUM = 1 from the command core's die. -/
def fnSpace (s : State) (fn : Nat) : Space :=
  { unit := 4608, partition := fn, root := (s.func fn).asReg, priv := .supervisor, mstatus := 0x40000 }

/-- The address space of a reader. -/
def Who.space (s : State) : Who → Acc → Space
  | .hart h, acc => spaceOf s h acc
  | .func fn, _ => fnSpace s fn

/-- The partition of a reader. -/
def Who.reader (s : State) : Who → Nat
  | .hart h => partOfHart s h
  | .func fn => fn

/-- Translate an access of a reader. -/
def Who.translate (s : State) (w : Who) (acc : Acc) (va n : Nat) : Except Nat (Phys × Option Lookup) :=
  match w with
  | .hart h => if inWindow h va then .error acc.accessFault else translateHart s h acc va n
  | .func fn => Machine.translate s (fnSpace s fn) acc va

/-- Whether the accesses of a reader use PRI: those of a context do, those for a packet do not (03 R71). -/
def Who.pri : Who → Bool
  | .hart _ => true
  | .func _ => false

/-- Translate n bytes of one page for a reader. -/
def gReach (acc : Acc) (va n : Nat) : GM Nat := fun r =>
  match r.who.translate r.s acc va n with
  | .error c => (.error (.fault c va), { r with s := reportFault (r.who.space r.s acc) r.who.pri acc va r.s })
  | .ok (p, e) =>
    let r := { r with s := holdEntry (r.who.space r.s acc) acc e r.s }
    if r.failed.contains (sectorOf p.num) then (.error (.fault 5 va), r) else (.ok p.num, r)

/-- The bytes at a global address as a reader sees them. -/
def Who.bytes (s : State) (w : Who) (a n : Nat) : List Byte :=
  match w with
  | .hart h => viewBytes s h a n
  | .func _ => gBytes s a n

/-- Read n bytes of one page. -/
def gChunk (va n : Nat) : GM (List Byte) := do
  let a ← gReach .load va n
  fun r =>
    match heldByte r.s a n with
    | some b => (.error (.fault 29 (va + (b - a))), r)
    | none => (.ok (r.who.bytes r.s a n), { r with sectors := if r.sectors.contains (sectorOf a) then r.sectors else r.sectors ++ [sectorOf a] })

/-- Read n bytes from a VA upwards, in pieces that end at multiples of 64. -/
def gBytesAt (va n : Nat) : Nat → GM (List Byte)
  | 0 => pure []
  | k + 1 => do
    if n = 0 then pure []
    else do
      let m := min n (64 - va % 64)
      let a ← gChunk va m
      let b ← gBytesAt ((va + m) % 2 ^ 64) (n - m) k
      pure (a ++ b)

/-- Read n bytes as a little-endian number. -/
def gNum (va n : Nat) : GM Nat := do
  let l ← gBytesAt va n (n / 64 + 2)
  pure (leNat l)

/-- The state of a computation. -/
def gState : GM State := fun r => (.ok r.s, r)

/-- Run a computation and go on with its result or with the reason of its early end. -/
def tryG {α : Type} (x : GM α) : GM (Except Ended α) := fun r => match x r with
  | (a, r') => (.ok a, r')

/-- Field of n bytes at a byte offset of a number that holds bytes. -/
def byteFld (v off n : Nat) : Nat := (v >>> (8 * off)) % 2 ^ (8 * n)

/-- Run reads as an instruction of the executing context: it waits for its own posted adds on the sectors read and for host memory,
and other contexts' entries on them are sent. -/
def readsM {α : Type} (f : StateM Reads α) : M α := fun s =>
  let go (failed : List Nat) : α × Reads := f { s := s, who := .hart s.cur, failed := failed }
  let (a, r) := go []
  match r.sectors.find? (fun sec => (s.core (unitOf s.cur)).posted.any (fun e => e.hart = s.cur && e.sector = sec && (match e.op with
      | .bytes _ => false
      | .packet _ _ => false
      | .packetAdd _ _ => false
      | .packetAmo _ _ _ _ _ _ _ => false
      | _ => true))) with
  | some sec => .error (.waitWith (.sector (sec * 128)) (sendOwn s.cur s))
  | none =>
    let send (x : α × Reads) : α × State :=
      (x.1, sendWhere (unitOf s.cur) (fun e => e.hart ≠ s.cur && x.2.sectors.contains e.sector) x.2.s)
    match hostSectorsM r.sectors s with
    | .error e => .error e
    | .ok (failed, t) =>
      let (a, r) := if failed = [] then (a, r) else go failed
      let (a, u) := send (a, r)
      .ok (a, if r.sectors.any (fun sec => isHostNum (sec * 128)) then u.modHart s.cur (fun g => { g with
        hostRead := (t.hart s.cur).hostRead, hostDone := (t.hart s.cur).hostDone }) else u)

/-- Run a computation for a function; its result and the state afterwards. -/
def runG {α : Type} (fn : Nat) (x : GM α) (s : State) : Except Ended α × State :=
  let (a, r) := x.run { s := s, who := .func fn }
  (a, r.s)

end Sys2Proof.Machine
end

