-- ==== Sys2Proof/Machine/Device.lean ====
section
/-! DEFINITION. Operations of the device outside the cores: writes into a function's space, releases by the command cores, MSI-X and
coalescing (03 R78, R79, R87), queue errors (02 R48), and the harts of a partition. -/

namespace Sys2Proof.Machine

/-- Command-core cycles since reset: 1,600 MHz beside the 1,200 MHz of the arithmetic clock (01 R12). -/
def cmdCycles (s : State) : Nat := s.now * 4 / 3

/-- A count that saturates at 32 bits. -/
def satInc (n : Nat) : Nat := min (n + 1) (2 ^ 32 - 1)

/-- Change the state of a computation. -/
def gMod (f : State → State) : GM Unit := fun r => (.ok (), { r with s := f r.s })

/-- The partition of the reader of a computation. -/
def gReader : GM Nat := fun r => (.ok (r.who.reader r.s), r)

/-- The engine-fault interrupt of a write that no core issued: it goes to the lowest vector core of the partition (notes/assumptions/42.md). -/
def partitionFault (p addr src : Nat) (s : State) : State :=
  match (List.range 512).find? (fun c => (s.part p).entry.clusters.getLsbD c) with
  | some c => logFault (8 * c) src 0 addr s
  | none => s

/-- Write bytes that lie in one sector at a VA: whole and at once (10 R245). A partial write to a held sector faults (01 R30); a write
over a dead path is acknowledged with an error and logged (01 R25). -/
def gPiece (va : Nat) (bs : List Byte) : GM Unit := do
  let a ← gReach .store va bs.length
  let s ← gState
  if s.failing.contains (sectorOf a) ∧ bs.length < 128 then endG (.fault 29 va)
  else do
    let p ← gReader
    gMod (if isRemote a ∧ !pathUp s a then partitionFault p a 0 else deviceWrite p (cellsAt a bs))

/-- Write bytes from a VA upwards in aligned 128-byte units, at most as many as the fuel. -/
def gWrite (va : Nat) (bs : List Byte) : Nat → GM Unit
  | 0 => pure ()
  | k + 1 =>
    if bs = [] then pure ()
    else do
      let m := 128 - va % 128
      gPiece va (bs.take m)
      gWrite ((va + m) % 2 ^ 64) (bs.drop m) k

/-- Write n bytes of a number at a VA. -/
def gPut (va n v : Nat) : GM Unit := gWrite va (leBytes n v) (n / 128 + 2)

/-- Add to an 8-byte counter at a VA, modulo 2^64: one atomic add as a release (03 R78). -/
def gAdd (va v : Nat) : GM Unit := do
  let a ← gReach .store va 8
  let s ← gState
  match heldByte s a 8 with
  | some _ => endG (.fault 29 va)
  | none => gPut va 8 ((gRead s a 8 + v) % 2 ^ 64)

/-- The lowest of n bytes from a VA that a reader names in a frozen region, which holds whole pages (02 R58, R59). -/
def gFrozen (va n : Nat) : GM (Option Nat) := fun r =>
  (.ok ((va :: (List.range (n / 4096 + 1)).map (fun k => (va / 4096 + 1 + k) * 4096)).find? (fun a =>
    decide (a < va + n) && (match r.who.translate r.s .load (a % 2 ^ 64) 1 with
    | .ok (p, _) => (match regionOf r.s p.num with
      | some k => !isHostNum p.num && (r.s.region k).freeze
      | none => false)
    | .error _ => false))), r)

/-- A write of an agent or an encoder: one that touches a frozen region writes nothing and raises the engine-fault interrupt (02 R59). -/
def gEngineWrite (va : Nat) (bs : List Byte) (fuel : Nat) : GM Unit := do
  match ← gFrozen va bs.length with
  | some a => do
    let p ← gReader
    gMod (partitionFault p a 4)
  | none => gWrite va bs fuel

/-- The ERR code of a queue for the early end of a computation (03 R474): 4 data integrity, 3 translation, 5 a bad packet. -/
def Ended.err : Ended → Nat
  | .fault c _ => if c = 29 then 4 else 3
  | _ => 5

/-- Run a computation for a function, keep its effects, and answer its result or the ERR code. -/
def runFn {α : Type} (fn : Nat) (x : GM α) (s : State) : Except Nat α × State :=
  match runG fn x s with
  | (.ok a, t) => (.ok a, t)
  | (.error e, t) => (.error e.err, t)

/- Interrupts to the host (03 R87). -/

/-- Change a coalescing vector of a function. -/
def State.modMsix (s : State) (fn vec : Nat) (f : Msix → Msix) : State :=
  s.modFunc fn (fun c => { c with msix := tblSet c.msix vec (f (tblGet {} c.msix vec)) })

/-- A vector of a function. -/
def State.vector (s : State) (fn vec : Nat) : Msix := tblGet {} (s.func fn).msix vec

/-- Send the message of a vector; a masked vector keeps it in its PCIe pending bit. -/
def sendMsix (fn vec : Nat) (s : State) : State :=
  if (s.vector fn vec).masked then s.modMsix fn vec (fun v => { v with pciePending := true })
  else { s with out := s.out ++ [.msix fn vec] }

/-- A vector fires: its message goes and its pending count is 0. -/
def fireVector (fn vec : Nat) (s : State) : State := sendMsix fn vec (s.modMsix fn vec (fun v => { v with pending := 0 }))

/-- Post a coalescing event on a vector: the first starts the timer; the vector fires at count_th or when the timer is reached. -/
def postEvent (fn vec : Nat) (s : State) : State :=
  let now := cmdCycles s
  let s := s.modMsix fn vec (fun v => { v with pending := v.pending + 1, since := if v.pending = 0 then now else v.since })
  let v := s.vector fn vec
  if v.countTh ≤ v.pending ∨ v.since + v.timer ≤ now then fireVector fn vec s else s

/-- A packet of a queue that the Weighbridge processor has not accepted yet does not start. -/
def dropPassed (fn q : Nat) (s : State) : State := { s with weighbridge := s.weighbridge.filter (fun w => !(w.1 = fn && w.2.1 = q)) }

/-- A queue enters QSTATE 3 with an ERR code and signals its vector (02 R48), and starts no further packet; one that is disabled or in error already does not. -/
def queueError (fn q err : Nat) (s : State) : State :=
  let k := s.queue fn q
  if !k.en ∨ k.qstate = 3 then s
  else sendMsix fn k.vec (dropPassed fn q (s.modQueue fn q (fun k => { k with qstate := 3, err := err })))

/- Harts of clusters and populations. -/

/-- The clusters of a partition, ascending. -/
def clustersOf (s : State) (p : Nat) : List Nat :=
  let c := (s.part p).entry.clusters
  (List.range 512).filter (fun i => c.getLsbD i)

/-- The vector cores of clusters. -/
def coresOfClusters (l : List Nat) : List Nat := l.flatMap (fun c => (List.range 8).map (fun j => 8 * c + j))

/-- The harts of program contexts that run threads of a partition and a test of the thread. -/
def threadsOf (s : State) (p : Nat) (t : ThreadInfo → Bool) : List Nat :=
  (s.harts.filter (fun e => isVector e.1 && ctxOf e.1 ≠ 0 && e.2.run ≠ .free && e.2.thread.partition = p && t e.2.thread)).map (·.1)

/-- The Bench instructions that a cluster has accepted go on but send no token to a thread. -/
def muteBench (h : Nat) (s : State) : State :=
  let c := h / 128
  s.modCluster c (fun k => { k with bench := k.bench.map (fun cmd => match cmd.instr with
    | .bsync _ => if bsyncTarget c cmd.xa = some h then { cmd with mute := true } else cmd
    | _ => cmd) })

/-- Stop threads (03 R83, steps 2 and 3): their contexts issue no more, and their requests and queues go. -/
def stopThreads (l : List Nat) (s : State) : State :=
  l.foldl (fun t h => if (t.hart h).tkilling then t else muteBench h (clearReuse (unitOf h) (stopThread h t))) s

/-- Free stopped contexts without reaping them. -/
def freeThreads (l : List Nat) (s : State) : State :=
  l.foldl (fun t h => t.modHart h (fun g => if g.tkilling then { g with run := .free, tkilling := false, reserved := false } else g)) s

/-- Whether every write of stopped contexts is acknowledged. -/
def threadsQuiet (s : State) (l : List Nat) : Bool := l.all (fun h => !contextBusy s h)

end Sys2Proof.Machine
end

