-- ==== Sys2Proof/Machine/Packet.lean ====
section
/-! DEFINITION. Packets and graph nodes: their layouts, limits and the checks before they start (03 R70–R74, R81). -/

namespace Sys2Proof.Machine

/-- Field of n bytes of a packet. -/
def pFld (p : BitVec 512) (off n : Nat) : Nat := byteFld p.toNat off n

/-- Bits [hi:lo] counted from a byte of a packet. -/
def pBits (p : BitVec 512) (off hi lo : Nat) : Nat := fld (p.toNat >>> (8 * off)) hi lo

/-- The fields that R70 and R72 name in a packet of a type, as (byte, lowest bit, width); the header's are TYPE, SERIAL, XT, XPART and
XQUEUE. -/
def packetLayout (type : Nat) : List (Nat × Nat × Nat) :=
  [(0, 0, 8), (1, 0, 2), (2, 0, 8), (3, 0, 4)] ++
  (match type with
  | 1 => [(4, 0, 8), (5, 0, 5), (6, 0, 16), (8, 0, 64), (0x10, 0, 256), (0x30, 0, 32), (0x34, 0, 32), (0x38, 0, 64)]
  | 2 => [(8, 0, 64), (0x10, 0, 16), (0x14, 0, 32), (0x18, 0, 64)]
  | 3 => [(4, 0, 1), (8, 0, 64), (0x10, 0, 64), (0x18, 0, 40), (0x20, 0, 64)]
  | 4 => [(8, 0, 64), (0x10, 0, 64)]
  | 5 => [(4, 0, 3), (5, 0, 5), (5, 7, 1), (8, 0, 64), (0x10, 0, 64)]
  | 6 => [(8, 0, 64), (0x10, 0, 64), (0x18, 0, 32), (0x20, 0, 64)]
  | 7 => [(4, 0, 3)]
  | 8 => [(4, 0, 2), (5, 0, 4), (6, 0, 8), (8, 0, 64)]
  | 9 => [(4, 0, 2), (8, 0, 64), (0x10, 0, 64), (0x18, 0, 64)]
  | 10 => [(4, 0, 5), (5, 0, 1), (6, 0, 16), (8, 0, 32), (0x10, 0, 64), (0x18, 0, 64)]
  | 12 => [(8, 0, 64), (0x10, 0, 7), (0x18, 0, 64), (0x20, 0, 64)]
  | _ => [])

/-- The bits of named fields. -/
def layoutMask (l : List (Nat × Nat × Nat)) : Nat := l.foldl (fun m e => m ||| ((2 ^ e.2.2 - 1) <<< (8 * e.1 + e.2.1))) 0

/-- Whether every bit outside named fields is zero. -/
def onlyNamed (l : List (Nat × Nat × Nat)) (p : BitVec 512) : Bool := p.toNat &&& layoutMask l = p.toNat

/-- The limits and alignments of R71 and R72. -/
def packetLimits (type : Nat) (p : BitVec 512) : Bool :=
  match type with
  | 1 =>
    1 ≤ pFld p 4 1 && pFld p 4 1 ≤ 15 && pFld p 8 8 % 4 = 0 && 1 ≤ pFld p 0x30 4 && pFld p 0x30 4 ≤ 61440
      && pFld p 0x34 4 % 16 = 0 && pFld p 0x34 4 ≤ 0x100000 && pFld p 0x38 8 % 8 = 0
  | 2 => pFld p 8 8 % 64 = 0 && 1 ≤ pFld p 0x10 2 && pFld p 0x10 2 ≤ 256 && pFld p 0x18 8 % 8 = 0
  | 3 =>
    1 ≤ pFld p 0x18 5 && pFld p 0x20 8 % 8 = 0
      && (pBits p 4 0 0 = 0 || (pFld p 0x18 5 % 8 = 0 && pFld p 0x10 8 % 8 = 0))
  | 4 => pFld p 8 8 ≠ 0 && pFld p 8 8 % 8 = 0
  | 5 => (pBits p 4 2 0 = 3 || pBits p 4 2 0 = 4) && pFld p 8 8 ≠ 0 && pFld p 8 8 % 8 = 0
  | 6 =>
    pFld p 8 8 % 4 = 0 && pFld p 0x10 8 % 4 = 0 && pFld p 0x18 4 % 4 = 0 && 4 ≤ pFld p 0x18 4
      && pFld p 0x18 4 ≤ 16 * 2 ^ 20 && pFld p 0x20 8 % 8 = 0
  | 7 => pBits p 4 2 0 = 3 || pBits p 4 2 0 = 4
  | 8 => pBits p 4 1 0 ≤ 2 && pFld p 8 8 % 8 = 0 && (pBits p 4 1 0 ≠ 2 || pFld p 6 1 < 64 || pFld p 6 1 = 0xFF)
  | 9 => pBits p 4 1 0 ≤ 2 && pFld p 8 8 % 4096 = 0 && pFld p 0x18 8 % 8 = 0
  | 10 => pBits p 5 0 0 = 0 || 1 ≤ pFld p 6 2
  | 11 => true
  | 12 =>
    pFld p 8 8 % 256 = 0 && 1 ≤ pBits p 0x10 6 0 && pBits p 0x10 6 0 ≤ 65 && pFld p 0x18 8 % 8 = 0 && pFld p 0x20 8 ≠ 0
      && pFld p 0x20 8 % 8 = 0
  | _ => false

/-- The partition that a byte names: 0xFF is the PF's (02 R40); 64 to 254 name none, here 255. -/
def partByte (n : Nat) : Nat := if n = 0xFF then 64 else if n < 64 then n else 255

/-- The clusters of a list that a cluster_mask selects (03 R72). -/
def maskedClusters (l : List Nat) (mask : Nat) : List Nat :=
  ((List.range l.length).filter (fun j => mask = 0 || bitOf mask (j % 16))).map (fun j => nth 0 l j)

/-- The clusters of a partition that a cluster_mask selects. -/
def selectedClusters (s : State) (p mask : Nat) : List Nat := maskedClusters (clustersOf s p) mask

/-- Whether a POPULATE body selects a cluster, and a co-resident one enough contexts (03 R74). -/
def populateFits (s : State) (p : Nat) (b : BitVec 512) : Bool :=
  let l := selectedClusters s p (pFld b 6 2)
  l ≠ [] && (pBits b 5 3 3 = 0 || pFld b 0x30 4 ≤ 120 * l.length)

/-- The checks of a packet of a function's queue that read nothing but the packet and the partition table (03 R65, R74). -/
def packetOk (s : State) (fn : Nat) (p : BitVec 512) : Bool :=
  let type := pFld p 0 1
  let xt := pBits p 1 1 1 = 1
  let mode := wfld (s.func fn).asReg 63 60
  1 ≤ type && type ≤ 12 && onlyNamed (packetLayout type) p && packetLimits type p
    && (mode = 0 || mode = 9)
    && (if xt then type = 1 && pBits p 5 4 4 = 0 && (pFld p 2 1 < 64 || pFld p 2 1 = 0xFF) else pFld p 2 1 = 0 && pFld p 3 1 = 0)
    && (fn = 64 || (type ≠ 12 && (type ≠ 1 || pBits p 5 4 4 = 0) && (type ≠ 8 || pBits p 4 1 0 ≠ 2 || partByte (pFld p 6 1) = fn)))
    && (type ≠ 9 || 2 ^ 24 * (clustersOf s fn).length ≤ pFld p 0x10 8)
    && (type ≠ 1 || populateFits s (if xt then partByte (pFld p 2 1) else fn) p)

/- Graph nodes (03 R81). -/

/-- The fields of a node of a kind. -/
def nodeLayout (kind : Nat) : List (Nat × Nat × Nat) :=
  match kind with
  | 0x0D => [(0, 0, 8), (2, 0, 16), (4, 0, 2), (8, 0, 64), (0x10, 0, 64)]
  | 0x0E => [(0, 0, 8), (2, 0, 16), (4, 0, 4), (6, 0, 16), (8, 0, 64), (0x10, 0, 64), (0x18, 0, 64), (0x20, 0, 64)]
  | _ => [(0, 0, 8), (2, 0, 16)] ++ (packetLayout kind).drop 4

/-- The nodes that node n waits for. -/
def nodeDeps (n : Nat) (b : BitVec 512) : List Nat :=
  ((List.range 16).filter (fun i => bitOf (pFld b 2 2) i)).map (fun i => n - 1 - i)

/-- Whether node n of a table is well formed. -/
def nodeOk (s : State) (fn n : Nat) (b : BitVec 512) : Bool :=
  let kind := pFld b 0 1
  onlyNamed (nodeLayout kind) b && pFld b 2 2 < 2 ^ n
    && (match kind with
      | 1 => packetLimits 1 b && (fn = 64 || pBits b 5 4 4 = 0) && populateFits s fn b
      | 3 => packetLimits 3 b
      | 4 => packetLimits 4 b
      | 5 => packetLimits 5 b
      | 0x0D => pFld b 8 8 ≠ 0 && pFld b 8 8 % 8 = 0
      | 0x0E => 1 ≤ pBits b 4 3 0 && pBits b 4 3 0 ≤ 5 && pFld b 0x18 8 % 64 = 0 && pFld b 0x20 8 % 8 = 0
      | _ => false)

end Sys2Proof.Machine
end

