-- ==== Sys2Proof/Machine/ListQueue.lean ====
section
/-! DEFINITION. List queues (05 R121–R127): descriptors and bins, attaching and detaching, pushes, pops and closes, what ORDER = 1
threads stage, and AGPUSH and AGPOP (17 R440, R441). -/

namespace Sys2Proof.Machine

/- Descriptors. v is the 64 bytes as a number. -/

/-- Bits [hi:lo] of the 8-byte word at an offset of a descriptor. -/
def dFld (v off hi lo : Nat) : Nat := fld (byteFld v off 8) hi lo

def lqRing (v : Nat) : Nat := byteFld v 0 8
def lqState (v : Nat) : Nat := byteFld v 8 8
def lqLog (v : Nat) : Nat := dFld v 0x10 4 0
def lqOrder (v : Nat) : Bool := dFld v 0x10 5 5 = 1
def lqBins (v : Nat) : Nat := dFld v 0x10 27 16 + 1
def lqProducers (v : Nat) : Nat := dFld v 0x10 47 32
def lqConsumer (v : Nat) : Bool := dFld v 0x18 1 0 = 1
def lqPer (v : Nat) : Nat := dFld v 0x18 12 8
def lqBatch (v : Nat) : Nat := dFld v 0x18 31 16
def lqFlush (v : Nat) : Nat := dFld v 0x18 63 32
def lqTemplate (v : Nat) : Nat := byteFld v 0x20 8
def lqDown (v : Nat) : Nat := byteFld v 0x28 8
def lqDone (v : Nat) : Nat := byteFld v 0x30 8
def lqCloses (v : Nat) : Nat := dFld v 0x38 15 0
def lqFinished (v : Nat) : Bool := dFld v 0x38 17 17 = 1

/-- Whether a queue is closed (R122). -/
def lqClosed (v : Nat) : Bool := lqCloses v = lqProducers v

/-- Whether a descriptor keeps to R121. -/
def lqOk (v : Nat) : Bool :=
  lqRing v % 4096 = 0 && lqState v % 64 = 0 && 4 ≤ lqLog v && lqLog v ≤ 20
    && dFld v 0x10 15 6 = 0 && dFld v 0x10 31 28 = 0 && dFld v 0x10 63 48 = 0 && 1 ≤ lqProducers v
    && dFld v 0x18 1 0 ≤ 1 && dFld v 0x18 7 2 = 0 && dFld v 0x18 15 13 = 0
    && (!lqConsumer v || (1 ≤ lqPer v && lqPer v ≤ 16 && 1 ≤ lqBatch v && lqBatch v ≤ 4096 && lqBatch v ≤ 2 ^ lqLog v))
    && lqDone v % 8 = 0 && dFld v 0x38 63 18 = 0

/-- An attached queue by the global address of its descriptor. -/
def lqFind (s : State) (pa : Nat) : Option ListQueue := s.listQueues.find? (fun q => q.pa = pa)

/-- Change an attached queue. -/
def lqMod (pa : Nat) (f : ListQueue → ListQueue) (s : State) : State :=
  { s with listQueues := s.listQueues.map (fun q => if q.pa = pa then f q else q) }

/-- The descriptor of a queue, as memory holds it. -/
def lqDesc (s : State) (pa : Nat) : Nat := gRead s pa 64

/- Bins. -/

/-- A bin-state entry: its global address and its three counts. -/
structure Bin where
  pa : Nat
  head : Nat
  tail : Nat
  freed : Nat

/-- The entry of a bin; the device reads and writes it. -/
def binAt (v b : Nat) : GM Bin := do
  let va := (lqState v + 16 * b) % 2 ^ 64
  let a ← gReach .store va 16
  let s ← gState
  match heldByte s a 16 with
  | some _ => endG (.fault 29 va)
  | none =>
    let x := gRead s a 16
    pure { pa := a, head := byteFld x 0 4, tail := byteFld x 4 4, freed := byteFld x 8 4 }

/-- Write a bin-state entry back. -/
def binPut (x : Bin) : GM Unit := do
  let p ← gReader
  gMod (deviceWrite p (cellsAt x.pa (leBytes 4 x.head ++ leBytes 4 x.tail ++ leBytes 4 x.freed)))

/-- The records of a bin that are pending. -/
def Bin.pending (x : Bin) : Nat := (x.tail + 2 ^ 32 - x.head) % 2 ^ 32

/-- The records of a bin whose slots are taken. -/
def Bin.held (x : Bin) : Nat := (x.tail + 2 ^ 32 - x.freed) % 2 ^ 32

/-- The VA of the slot of record n of a bin. -/
def slotVa (v b n : Nat) : Nat := (lqRing v + b * 64 * 2 ^ lqLog v + 64 * (n % 2 ^ lqLog v)) % 2 ^ 64

/-- Commit a record to a bin: it waits while the bin has no free slot, and a queue that is closed or not attached refuses it (R122): the record is
dropped (notes/assumptions/66.md). -/
def lqPush (pa b : Nat) (rec : BitVec 512) : GM Unit := do
  let s ← gState
  let v := lqDesc s pa
  if (lqFind s pa).isNone ∨ lqClosed v then pure ()
  else do
  let x ← binAt v b
  if x.held = 2 ^ lqLog v then endG (.wait (.binSlot pa b x.pa))
  else do
    gWrite (slotVa v b x.tail) (leBytes 64 rec.toNat) 2
    binPut { x with tail := (x.tail + 1) % 2 ^ 32 }
    gMod (fun s => lqMod pa (fun q => { q with times := tblSet q.times b (tblGet [] q.times b ++ [cmdCycles s]) }) s)

/-- Advance HEAD of a bin by n records. -/
def lqClaim (pa b n : Nat) : GM Unit := do
  let s ← gState
  let x ← binAt (lqDesc s pa) b
  binPut { x with head := (x.head + n) % 2 ^ 32 }
  gMod (lqMod pa (fun q => { q with times := tblSet q.times b ((tblGet [] q.times b).drop n) }))

/-- Advance FREED of a bin by n records. -/
def lqFree (pa b n : Nat) : GM Unit := do
  let s ← gState
  let x ← binAt (lqDesc s pa) b
  binPut { x with freed := (x.freed + n) % 2 ^ 32 }

/-- The head record of a bin; none where it is empty. -/
def lqPeek (pa b : Nat) : GM (Option (BitVec 512)) := do
  let s ← gState
  let v := lqDesc s pa
  let x ← binAt v b
  if x.pending = 0 then pure none
  else do
    let n ← gNum (slotVa v b x.head) 64
    pure (some (BitVec.ofNat 512 n))

/-- Whether every bin of a queue is empty. -/
def lqEmpty (v : Nat) : GM Bool :=
  (List.range (lqBins v)).foldlM (fun (ok : Bool) b => do
    let x ← binAt v b
    pure (ok && x.pending = 0)) true

/-- A close of an attached queue; a close of a closed queue is ignored and counted against its closer (R122). -/
def lqClose (who : Closer) (pa : Nat) (s : State) : State :=
  match lqFind s pa with
  | none => s
  | some q =>
    let v := lqDesc s pa
    if lqClosed v then lqMod pa (fun q => { q with misuse := q.misuse ++ [who] }) s
    else deviceWrite q.fn (cellsAt (pa + 0x38) (leBytes 2 (lqCloses v + 1))) s

/-- Whether a push that waited for a slot when a close was made still waits: its context has not moved on. -/
def pushWaits (s : State) (e : Nat × Word × Word) : Bool :=
  let g := s.hart e.1
  g.run = .running && !g.tkilling && g.pc = e.2.1 && g.instret = e.2.2

/-- The closes of a queue whose earlier pushes have ended take effect, in order (17 R442). -/
def settleCloses (pa : Nat) (s : State) : State :=
  match lqFind s pa with
  | none => s
  | some q =>
    let ready := q.closing.takeWhile (fun l => !l.2.any (pushWaits s))
    ready.foldl (fun t l => lqClose l.1 pa t) (lqMod pa (fun q => { q with closing := q.closing.drop ready.length }) s)

/-- A close that follows a push: it waits for the pushes that wait for a slot of the queue now. -/
def closeAfter (who : Closer) (pa : Nat) (s : State) : State :=
  let l := (s.harts.filter (fun e => match e.2.waiting with
    | some (.binSlot p _ _) => p = pa
    | _ => false)).map (fun e => (e.1, e.2.pc, e.2.instret))
  settleCloses pa (lqMod pa (fun q => { q with closing := q.closing ++ [(who, l)] }) s)

/- Failures of a graph (03 R474). -/

/-- A graph by its number. -/
def graphFind (s : State) (g : Nat) : Option Graph := s.graphs.find? (fun e => e.id = g)

/-- Change a graph. -/
def graphMod (g : Nat) (f : Graph → Graph) (s : State) : State :=
  { s with graphs := s.graphs.map (fun e => if e.id = g then f e else e) }

/-- A graph holds a failure: its queue enters QSTATE 3 and no more of it starts. -/
def failGraph (g err : Nat) (s : State) : State :=
  match graphFind s g with
  | none => s
  | some e =>
    if e.failure.isSome then s
    else queueError e.fn e.q err (graphMod g (fun e => { e with failure := some err }) s)

/-- Run a computation of a graph's work for its function; a failure is the graph's. -/
def runGraph {α : Type} (g fn : Nat) (x : GM α) (s : State) : Option α × State :=
  match runFn fn x s with
  | (.ok a, t) => (some a, t)
  | (.error e, t) => (none, failGraph g e t)

/-- Commit what completed batches of a queue have staged, in order, as far as slots are free (R125). -/
def commitStaged (pa : Nat) : Nat → State → State
  | 0, s => s
  | k + 1, s =>
    match lqFind s pa with
    | none => s
    | some q =>
      match q.commits with
      | [] => s
      | e :: rest =>
        let next (t : State) : State := commitStaged pa k (lqMod pa (fun q => { q with commits := rest }) t)
        match lqFind s e.target with
        | none => next s
        | some _ =>
          match e.record with
          | none => next (lqClose (.staged e.batch e.thread) e.target s)
          | some r =>
            match runG q.fn (lqPush e.target e.bin r) s with
            | (.ok _, t) => next t
            | (.error (.wait _), _) => s
            | (.error er, t) => next (failGraph q.graph er.err t)

/-- Commit what is staged in every queue. -/
def commitAll (s : State) : State := s.listQueues.foldl (fun t q => commitStaged q.pa q.commits.length t) s

/- Attaching and detaching (R122). -/

/-- Whether a TEMPLATE is a POPULATE that a queue may launch from. -/
def templateOk (s : State) (fn : Nat) (p : BitVec 512) : Bool :=
  pFld p 0 1 = 1 && pBits p 1 1 1 = 0 && pFld p 0x38 8 = 0 && packetOk s fn p

/-- The descriptors reached from one through at most so many DOWN links: (VA, global address). -/
def lqChain (fn va : Nat) : Nat → GM (List (Nat × Nat))
  | 0 => endG .malformed
  | k + 1 =>
    if va = 0 then pure []
    else if va % 64 ≠ 0 then endG .malformed
    else do
      let v ← gNum va 64
      let a ← gReach .store va 64
      if !lqOk v then endG .malformed
      else do
        (if lqConsumer v then do
          let t ← gNum (lqTemplate v) 64
          let s ← gState
          if templateOk s fn (BitVec.ofNat 512 t) then pure () else endG .malformed
        else pure ())
        let rest ← lqChain fn (lqDown v) k
        pure ((va, a) :: rest)

/-- Attach one queue: CLOSES, ATTACHED and FINISHED become 0 and the counts stay; one that is attached stays as it is. -/
def lqAttach (graph fn : Nat) (e : Nat × Nat) : GM Unit := do
  let s ← gState
  if (lqFind s e.2).isSome then pure ()
  else do
    gMod (deviceWrite fn (cellsAt (e.2 + 0x38) (leBytes 8 0)))
    let v := lqDesc s e.2
    let times ← (List.range (lqBins v)).foldlM (fun (t : Tbl (List Nat)) b => do
      let x ← binAt v b
      pure (if x.pending = 0 then t else tblSet t b (List.replicate x.pending (cmdCycles s)))) []
    gMod (fun s => { s with listQueues := s.listQueues ++
      [{ pa := e.2, va := e.1, graph := graph, fn := fn, batches := [], nextBatch := 0, times := times, staged := [], commits := []
         closing := [] }] })

/-- Attach a node's queues with all that they reach: every chain is checked before any is attached. Answers the global addresses. -/
def attachQueues (graph fn input output : Nat) : GM (Nat × Nat) := do
  let a ← lqChain fn input 18
  let b ← lqChain fn output 18
  (a ++ b).forM (lqAttach graph fn)
  pure (((a.head?).map (·.2)).getD 0, ((b.head?).map (·.2)).getD 0)

/-- Detach every queue of a graph, its counts as they stand (R122, R127). -/
def detachQueues (g : Nat) (s : State) : State :=
  let mine := s.listQueues.filter (fun q => q.graph = g)
  let s := mine.foldl (fun t q =>
    let v := lqDesc t q.pa
    deviceWrite q.fn (cellsAt (q.pa + 0x38) (leBytes 4 (lqCloses v + natOf (lqFinished v) * 2 ^ 17))) t) s
  { s with listQueues := s.listQueues.filter (fun q => q.graph ≠ g) }

/- AGPUSH and AGPOP. -/

/-- The batch with ORDER = 1 from which a thread was launched: the queue and the batch. -/
def orderedBatch (s : State) (h : Nat) : Option (ListQueue × Nat) :=
  match (s.hart h).thread.batch with
  | none => none
  | some (pa, _, n) =>
    match lqFind s pa with
    | none => none
    | some q => if lqOrder (lqDesc s pa) then some (q, n) else none

/-- What an ORDER = 1 thread stages with its batch: a push, a 17th of which is queue misuse, and a close. -/
def stagePush (q : ListQueue) (n thread target bin xa : Nat) (rec : Option (BitVec 512)) (close : Bool) : GM Unit := do
  let mine := q.staged.filter (fun e => e.batch = n && e.thread = thread && e.record.isSome)
  if rec.isSome ∧ 16 ≤ mine.length then endG (.fault 28 xa)
  else
    let e (r : Option (BitVec 512)) : Staged := { batch := n, thread := thread, target := target, bin := bin, record := r }
    gMod (lqMod q.pa (fun q => { q with staged := q.staged ++ (if rec.isSome then [e rec] else []) ++ (if close then [e none] else []) }))

/-- AGPUSH after its release: the record is read, the queue is checked, and the record is staged or committed. -/
def agpushG (h xa xb xc : Nat) (close : Bool) : GM Unit := do
  let rec ← (if xc = 0 then pure none
    else if xc % 64 ≠ 0 then endG (.fault 4 xc)
    else do
      let v ← gNum xc 64
      pure (some (BitVec.ofNat 512 v)))
  let pa ← gReach .load xa 8
  let s ← gState
  let v := lqDesc s pa
  match lqFind s pa with
  | none => endG (.fault 28 xa)
  | some _ =>
    if lqClosed v ∨ lqBins v ≤ xb then endG (.fault 28 xa)
    else match orderedBatch s h with
      | some (q, n) => stagePush q n (s.hart h).thread.index.toNat pa xb xa rec close
      | none => do
        (match rec with
          | some r => lqPush pa xb r
          | none => pure ())
        let t := (s.hart h).thread
        if close then gMod (closeAfter (.thread t.popid.toNat t.index.toNat) pa) else pure ()

/-- AGPUSH (17 R440). -/
def execAgpush (f : LongFields) (s : State) : Host.Outcome State Fault Refusal :=
  runM (do
    requireM (← askS (fun s => isVector s.cur && (Instr.agpush f).wellFormed)) (.agpush f)
    let x ← operandsM (.agpush f)
    (if ← askS (fun s => (s.part (partOfHart s s.cur)).rehoming.isSome) then waitM .rehoming else pure ())
    releaseSelf 3
    let h ← askS (fun s => s.cur)
    match (← readsM (agpushG h x.a.toNat x.b.toNat x.c.toNat f.nt).run) with
    | .ok () => retireM 8
    | .error (.fault c a) => trapM c (BitVec.ofNat 64 a)
    | .error (.wait w) => waitKeepM w
    | .error .malformed => trapM 28 x.a) s

/-- AGPOP (17 R441): eight stores of the head record of q6, which goes when the instruction retires. -/
def execAgpop (f : LongFields) (s : State) : Host.Outcome State Fault Refusal :=
  runM (do
    requireM (← askS (fun s => isVector s.cur && (Instr.agpop f).wellFormed)) (.agpop f)
    let x ← operandsM (.agpop f)
    if x.a.toNat % 64 ≠ 0 then trapM 6 x.a
    else do
      let g ← me
      match g.vec.q6 with
      | [] => trapM 28 22
      | r :: rest => do
        (List.range 8).forM (fun i => storeM (x.a + BitVec.ofNat 64 (8 * i)) 8 (BitVec.ofNat 64 (r.toNat >>> (64 * i))))
        modMe (fun g => g.modVec (fun v => { v with q6 := rest }))
        writeX f.d.toNat (BitVec.ofNat 64 (r.toNat % 256 + rest.length * 2 ^ 8))
        retireM 8) s

end Sys2Proof.Machine
end

