-- ==== Sys2Proof/Machine/Sched.lean ====
section
/-! DEFINITION. Populations (05 R107–R115): submission, admission, launch records and completion, the ends of packets and of graph
nodes, and the kill of populations and graphs (03 R83). -/

namespace Sys2Proof.Machine

/- The ends of packets (03 R69, R75, R78). -/

/-- A started packet of a queue. -/
def startedFind (s : State) (fn q seq : Nat) : Option Started := (s.queue fn q).started.find? (fun e => e.seqNo = seq)

/-- Change a Sieve entry. -/
def State.modSieve (s : State) (k : Nat) (f : Sieve → Sieve) : State := { s with sieve := tblSet s.sieve k (f (tblGet {} s.sieve k)) }

/-- Take a started packet off its queue's list. A forwarded one leaves its Sieve entry and its source queue too. -/
def dropStarted (fn q seq : Nat) (s : State) : State :=
  match startedFind s fn q seq with
  | none => s
  | some e =>
    let s := s.modQueue fn q (fun k => { k with started := k.started.filter (fun x => x.seqNo ≠ seq) })
    match e.src with
    | none => s
    | some (k, sfn, sq, sseq) =>
      (s.modSieve k (fun v => { v with inflight := v.inflight - 1 })).modQueue sfn sq
        (fun x => { x with started := x.started.filter (fun y => y.seqNo ≠ sseq) })

/-- Take the packets of a function out of other functions' inboxes, and those of others out of its own: the credits return. -/
def dropForwarded (fn : Nat) (s : State) : State :=
  let all := s.funcs.flatMap (fun f => f.2.queues.flatMap (fun q => q.2.inbox.map (fun i => (f.1, q.1, i))))
  let gone := all.filter (fun e => e.1 = fn || e.2.2.srcFn = fn)
  gone.foldl (fun t e =>
    let i := e.2.2
    let t := t.modQueue e.1 e.2.1 (fun q => { q with inbox := q.inbox.filter (fun x => x ≠ i) })
    (t.modSieve i.sieve (fun v => { v with inflight := v.inflight - 1 })).modQueue i.srcFn i.srcQ (fun q =>
      { q with started := q.started.filter (fun y => y.seqNo ≠ i.srcSeq) })) { s with weighbridge := s.weighbridge.filter (fun w => w.1 ≠ fn) }

/-- Change a started packet. -/
def modStarted (fn q seq : Nat) (f : Started → Started) (s : State) : State :=
  s.modQueue fn q (fun k => { k with started := k.started.map (fun e => if e.seqNo = seq then f e else e) })

/-- Add 1 to a counter of a function as a release; a fault of it is an error of the queue. -/
def doneAdd (fn q va : Nat) (s : State) : State :=
  if va = 0 then s
  else match runFn fn (gAdd va 1) s with
    | (.ok _, t) => t
    | (.error e, t) => queueError fn q e t

/-- A started packet completes with its done_counter add; that of a forwarded one is made in the source's space. -/
def completeStarted (fn q seq done : Nat) (s : State) : State :=
  match startedFind s fn q seq with
  | none => s
  | some e =>
    let s := dropStarted fn q seq s
    match e.src with
    | none => doneAdd fn q done s
    | some (_, sfn, sq, _) => doneAdd sfn sq done s

/- The ends of graph nodes (03 R82). -/

/-- Set the state of a node in the present pass. -/
def setNode (g n : Nat) (st : NodeState) (s : State) : State := graphMod g (fun e => { e with states := setNth e.states n st }) s

/-- A node completes with the add of its done_counter. -/
def completeNode (g n done : Nat) (s : State) : State :=
  match graphFind s g with
  | none => s
  | some e =>
    if done = 0 then setNode g n .complete s
    else match runGraph g e.fn (gAdd done 1) s with
      | (some _, t) => setNode g n .complete t
      | (none, t) => setNode g n .complete t

/- Stopped work (03 R84). -/

/-- The graph to which a population belongs. -/
def originGraph (s : State) : Origin → Option Nat
  | .packet _ _ _ => none
  | .node g _ => some g
  | .batch pa _ _ => (lqFind s pa).map (·.graph)

/-- The started packet of a graph. -/
def graphStarted (s : State) (g : Nat) : Option Started := (graphFind s g).bind (fun e => startedFind s e.fn e.q e.seqNo)

/-- The started packet from which a population comes. -/
def originStarted (s : State) : Origin → Option Started
  | .packet fn q seq => startedFind s fn q seq
  | o => (originGraph s o).bind (graphStarted s)

/-- Whether a mode-1 CUT has stopped the packet from which work comes: it does not run until a mode-2 CUT. -/
def Started.stands : Option Started → Bool
  | some e => e.stopped.isSome
  | none => false

/-- Whether a population's work is stopped. -/
def popStopped (s : State) (p : Population) : Bool := Started.stands (originStarted s p.origin)

/- Populations. -/

def Population.count (p : Population) : Nat := pFld p.body 0x30 4
def Population.quota (p : Population) : Nat := pFld p.body 4 1
def Population.stackBytes (p : Population) : Nat := pFld p.body 0x34 4
def Population.gangFlag (p : Population) : Bool := pBits p.body 5 2 2 = 1
def Population.coresident (p : Population) : Bool := pBits p.body 5 3 3 = 1
def Population.privS (p : Population) : Bool := pBits p.body 5 4 4 = 1

/-- The bytes of its stack window. -/
def Population.window (p : Population) : Nat := p.count * p.stackBytes

/-- Hand a population to the admission owner: it joins the tail of the list of its priority (R109). -/
def submit (origin : Origin) (fn : Nat) (body : BitVec 512) (prio : Nat) (sieve : Option Nat) (s : State) : State :=
  let p : Population :=
    { origin := origin, fn := fn, body := body, prio := prio, since := cmdCycles s, popid := 0, admitted := 0, stackBase := 0, gang := 0
      comp := 0, as := 0, records := [], saved := [], sieve := sieve, reserve := [] }
  s.modPart fn (fun q => { q with waiting := tblSet q.waiting prio (tblGet [] q.waiting prio ++ [p]) })

/-- A population cannot be admitted, or its completion counter cannot be written: its queue, or its graph, holds the error. -/
def badPopulation (o : Origin) (err : Nat) (s : State) : State :=
  match o with
  | .packet fn q seq => queueError fn q err (dropStarted fn q seq s)
  | .node g n => failGraph g err (setNode g n .complete s)
  | .batch pa _ _ => match lqFind s pa with
    | some q => failGraph q.graph err s
    | none => s

/-- The selected cores, in placement order (R112). -/
def popCores (s : State) (p : Population) : List Nat := coresOfClusters (selectedClusters s p.fn (pFld p.body 6 2))

/-- The contexts of a core that neither run a thread nor are reserved. -/
def freeContexts (s : State) (k : Nat) : List Nat :=
  ((List.range 15).map (fun i => hartOf k (i + 1))).filter (fun h => (s.hart h).run = .free && !(s.hart h).reserved)

/-- Give back the contexts that a population has reserved. -/
def unreserve (l : List Nat) (s : State) : State := l.foldl (fun t h => t.modHart h (fun g => { g with reserved := false })) s

/-- Reserve more contexts for a co-resident population that waits, in the order of R112: at most quota on a core and count in all. What it has
reserved stays reserved (R110). -/
def reserveFor (p : Population) (s : State) : List Nat × State :=
  (popCores s p).foldl (fun (acc : List Nat × State) k =>
    let here := (p.reserve.filter (fun h => unitOf h = k)).length
    let n := min (p.quota - here) (p.count - acc.1.length)
    let l := (freeContexts acc.2 k).take n
    (acc.1 ++ l, l.foldl (fun t h => t.modHart h (fun g => { g with reserved := true })) acc.2)) (p.reserve, s)

/-- The lowest window of so many bytes of a function's stack arena that overlaps no other (R110). -/
def findWindow (base len size : Nat) (used : List (Nat × Nat)) : Option Nat :=
  let fits (w : Nat) : Bool := base ≤ w && w + size ≤ base + len && used.all (fun u => w + size ≤ u.1 || u.1 + u.2 ≤ w)
  ((base :: used.map (fun u => u.1 + u.2)).filter fits).foldl (fun best w => match best with
    | none => some w
    | some b => some (min b w)) none

/-- The populations of a priority that wait for admission, but for those of stopped packets. -/
def waitingAt (s : State) (p prio : Nat) : List Population := (tblGet [] (s.part p).waiting prio).filter (fun x => !popStopped s x)

/-- The pre-empted populations of a priority that wait to return, but for those of stopped packets. -/
def savedAt (s : State) (p prio : Nat) : List Population :=
  (s.part p).running.filter (fun x => x.prio = prio && x.saved ≠ [] && !popStopped s x)

/-- The most urgent priority of a partition with a population that waits. -/
def urgent (s : State) (p : Nat) : Option Nat := [3, 2, 1, 0].find? (fun k => waitingAt s p k ≠ [] || savedAt s p k ≠ [])

/-- The waiting population that the admission owner considers: the head of the most urgent list that is not empty. A list that
begins with a population to be restored has none (R118). -/
def admissionHead (s : State) (p : Nat) : Option Population :=
  (urgent s p).bind (fun k => if savedAt s p k ≠ [] then none else (waitingAt s p k).head?)

/-- Whether a population can never be admitted (R110). -/
def neverFits (s : State) (p : Population) : Bool :=
  (s.func p.fn).stklen.toNat < p.window || 15 * (popCores s p).length < p.count

/-- Whether a population's graph holds a failure, after which it is not admitted (03 R474). -/
def graphFailed (s : State) (o : Origin) : Bool :=
  match originGraph s o with
  | some g => match graphFind s g with
    | some e => e.failure.isSome
    | none => true
  | none => match o with
    | .batch _ _ _ => true
    | _ => false

/-- Take a population off the list in which it waits. -/
def popWaiting (x : Population) (s : State) : State :=
  s.modPart x.fn (fun q => { q with waiting := tblSet q.waiting x.prio ((tblGet [] q.waiting x.prio).filter (fun y => y.origin ≠ x.origin)) })

/-- The records of a batch, for the q6 of its threads (R124). -/
def batchRecords (o : Origin) : GM (List (BitVec 512)) := do
  let s ← gState
  match o with
  | .batch pa b n =>
    match lqFind s pa with
    | none => pure []
    | some q =>
      match q.batches.find? (fun x => x.bin = b && x.number = n) with
      | none => pure []
      | some x =>
        let v := lqDesc s pa
        (List.range x.n).mapM (fun i => do
          let r ← gNum (slotVa v b (x.first + i)) 64
          pure (BitVec.ofNat 512 r))
  | _ => pure []

/-- Records of a batch that each thread takes. -/
def perThread (s : State) : Origin → Nat
  | .batch pa _ _ => lqPer (lqDesc s pa)
  | _ => 0

/-- One launch record of an admitted population (04 R95). -/
def mkRecord (p : Population) (recs : List (BitVec 512)) (per first nthr : Nat) : LaunchRec :=
  let w (n : Nat) : Word := BitVec.ofNat 64 n
  { pc := w (pFld p.body 8 8), seed0 := w (pFld p.body 0x10 8), seed1 := w (pFld p.body 0x18 8), seed2 := w (pFld p.body 0x20 8)
    seed3 := w (pFld p.body 0x28 8), first := first, size := p.count, nthr := nthr, prio := p.prio, privS := p.privS
    coresident := p.coresident, quota := p.quota, gang := p.gang
    stktop := if p.stackBytes = 0 then 0 else w (p.stackBase + (p.count - first) * p.stackBytes), stkbytes := w p.stackBytes
    popid := BitVec.ofNat 32 p.popid, comp := p.comp, as := p.as, partition := p.fn
    batch := match p.origin with
      | .batch pa b n => some (pa, b, n)
      | _ => none
    perThread := per, records := recs, started := 0, headAt := none }

/-- The records of a population that is not co-resident: quota threads on each selected core in turn (R112). -/
def spread (cores : List Nat) (quota count : Nat) : Nat → Nat → Nat → List (Nat × Nat × Nat)
  | 0, _, _ => []
  | k + 1, t, j =>
    if count ≤ t then []
    else
      let n := min quota (count - t)
      (nth 0 cores (j % cores.length), t, n) :: spread cores quota count k (t + n) (j + 1)

/-- The records of a co-resident population: on each core the contexts reserved there. -/
def gather (cores reserve : List Nat) : List (Nat × Nat × Nat) :=
  (cores.foldl (fun (acc : List (Nat × Nat × Nat) × Nat) k =>
    let n := (reserve.filter (fun h => h / 16 = k)).length
    if n = 0 then acc else (acc.1 ++ [(k, acc.2, n)], acc.2 + n)) ([], 0)).1

/-- Admit a population whose conditions hold: its counter is set to 0 and its window, gang and records are fixed (R111, R112). -/
def admitPop (p : Population) (base : Nat) (s : State) : State :=
  let f := s.func p.fn
  let q := s.part p.fn
  let comp := (f.compbase.toNat + 8 * (q.nextPop % 8192)) % 2 ^ 64
  let s := popWaiting p s
  match runFn p.fn (do gPut comp 8 0; batchRecords p.origin) s with
  | (.error e, t) => badPopulation p.origin e (unreserve p.reserve t)
  | (.ok recs, s) =>
    let gid := if p.gangFlag then leastFree ((s.part p.fn).gangs.map (·.id)) 1 else 0
    let p := { p with popid := q.nextPop, stackBase := base, gang := gid, comp := BitVec.ofNat 64 comp, as := f.asReg }
    let plan := if p.coresident then gather (popCores s p) p.reserve else spread (popCores s p) p.quota p.count p.count 0 0
    let p := { p with records := plan.map (fun e => (e.1, mkRecord p recs (perThread s p.origin) e.2.1 e.2.2)) }
    s.modPart p.fn (fun q => { q with
      nextPop := (q.nextPop + 1) % 2 ^ 32, running := q.running ++ [p]
      gangs := if gid = 0 then q.gangs
        else q.gangs ++ [{ id := gid, reserved := p.count, coresident := p.coresident, members := [], generation := 0 }] })

/-- The stack windows in use. -/
def windowsUsed (s : State) (p : Nat) : List (Nat × Nat) :=
  ((s.part p).running.filter (fun x => x.window ≠ 0)).map (fun x => (x.stackBase, x.window))

/-- Whether the conditions of R110 hold for a head, but for its placement; its window base. -/
def admissionBase (s : State) (p : Population) : Option Nat :=
  let q := s.part p.fn
  let f := s.func p.fn
  if q.running.any (fun x => x.popid % 8192 = q.nextPop % 8192) then none
  else if p.gangFlag ∧ 4096 ≤ q.gangs.length then none
  else if p.stackBytes = 0 then some 0
  else findWindow f.stkbase.toNat f.stklen.toNat p.window (windowsUsed s p.fn)

/-- Store what a waiting head has reserved. -/
def setReserve (p : Population) (l : List Nat) (s : State) : State :=
  s.modPart p.fn (fun q => { q with waiting := tblSet q.waiting p.prio ((tblGet [] q.waiting p.prio).map (fun x =>
    if x.origin = p.origin then { x with reserve := l } else x)) })

/-- ADMIT_POPULATION (05 R110–R112): the owner considers the head of the most urgent list; it drops one whose graph has failed or that
can never be admitted, reserves contexts for one that is co-resident, and admits it when every condition holds. -/
def execAdmitPopulation (partition : Nat) (s : State) : Host.Outcome State Fault Refusal :=
  match admissionHead s partition with
  | none => .next s
  | some p =>
    if graphFailed s p.origin then .next (popWaiting p (unreserve p.reserve s))
    else if neverFits s p then .next (badPopulation p.origin 5 (popWaiting p (unreserve p.reserve s)))
    else
      let (l, s) := if p.coresident then reserveFor p s else (p.reserve, s)
      let p := { p with reserve := l }
      let s := if p.coresident then setReserve p l s else s
      if p.coresident ∧ l.length < p.count then .next s
      else match admissionBase s p with
        | none => .next s
        | some base => .next (admitPop p base s)

/-- Whether the admission of a partition's head would do something now. -/
def admissionReady (s : State) (p : Nat) : Bool :=
  match admissionHead s p with
  | none => false
  | some h =>
    graphFailed s h.origin || neverFits s h
      || (if h.coresident then
          let r := (reserveFor h s).1
          r ≠ h.reserve || (r.length = h.count && (admissionBase s h).isSome)
        else (admissionBase s h).isSome)

/-- The next launch record that has room: for each priority the first record of the earliest admitted population that has one left
(R113). Cores that a cut holds take none (11 R284). -/
def nextRecord (s : State) (p : Nat) : Option (Population × Nat × LaunchRec) :=
  [3, 2, 1, 0].findSome? (fun k =>
    match (s.part p).running.find? (fun x => x.prio = k && x.records ≠ [] && !popStopped s x) with
    | none => none
    | some x =>
      match x.records with
      | (c, r) :: _ =>
        if (tblGet [] (s.core c).launch k).length < 8 ∧ !(s.core c).kcut.arm then some (x, c, r) else none
      | [] => none)

/-- LAUNCH_RECORD_WRITE (05 R113): one record enters the sub-queue of its priority. -/
def execLaunchRecordWrite (partition : Nat) (s : State) : Host.Outcome State Fault Refusal :=
  match nextRecord s partition with
  | none => .next s
  | some (p, c, r) =>
    .next ((s.modPart partition (fun q => { q with running := q.running.map (fun x =>
      if x.popid = p.popid then { x with records := x.records.drop 1 } else x) })).modCore c (fun k =>
        { k with launch := tblSet k.launch p.prio (stampHead s.now (tblGet [] k.launch p.prio ++ [r])) }))

/- Completion (R115). -/

/-- A batch is complete: what its threads staged is committed in ascending thread index, and FREED advances over the completed
batches of its bin in order (R124, R125). -/
def batchDone (pa b n : Nat) (s : State) : State :=
  match lqFind s pa with
  | none => s
  | some q =>
    let mine := q.staged.filter (fun e => e.batch = n)
    let top := mine.foldl (fun m e => max m e.thread) 0
    let sorted := (List.range (top + 1)).flatMap (fun t => mine.filter (fun e => e.thread = t))
    let s := lqMod pa (fun q => { q with
      staged := q.staged.filter (fun e => e.batch ≠ n), commits := q.commits ++ sorted
      batches := q.batches.map (fun x => if x.bin = b ∧ x.number = n then { x with complete := true } else x) }) s
    let s := commitAll s
    match lqFind s pa with
    | none => s
    | some q =>
      let done := (q.batches.filter (fun x => x.bin = b)).takeWhile (·.complete)
      let freed := done.foldl (fun m x => m + x.n) 0
      let s := lqMod pa (fun q => { q with batches := q.batches.filter (fun x => !(x.bin = b && done.any (fun d => d.number = x.number))) }) s
      commitAll (runGraph q.graph q.fn (lqFree pa b freed) s).2

/-- What the end of a population means for where it came from. -/
def originDone (p : Population) (s : State) : State :=
  match p.origin with
  | .packet fn q seq => completeStarted fn q seq (pFld p.body 0x38 8) s
  | .node g n => completeNode g n (pFld p.body 0x38 8) s
  | .batch pa b n => batchDone pa b n s

/-- Whether the completion counter of a population equals its count. -/
def popCounted (s : State) (p : Population) : Bool :=
  match translate s { fnSpace s p.fn with root := p.as } .load p.comp.toNat with
  | .ok (r, _) => gRead s r.num 8 = p.count
  | .error _ => false

/-- Remove a population and free its window, its counter slot and its gang. -/
def removePopulation (p : Population) (s : State) : State :=
  s.modPart p.fn (fun q => { q with
    running := q.running.filter (fun x => x.popid ≠ p.popid), gangs := q.gangs.filter (fun g => p.gang = 0 || g.id ≠ p.gang) })

/-- POPULATION_COMPLETE (05 R115). -/
def execPopulationComplete (partition popid : Nat) (s : State) : Host.Outcome State Fault Refusal :=
  match (s.part partition).running.find? (fun x => x.popid = popid) with
  | none => .next s
  | some p => if popCounted s p then .next (originDone p (removePopulation p s)) else .next s

/- Kills (03 R83, step 2). -/

/-- Whether a save slot lies in a run of 16 (05 R116). -/
def inRun (first k : Nat) : Bool := first ≤ k && k < first + 16

/-- Whether a saved thread takes a save slot: a soft save has its first slot alone, a hard one its run (05 R116, R119). -/
def SavedThread.slots (v : SavedThread) (k : Nat) : Bool := if v.hard then inRun v.slot k else v.slot = k

/-- What stands for a saved thread where a hart's number is kept: in its gang and in its pair descents. -/
def savedKey (p slot : Nat) : Nat := 2 ^ 40 * (p + 1) + slot

/-- Withdraw the launch records of a population that no context has taken. -/
def withdrawRecords (p popid : Nat) (s : State) : State :=
  { s with cores := s.cores.map (fun c => (c.1, { c.2 with
      launch := c.2.launch.map (fun l => (l.1, stampHead s.now (l.2.filter (fun r => !(r.partition = p && r.popid.toNat = popid))))) })) }

/-- Kill the populations of a partition that a test names: those that wait go, and of those that run the records are withdrawn and
the threads stopped. Answers the stopped contexts. -/
def killPopulations (p : Nat) (t : Population → Bool) (s : State) : List Nat × State :=
  let q := s.part p
  let gone := (q.waiting.flatMap (·.2)).filter t
  let mine := q.running.filter t
  let s := gone.foldl (fun s x => unreserve x.reserve s) s
  let s := s.modPart p (fun q => { q with waiting := q.waiting.map (fun e => (e.1, e.2.filter (fun x => !t x))) })
  mine.foldl (fun (acc : List Nat × State) x =>
    let hs := threadsOf acc.2 p (fun i => i.popid.toNat = x.popid)
    let s := stopThreads hs (withdrawRecords p x.popid (unreserve x.reserve acc.2))
    let keys := x.saved.map (savedKey p)
    let s := (s.descents.filter (fun d => keys.contains d.hart)).foldl (fun t d => endDescent p d t) s
    let s := s.modPart p (fun q => { q with
      gangs := (q.gangs.map (fun g => { g with members := g.members.filter (fun m => !keys.contains m.who) })).filter (fun g =>
        g.members ≠ [] || g.reserved ≠ 0)
      images := q.images.map (fun i => { i with harts := i.harts.filter (fun e => !(isVector e.1 && ctxOf e.1 ≠ 0 && e.2.thread.popid.toNat = x.popid)) })
      saved := q.saved.filter (fun v => v.populationOf ≠ x.popid)
      slotsUsed := q.slotsUsed.filter (fun k =>
        !(q.saved.any (fun v => v.populationOf = x.popid && v.slots k)) && !(q.victims.any (fun v => hs.contains v.1 && inRun v.2.1 k)))
      victims := q.victims.filter (fun v => !hs.contains v.1) })
    (acc.1 ++ hs, removePopulation x s)) ([], s)

/-- Kill a graph: its populations stop, its queues are detached, its units and nodes stop (03 R83; 05 R127). -/
def killGraph (g : Nat) (s : State) : List Nat × State :=
  match graphFind s g with
  | none => ([], s)
  | some e =>
    let (l, s) := killPopulations e.fn (fun p => originGraph s p.origin = some g) s
    let s := detachQueues g s
    (l, { s with graphs := s.graphs.filter (fun x => x.id ≠ g), units := s.units.filter (fun u => u.graph ≠ g) })

/-- A forwarded packet that stands in an inbox is taken out, as one that has started there and whose work is stopped. -/
def takeInbox (fn q seq : Nat) (s : State) : State :=
  { s with funcs := s.funcs.map (fun (f : Nat × Func) => (f.1, { f.2 with queues := f.2.queues.map (fun (k : Nat × Queue) =>
      match k.2.inbox.find? (fun i => i.srcFn = fn && i.srcQ = q && i.srcSeq = seq) with
      | none => k
      | some i =>
        let e : Started := { seqNo := k.2.nextSeq, packet := i.packet, at_ := cmdCycles s, src := some (i.sieve, fn, q, seq), expired := true }
        (k.1, { k.2 with inbox := k.2.inbox.filter (fun x => x ≠ i), nextSeq := k.2.nextSeq + 1, started := k.2.started ++ [e] })) })) }

/-- Stop the work of a started packet of a queue: its population, on either side of a forwarding, or its graph. What a forwarded packet
started in its target queue ends there once its writes are acknowledged. -/
def stopPacket (fn q seq : Nat) (s : State) : List Nat × State :=
  let here := s.graphs.filter (fun g => g.fn = fn && g.q = q && g.seqNo = seq)
  let s := takeInbox fn q seq s
  let there := s.funcs.flatMap (fun f => f.2.queues.flatMap (fun k => (k.2.started.filter (fun e => match e.src with
    | some (_, a, b, c) => a = fn && b = q && c = seq
    | none => false)).map (fun e => (f.1, k.1, e.seqNo))))
  let (l, s) := killPopulations fn (fun p => p.origin = .packet fn q seq) s
  let (l, s) := there.foldl (fun (acc : List Nat × State) x =>
    let (l, s) := killPopulations x.1 (fun p => p.origin = .packet x.1 x.2.1 x.2.2) acc.2
    (acc.1 ++ l, modStarted x.1 x.2.1 x.2.2 (fun e => { e with expired := true, harts := l ++ e.harts }) s)) (l, s)
  here.foldl (fun (acc : List Nat × State) g =>
    let (l, s) := killGraph g.id acc.2
    (acc.1 ++ l, s)) (l, s)

/-- Stop the work of several packets. -/
def stopPackets (l : List (Nat × Nat × Nat)) (s : State) : List Nat × State :=
  l.foldl (fun (acc : List Nat × State) e =>
    let (h, s) := stopPacket e.1 e.2.1 e.2.2 acc.2
    (acc.1 ++ h, s)) ([], s)

end Sys2Proof.Machine
end

