-- ==== Sys2Proof/Machine/Sm.lean ====
section
/-! DEFINITION. The SM3 digest (GB/T 32905) and the verification of SM2 signatures (GB/T 32918), which 01 R32 names (notes/assumptions/5.md).
A digest is kept as the number whose least significant byte is the first of the digest's bytes; a signature and a public key are two numbers
of 32 bytes, the first in the upper half. -/

namespace Sys2Proof.Machine

/- SM3. -/

/-- A word of SM3 rotated left. -/
def sm3Rol (x : BitVec 32) (n : Nat) : BitVec 32 := x.rotateLeft (n % 32)

/-- The big-endian number of some bytes. -/
def beNat (bs : List Byte) : Nat := bs.foldl (fun n b => n * 256 + b.toNat) 0

/-- n bytes of a number, most significant first. -/
def beBytes (n v : Nat) : List Byte := (leBytes n v).reverse

/-- A message with its padding: a one bit, zeros, and the length in bits. -/
def sm3Pad (bs : List Byte) : List Byte :=
  bs ++ [0x80] ++ List.replicate ((119 - bs.length % 64) % 64) 0 ++ beBytes 8 (8 * bs.length)

/-- The words of a block from word 16 on: each from the sixteen before it, newest first. -/
def sm3Expand : Nat → List (BitVec 32) → List (BitVec 32)
  | 0, w => w
  | n + 1, w =>
    let p (k : Nat) : BitVec 32 := nth 0 w (k - 1)
    let x := p 16 ^^^ p 9 ^^^ sm3Rol (p 3) 15
    sm3Expand n ((x ^^^ sm3Rol x 15 ^^^ sm3Rol x 23 ^^^ sm3Rol (p 13) 7 ^^^ p 6) :: w)

/-- One round on the registers A to H. -/
def sm3Round (v : List (BitVec 32)) (j : Nat) (w w' : BitVec 32) : List (BitVec 32) :=
  match v with
  | [a, b, c, d, e, f, g, h] =>
    let t : BitVec 32 := if j < 16 then 0x79CC4519 else 0x7A879D8A
    let ss1 := sm3Rol (sm3Rol a 12 + e + sm3Rol t j) 7
    let ff := if j < 16 then a ^^^ b ^^^ c else (a &&& b) ||| (a &&& c) ||| (b &&& c)
    let gg := if j < 16 then e ^^^ f ^^^ g else (e &&& f) ||| (~~~e &&& g)
    let tt1 := ff + d + (ss1 ^^^ sm3Rol a 12) + w'
    let tt2 := gg + h + ss1 + w
    [tt1, a, sm3Rol b 9, c, tt2 ^^^ sm3Rol tt2 9 ^^^ sm3Rol tt2 17, e, sm3Rol f 19, g]
  | _ => v

/-- The chaining value after one block of 64 bytes. -/
def sm3Block (v : List (BitVec 32)) (block : List Byte) : List (BitVec 32) :=
  let first := (List.range 16).map (fun i => BitVec.ofNat 32 (beNat ((block.drop (4 * i)).take 4)))
  let w := (sm3Expand 52 first.reverse).reverse
  let u := (List.range 64).foldl (fun v j => sm3Round v j (nth 0 w j) (nth 0 w j ^^^ nth 0 w (j + 4))) v
  List.zipWith (· ^^^ ·) u v

/-- The chaining value after the blocks of a padded message. -/
def sm3Blocks : Nat → List Byte → List (BitVec 32) → List (BitVec 32)
  | 0, _, v => v
  | n + 1, bs, v => sm3Blocks n (bs.drop 64) (sm3Block v (bs.take 64))

/-- The bytes of the SM3 digest of a message. -/
def sm3Bytes (bs : List Byte) : List Byte :=
  let p := sm3Pad bs
  (sm3Blocks (p.length / 64) p
    [0x7380166F, 0x4914B2B9, 0x172442D7, 0xDA8A0600, 0xA96F30BC, 0x163138AA, 0xE38DEE4D, 0xB0FB0E4E]).flatMap (fun x => beBytes 4 x.toNat)

/-- The SM3 digest of a message. -/
def sm3 (bs : List Byte) : BitVec 256 := BitVec.ofNat 256 (leNat (sm3Bytes bs))

/- The curve of SM2: y² = x³ − 3x + b over the integers modulo p. -/

def sm2P : Nat := 0xFFFFFFFEFFFFFFFFFFFFFFFFFFFFFFFFFFFFFFFF00000000FFFFFFFFFFFFFFFF
def sm2B : Nat := 0x28E9FA9E9D9F5E344D5A9E4BCF6509A7F39789F515AB8F92DDBCBD414D940E93
def sm2N : Nat := 0xFFFFFFFEFFFFFFFFFFFFFFFFFFFFFFFF7203DF6B21C6052B53BBF40939D54123
def sm2Gx : Nat := 0x32C4AE2C1F1981195F9904466A39C9948FE30BBFF2660BE1715A4589334C74C7
def sm2Gy : Nat := 0xBC3736A2F4F6779C59BDCEE36B692153D0A9877CC62A474002DF32E52139F0A0

/-- A point as X, Y, Z with x = X / Z² and y = Y / Z³; Z is 0 at infinity. -/
structure Sm2Point where
  x : Nat
  y : Nat
  z : Nat
deriving DecidableEq, Repr

/-- Twice a point. -/
def Sm2Point.double (q : Sm2Point) : Sm2Point :=
  let m := sm2P
  let zz := q.z * q.z % m
  let s := 4 * q.x * (q.y * q.y % m) % m
  let w := 3 * (q.x + (m - zz)) * (q.x + zz) % m
  let x := (w * w + 2 * (m - s)) % m
  { x := x, y := (w * (s + (m - x)) + 8 * (m - q.y * q.y % m * (q.y * q.y % m) % m)) % m, z := 2 * q.y * q.z % m }

/-- The sum of two points. -/
def Sm2Point.add (q r : Sm2Point) : Sm2Point :=
  let m := sm2P
  if q.z = 0 then r
  else if r.z = 0 then q
  else
    let qz := q.z * q.z % m
    let rz := r.z * r.z % m
    let u := q.x * rz % m
    let h := (r.x * qz + (m - u)) % m
    let v := q.y * (rz * r.z % m) % m
    let d := (r.y * (qz * q.z % m) + (m - v)) % m
    if h = 0 then (if d = 0 then q.double else { x := 1, y := 1, z := 0 })
    else
      let hh := h * h % m
      let hhh := hh * h % m
      let x := (d * d + (m - hhh) + 2 * (m - u * hh % m)) % m
      { x := x, y := (d * (u * hh % m + (m - x)) + (m - v * hhh % m)) % m, z := h * (q.z * r.z % m) % m }

/-- k times a point, from the n low bits of k, the highest first. -/
def Sm2Point.times (q : Sm2Point) (k : Nat) : Nat → Sm2Point → Sm2Point
  | 0, acc => acc
  | n + 1, acc => q.times k n (if k.testBit n then acc.double.add q else acc.double)

/-- a to the n low bits of k modulo p, the highest bit first. -/
def sm2Pow (a k : Nat) : Nat → Nat → Nat
  | 0, acc => acc
  | n + 1, acc => sm2Pow a k n (if k.testBit n then acc * acc % sm2P * a % sm2P else acc * acc % sm2P)

/-- The affine x of a point. -/
def Sm2Point.affineX (q : Sm2Point) : Nat :=
  let i := sm2Pow q.z (sm2P - 2) 256 1
  q.x * (i * i % sm2P) % sm2P

/-- The digest of the signer's identity "1234567812345678", the curve and the public key. -/
def sm2Za (x y : Nat) : List Byte :=
  sm3Bytes ([0x00, 0x80, 0x31, 0x32, 0x33, 0x34, 0x35, 0x36, 0x37, 0x38, 0x31, 0x32, 0x33, 0x34, 0x35, 0x36, 0x37, 0x38]
    ++ [sm2P - 3, sm2B, sm2Gx, sm2Gy, x, y].flatMap (beBytes 32))

/-- Whether a signature over a message verifies under a public key. -/
def sm2Verifies (key : BitVec 512) (message : List Byte) (signature : BitVec 512) : Bool :=
  let x := key.toNat / 2 ^ 256
  let y := key.toNat % 2 ^ 256
  let r := signature.toNat / 2 ^ 256
  let s := signature.toNat % 2 ^ 256
  let e := beNat (sm3Bytes (sm2Za x y ++ message))
  let t := (r + s) % sm2N
  let none : Sm2Point := { x := 1, y := 1, z := 0 }
  let q := ((Sm2Point.mk sm2Gx sm2Gy 1).times s 256 none).add ((Sm2Point.mk x y 1).times t 256 none)
  decide (x < sm2P) && decide (y < sm2P) && decide (y * y % sm2P = (x * x * x + (sm2P - 3) * x + sm2B) % sm2P)
    && decide (0 < r) && decide (r < sm2N) && decide (0 < s) && decide (s < sm2N) && t ≠ 0 && q.z ≠ 0
    && decide ((e + q.affineX) % sm2N = r)

end Sys2Proof.Machine
end

