-- ==== Sys2Proof/Machine/Packets.lean ====
section
/-! DEFINITION. Command cores: the fetch, check and start of packets (02 R48–R50; 03 R61–R80), the plug-in's choice, the Weighbridge
processor, KILL and the watchdog. -/

namespace Sys2Proof.Machine

/- Rings. -/

/-- Translate an address of a queue's own space: an IOVA of the function, below 2^60, or guest-physical (02 R47). ERR code 3 where it fails. -/
def ringReach (s : State) (fn : Nat) (k : Queue) (acc : Acc) (a : Nat) : Except Nat Nat :=
  if !k.space then
    if 2 ^ 60 ≤ a ∨ s.pagesRefused.contains ((2 ^ 60 * fn + a) / 4096) then .error 3 else .ok (hostBase + 2 ^ 60 * fn + a)
  else match stage2 s fn acc a with
    | .error _ => .error 3
    | .ok t =>
      if t.host ∧ s.pagesRefused.contains (t.pa / 4096) then .error 3
      else match afterWalk s acc { pa := t.pa, host := t.host } with
      | .ok r => .ok r.num
      | .error _ => .error 3

/-- The packet at a queue's HEAD: ERR code 3 for a failed translation and 4 for failing data (02 R50). -/
def ringPacket (s : State) (fn : Nat) (k : Queue) : Except Nat (BitVec 512) :=
  match ringReach s fn k .load (k.qbase.toNat + 64 * k.head) with
  | .error e => .error e
  | .ok a => if (heldByte s a 64).isSome then .error 4 else .ok (BitVec.ofNat 512 (gRead s a 64))

/-- The next packet of a queue: the head of its inbox, or the one at HEAD (03 R69). -/
def nextPacket (s : State) (fn q : Nat) : Option (Except Nat (BitVec 512) × Option Inbox) :=
  let k := s.queue fn q
  if !k.en ∨ k.qstate = 3 then none
  else match k.inbox with
    | i :: _ => some (.ok i.packet, some i)
    | [] => if k.head = k.tail then none else some (ringPacket s fn k, none)

/-- A bit vector of n bytes with the bits of a list set. -/
def bitBytes (n : Nat) (l : List Nat) : List Byte := leBytes n (l.foldl (fun v k => v ||| 2 ^ k) 0)

/-- The numbers from a to b. -/
def upTo (a b : Nat) : List Nat := (List.range (b + 1 - a)).map (· + a)

/-- The feature profile (04 R99): the version, the part, the op10 values and the short-format instructions that the device has, the lanes and the
rows of each element width (08 R186); what the manual gives no layout for is the implementation's (notes/assumptions/5.md). -/
def featureProfile : List Byte :=
  leBytes 4 1 ++ leBytes 4 3
    ++ bitBytes 128 (upTo 0x000 0x00A ++ upTo 0x00C 0x00D ++ upTo 0x040 0x057 ++ upTo 0x080 0x092 ++ [0x0C0] ++ upTo 0x0E0 0x0EC
      ++ upTo 0x100 0x105 ++ upTo 0x140 0x148 ++ upTo 0x180 0x188 ++ upTo 0x1C0 0x1C6)
    ++ bitBytes 48 (upTo 0 5 ++ upTo 48 52 ++ upTo 96 100 ++ upTo 144 149 ++ upTo 192 193 ++ [240])
    ++ [32, 32, 16, 8, 4] ++ (List.range 19).map Config.profileByte ++ List.replicate 48 0

/-- The header of a cut image that a mode-2 CUT names (11 R286): VALID, the device hash and the cluster count agree. -/
def imageOk (fn image : Nat) : GM Bool := do
  let h ← gNum image 64
  let s ← gState
  let hash := BitVec.ofNat 256 (byteFld h 8 32)
  pure (byteFld h 0 4 = 0x54434741 && byteFld h 4 4 = 1 && hash = sm3 featureProfile
    && byteFld h 0x28 4 = (clustersOf s fn).length && byteFld h 0x2D 1 = 1)

/-- The checks of a packet at the head of its queue: the ERR code of a failure (03 R74). -/
def packetCheck (s : State) (fn : Nat) (p : BitVec 512) (forwarded : Bool) : Option Nat :=
  let mode := wfld (s.func fn).asReg 63 60
  -- a forwarded packet keeps to the target's ASMODE (R65)
  if forwarded then (if mode = 0 ∨ mode = 9 then none else some 5)
  else if !packetOk s fn p then some 5
  else if pFld p 0 1 = 9 ∧ pBits p 4 1 0 = 2 then
    match (runFn fn (imageOk fn (pFld p 8 8)) s).1 with
    | .ok true => none
    | .ok false => some 5
    | .error e => some e
  else none

/-- Whether a partition's work does not go on: a CUT, a RESIZE or a partition reset is under way. -/
def partitionBusy (s : State) (p : Nat) : Bool := (s.part p).entry.state ≠ 1

/-- The queues that a KILL targets, as (function, queue). -/
def killQueues (fn q : Nat) (p : BitVec 512) : List (Nat × Nat) :=
  match pBits p 4 1 0 with
  | 0 => [(fn, q)]
  | 1 => [(fn, pBits p 5 3 0)]
  | _ => (List.range 16).map (fun k => (partByte (pFld p 6 1), k))

/-- The started packets that a KILL with a number stops: every one that is not complete, of its own queue only earlier ones. -/
def killTargets (s : State) (fn q seq : Nat) (p : BitVec 512) : List (Nat × Nat × Nat) :=
  (killQueues fn q p).flatMap (fun k => ((s.queue k.1 k.2).started.filter (fun e => k ≠ (fn, q) || e.seqNo < seq)).map (fun e => (k.1, k.2, e.seqNo)))

/-- What a packet has started in other queues by a forwarding, as (function, queue, number). -/
def forwardedFrom (s : State) (fn q seq : Nat) : List (Nat × Nat × Nat) :=
  s.funcs.flatMap (fun f => f.2.queues.flatMap (fun k => (k.2.started.filter (fun e => match e.src with
    | some (_, a, b, c) => a = fn && b = q && c = seq
    | none => false)).map (fun e => (f.1, k.1, e.seqNo))))

/-- The threads of a started packet's populations, those of a forwarded population included. -/
def packetThreads (s : State) (fn q seq : Nat) : List Nat :=
  let gs := (s.graphs.filter (fun g => g.fn = fn && g.q = q && g.seqNo = seq)).map (·.id)
  let of (f : Nat) (o : Origin) : List Nat :=
    ((s.part f).running.filter (fun p => p.origin = o || (match originGraph s p.origin with
      | some g => gs.contains g
      | none => false))).flatMap (fun p => threadsOf s f (fun t => t.popid.toNat = p.popid))
  of fn (.packet fn q seq) ++ (forwardedFrom s fn q seq).flatMap (fun x => of x.1 (.packet x.1 x.2.1 x.2.2))

/-- Whether a thread's context save is in progress. -/
def savingNow (s : State) (h : Nat) : Bool := saving s (s.hart h).thread.partition h

/-- Whether a cut lies over a partition: one of its own, or that of a RESIZE which changes its entry. -/
def cutCovers (s : State) (p : Nat) : Bool :=
  (s.part p).cut.isSome || (match (s.part 64).cut with
    | some k => k.kind = 3 && k.entries.any (fun e => e.1 = p)
    | none => false)

/-- Whether a cut, or a context save, of a started packet's work is in progress, on either side of a forwarding. -/
def workHeld (s : State) (fn q seq : Nat) : Bool :=
  cutCovers s fn || (forwardedFrom s fn q seq).any (fun x => cutCovers s x.1) || (packetThreads s fn q seq).any (savingNow s)

/-- Whether a KILL must wait: a cut of its partition, or of the work that it stops, has not recorded yet, or a save of that work is in progress
(R86; 05 R120). -/
def killWaits (s : State) (fn q : Nat) (p : BitVec 512) : Bool :=
  let at_ := if pBits p 4 1 0 = 2 then partByte (pFld p 6 1) else fn
  (s.part at_).entry.state = 2 || cutCovers s at_
    || (killTargets s fn q (s.queue fn q).nextSeq p).any (fun e => workHeld s e.1 e.2.1 e.2.2)

/-- Whether a packet at the head of its queue may start (03 R75): no earlier WAIT is incomplete, earlier packets are complete where the
type or SERIAL asks for it, and no cut is in its way (R84, R86; 11 R284). -/
def mayStart (s : State) (fn q : Nat) (p : BitVec 512) : Bool :=
  let k := s.queue fn q
  let type := pFld p 0 1
  let serial := pBits p 1 0 0 = 1
  !k.started.any (fun e => pFld e.packet 0 1 = 4)
    && ((!serial && !([5, 6, 7, 10, 12].contains type)) || k.started = [])
    && !s.weighbridge.any (fun w => w.1 = fn && w.2.1 = q)
    && (match type with
      | 1 => !partitionBusy s fn
      | 2 => !partitionBusy s fn
      | 8 => !killWaits s fn q p
      | 9 => !partitionBusy s fn && !cutCovers s fn
      | 12 => !s.parts.any (fun e => e.2.cut.isSome)
      | _ => true)

/-- Write the head index to QWB after a fetch (02 R47, R49): 8 bytes in the queue's space; a failure is ERR 3. -/
def writeHead (fn q : Nat) (s : State) : State :=
  let k := s.queue fn q
  if !k.wben then s
  else match ringReach s fn k .store k.qwb.toNat with
    | .error e => queueError fn q e s
    | .ok a => deviceWrite fn (cellsAt a (leBytes 8 k.head)) s

/-- QSTATE after the ring has changed: 2 until it is empty, then 1. -/
def queueState (k : Queue) : Queue := if k.qstate = 3 then k else { k with qstate := if k.head = k.tail then 1 else 2 }

/-- The head packet has started: HEAD, or the inbox, moves past it, and it is listed. -/
def consume (fn q : Nat) (p : BitVec 512) (src : Option Inbox) (s : State) : Nat × State :=
  let k := s.queue fn q
  let e : Started :=
    { seqNo := k.nextSeq, packet := p, at_ := cmdCycles s
      src := src.map (fun i => (i.sieve, i.srcFn, i.srcQ, i.srcSeq)) }
  let s := s.modQueue fn q (fun k =>
    let k := { k with nextSeq := k.nextSeq + 1, startedCount := k.startedCount + 1, started := k.started ++ [e], headSince := cmdCycles s }
    match src with
    | some _ => { k with inbox := k.inbox.drop 1 }
    | none => queueState { k with head := (k.head + 1) % 2 ^ k.size })
  (k.nextSeq, (if src.isSome then s else writeHead fn q s).modPart fn (fun p => { p with lastQueue := q }))

/-- Fetch, check and start the next packet of a queue where it is of a type and may start. -/
def startPacket (type fn q : Nat) (run : Nat → BitVec 512 → Option Inbox → State → State) (s : State) : State :=
  match nextPacket s fn q with
  | none => s
  | some (.error e, _) => queueError fn q e s
  | some (.ok p, src) =>
    match packetCheck s fn p src.isSome with
    | some e => queueError fn q e s
    | none =>
      if pFld p 0 1 ≠ type ∨ !mayStart s fn q p then s
      else
        let (n, s) := consume fn q p src s
        run n p src s

/-- A started packet stops at a fault: the writes performed remain (R74). -/
def faultStarted (fn q seq err : Nat) (s : State) : State := queueError fn q err (dropStarted fn q seq s)

/-- Run the work of a started packet to its end. -/
def workStarted (fn q seq done : Nat) (x : GM Unit) (s : State) : State :=
  match runFn fn x s with
  | (.ok _, t) => completeStarted fn q seq done t
  | (.error e, t) => faultStarted fn q seq e t

/- POPULATE, and forwarding (R66–R69). -/

/-- The lowest Sieve entry that admits a forwarded packet to its target and queue. -/
def sieveFind (s : State) (src : Nat) (p : BitVec 512) : Option Nat :=
  (List.range 1024).find? (fun k =>
    let v := (tblGet ({} : Sieve) s.sieve k).w0
    v.getLsbD 0 && partByte (wfld v 15 8) = src && partByte (wfld v 23 16) = partByte (pFld p 2 1)
      && v.getLsbD (24 + pFld p 3 1 % 16))

/-- The Sieve entry that accepts a forwarded packet (R68). -/
def sieveAccepts (s : State) (src : Nat) (p : BitVec 512) : Option Nat :=
  match sieveFind s src p with
  | none => none
  | some k =>
    let v := tblGet ({} : Sieve) s.sieve k
    let t := s.queue (partByte (pFld p 2 1)) (pFld p 3 1)
    if v.pcLo.toNat ≤ pFld p 8 8 ∧ pFld p 8 8 < v.pcHi.toNat ∧ pFld p 0x30 4 ≤ v.maxCount ∧ (t.qstate = 1 ∨ t.qstate = 2) then some k
    else none

/-- A started POPULATE: handed to the admission owner with its own priority, the plug-in's, or one clamped to PRIOCAP (05 R109). -/
def runPopulate (fn q : Nat) (prio : Option Nat) (seq : Nat) (p : BitVec 512) (src : Option Inbox) (s : State) : State :=
  let own := prio.getD (pBits p 5 1 0)
  match src with
  | none => submit (.packet fn q seq) fn p own none s
  | some i =>
    let cap := wfld (tblGet ({} : Sieve) s.sieve i.sieve).w0 41 40
    submit (.packet fn q seq) fn p (min own cap) (some i.sieve) s

/-- POPULATE starts; one with XT = 1 is passed to the Weighbridge processor, and its queue waits for the verdict. -/
def startPopulate (fn q : Nat) (prio : Option Nat) (s : State) : State :=
  match nextPacket s fn q with
  | some (.ok p, none) =>
    if pFld p 0 1 = 1 ∧ pBits p 1 1 1 = 1 ∧ packetCheck s fn p false = none ∧ mayStart s fn q p then
      { s with weighbridge := s.weighbridge ++ [(fn, q, (s.queue fn q).nextSeq, p)] }
    else startPacket 1 fn q (runPopulate fn q prio) s
  | _ => startPacket 1 fn q (runPopulate fn q prio) s

/-- POPULATE (03 R68, R72, R75). -/
def execPopulate (fn q : Nat) (s : State) : Host.Outcome State Fault Refusal := .next (startPopulate fn q none s)

/-- Whether a packet at the Weighbridge processor can be dealt with: it is refused, or there is a credit and room in the inbox. -/
def forwardReady (s : State) (w : Nat × Nat × Nat × BitVec 512) : Bool :=
  match sieveAccepts s w.1 w.2.2.2 with
  | none => true
  | some k =>
    let v := tblGet ({} : Sieve) s.sieve k
    v.inflight < wfld v.w0 63 48 && (s.queue (partByte (pFld w.2.2.2 2 1)) (pFld w.2.2.2 3 1)).inbox.length < 64

/-- FORWARDED_PACKET_ACCEPT (03 R66–R69): the first packet that can be dealt with enters the inbox of its target queue, or is a bad
packet of its source queue. One that waits for a credit or for room in the inbox is passed by later packets of other queues
(notes/assumptions/64.md). -/
def execForwardedPacketAccept (s : State) : Host.Outcome State Fault Refusal :=
  match s.weighbridge.find? (forwardReady s) with
  | none => .next s
  | some (fn, q, seq, p) =>
    let s := dropPassed fn q s
    match sieveAccepts s fn p with
    | none => .next (queueError fn q 5 s)
    | some k =>
      let (_, s) := consume fn q p none s
      let tf := partByte (pFld p 2 1)
      let tq := pFld p 3 1
      .next ((s.modSieve k (fun v => { v with inflight := v.inflight + 1 })).modQueue tf tq (fun t =>
        { t with inbox := t.inbox ++ [{ packet := p, sieve := k, srcFn := fn, srcQ := q, srcSeq := seq }] }))

/- COPY (R76). -/

/-- The units of a destination range in ascending order: (first byte, bytes), aligned to 128 and clipped. -/
def copyUnits : Nat → Nat → Nat → List (Nat × Nat)
  | 0, _, _ => []
  | k + 1, dst, n =>
    if n = 0 then []
    else
      let m := min n (128 - dst % 128)
      (dst, m) :: copyUnits k (dst + m) (n - m)

/-- Read source bytes as they stood in an earlier state. -/
def gBytesOf (s0 : State) (va n : Nat) : GM (List Byte) := fun r =>
  match gBytesAt va n (n / 64 + 2) { r with s := s0 } with
  | (x, _) => (x, r)

/-- A COPY's work: every unit whole, in the order that keeps an overlapping source. -/
def copyG (fill : Bool) (src dst n : Nat) : GM Unit := do
  let s0 ← gState
  let units := copyUnits (n / 128 + 2) dst n
  (if fill ∨ dst ≤ src then units else units.reverse).forM (fun u => do
    let bs ← (if fill then pure ((List.range u.2).map (fun i => BitVec.ofNat 8 (src >>> (8 * ((u.1 + i - dst) % 8)))))
      else gBytesOf s0 ((src + (u.1 - dst)) % 2 ^ 64) u.2)
    gPiece (u.1 % 2 ^ 64) bs)

/-- The work of a COPY body. -/
def copyBody (p : BitVec 512) : GM Unit := copyG (pBits p 4 0 0 = 1) (pFld p 8 8) (pFld p 0x10 8) (pFld p 0x18 5)

/-- COPY (03 R76). -/
def execCopy (fn q : Nat) (s : State) : Host.Outcome State Fault Refusal :=
  .next (startPacket 3 fn q (fun seq p _ s => workStarted fn q seq (pFld p 0x20 8) (copyBody p) s) s)

/- WAIT, NOP, ADD, FENCE, HOSTINT. -/

/-- WAIT (03 R75, R78): it stands among the started packets until a read of its counter answers its value or more. -/
def execWait (fn q : Nat) (s : State) : Host.Outcome State Fault Refusal :=
  .next (startPacket 4 fn q (fun _ _ _ s => s) s)

/-- Whether the counter that a body names at 0x08 has reached its value at 0x10. -/
def counterReached (p : BitVec 512) : GM Bool := do
  let v ← gNum (pFld p 8 8) 8
  pure (pFld p 0x10 8 ≤ v)

/-- WAIT_SATISFIED (03 R75): the read that ends a WAIT of a queue, or its fault. -/
def execWaitSatisfied (fn q : Nat) (s : State) : Host.Outcome State Fault Refusal :=
  match (s.queue fn q).started.find? (fun e => pFld e.packet 0 1 = 4 && e.stopped.isNone) with
  | none => .next s
  | some e =>
    match runFn fn (counterReached e.packet) s with
    | (.ok true, t) => .next (dropStarted fn q e.seqNo t)
    | (.ok false, t) => .next t
    | (.error c, t) => .next (faultStarted fn q e.seqNo c t)

/-- NOP (03 R75): complete at its start. -/
def execNop (fn q : Nat) (s : State) : Host.Outcome State Fault Refusal :=
  .next (startPacket 11 fn q (fun seq _ _ s => dropStarted fn q seq s) s)

/-- The work of an ADD body, and its event. -/
def addBody (p : BitVec 512) : GM Unit := gAdd (pFld p 8 8) (pFld p 0x10 8)

/-- The event that an ADD body posts. -/
def addEvent (fn : Nat) (p : BitVec 512) (s : State) : State := if pBits p 5 7 7 = 1 then postEvent fn (pBits p 5 4 0) s else s

/-- ADD (03 R79, R87). -/
def execAddPacket (fn q : Nat) (s : State) : Host.Outcome State Fault Refusal :=
  .next (startPacket 5 fn q (fun seq p _ s => match runFn fn (addBody p) s with
    | (.ok _, t) => addEvent fn p (dropStarted fn q seq t)
    | (.error e, t) => faultStarted fn q seq e t) s)

/-- FENCE (03 R79): the command core's writes are performed when it starts, so its release is. -/
def execFencePacket (fn q : Nat) (s : State) : Host.Outcome State Fault Refusal :=
  .next (startPacket 7 fn q (fun seq _ _ s => dropStarted fn q seq s) s)

/-- HOSTINT (03 R87): the settings, the status write, the event. -/
def execHostint (fn q : Nat) (s : State) : Host.Outcome State Fault Refusal :=
  .next (startPacket 10 fn q (fun seq p _ s =>
    let vec := pBits p 4 4 0
    let s := if pBits p 5 0 0 = 1 then s.modMsix fn vec (fun v => { v with countTh := pFld p 6 2, timer := pFld p 8 4 }) else s
    if pFld p 0x10 8 = 0 then postEvent fn vec (dropStarted fn q seq s)
    else match runFn fn (gPut (pFld p 0x10 8) 8 (pFld p 0x18 8)) s with
      | (.ok _, t) => postEvent fn vec (dropStarted fn q seq t)
      | (.error e, t) => faultStarted fn q seq e t) s)

/-- COALESCE_TIMER_EXPIRY (03 R87): the timer of a vector with pending events is reached. -/
def execCoalesceTimerExpiry (fn vec : Nat) (s : State) : Host.Outcome State Fault Refusal :=
  let v := s.vector fn vec
  .next (if v.pending ≠ 0 ∧ v.since + v.timer ≤ cmdCycles s then fireVector fn vec s else s)

/-- MSIX_UNMASK (03 R87): the host unmasks a vector, and a message kept in its PCIe pending bit goes. -/
def execMsixUnmask (fn vec : Nat) (s : State) : Host.Outcome State Fault Refusal :=
  let kept := (s.vector fn vec).pciePending
  let s := s.modMsix fn vec (fun v => { v with masked := false, pciePending := false })
  .next (if kept then sendMsix fn vec s else s)

/- PATCH (R80). -/

/-- The physical address of a text byte on a die: through that die's text root, as text pages carry no W (04 R104, R105). -/
def textReach (s : State) (fn die va : Nat) : Except Nat Nat :=
  match translate s { fnSpace s fn with unit := 512 * die, mstatus := 0xC0000 } .load va with
  | .error _ => .error 3
  | .ok (r, _) =>
    if r.host then .ok r.num
    else match regionOf s r.pa with
      | some k => if (s.region k).freeze then .error 3 else .ok r.num
      | none => .ok r.num

/-- Write the units of a patch into a die's replica; an ERR code stops what follows and leaves what is written (R74). -/
def patchDie (fn die text : Nat) (bs : List Byte) (r : Option Nat × State) : Option Nat × State :=
  (copyUnits (bs.length / 128 + 2) text bs.length).foldl (fun (r : Option Nat × State) u =>
    match r with
    | (some e, t) => (some e, t)
    | (none, t) => match textReach t fn die (u.1 % 2 ^ 64) with
      | .error e => (some e, t)
      | .ok a =>
        if t.failing.contains (sectorOf a) ∧ u.2 < 128 then (some 4, t)
        else (none, deviceWrite fn (cellsAt a ((bs.drop (u.1 - text)).take u.2)) t)) r

/-- The instruction caches of the cores of a partition's clusters are emptied. -/
def emptyIcaches (fn : Nat) (s : State) : State :=
  { s with cores := s.cores.map (fun c => match clusterOfUnit c.1 with
    | some k => if (s.part fn).entry.clusters.getLsbD k then (c.1, { c.2 with icache := [] }) else c
    | none => c) }

/-- PATCH: the replica of every die, the instruction caches of the partition, and the done_counter. -/
def runPatch (fn q seq : Nat) (p : BitVec 512) (s : State) : State :=
  match runFn fn (gBytesAt (pFld p 0x10 8) (pFld p 0x18 4) (pFld p 0x18 4 / 64 + 2)) s with
  | (.error e, t) => faultStarted fn q seq e t
  | (.ok bs, s) =>
    match (List.range 8).foldl (fun r d => patchDie fn d (pFld p 8 8) bs r) (none, s) with
    | (some e, t) => faultStarted fn q seq e t
    | (none, s) => completeStarted fn q seq (pFld p 0x20 8) (emptyIcaches fn s)

/-- PATCH (03 R80). -/
def execPatch (fn q : Nat) (s : State) : Host.Outcome State Fault Refusal :=
  .next (startPacket 6 fn q (fun seq p _ s => runPatch fn q seq p s) s)

/- KILL and the watchdog (R83, R85). -/

/-- The contexts and the packets of started packets that a KILL takes over: those of a KILL, or of an expired packet, that it stops. -/
def takenOver (s : State) (l : List (Nat × Nat × Nat)) : List Nat × List (Nat × Nat × Nat) :=
  let es := l.filterMap (fun e => startedFind s e.1 e.2.1 e.2.2)
  (es.flatMap (·.harts), es.flatMap (·.targets))

/-- A KILL starts: steps 1 to 3. -/
def runKill (fn q seq : Nat) (p : BitVec 512) (s : State) : State :=
  let s := if pBits p 4 1 0 = 0 then s
    else (killQueues fn q p).foldl (fun t k => dropPassed k.1 k.2 (t.modQueue k.1 k.2 (fun x => queueState { x with head := x.tail }))) s
  let targets := killTargets s fn q seq p
  let (hs, more) := takenOver s targets
  let (l, s) := stopPackets targets s
  modStarted fn q seq (fun e => { e with harts := l ++ hs, targets := targets ++ more }) s

/-- Whether a started KILL stops a packet. -/
def underKill (s : State) (fn q seq : Nat) : Bool :=
  s.funcs.any (fun f => f.2.queues.any (fun k => k.2.started.any (fun e => e.targets.contains (fn, q, seq))))

/-- The KILL of a queue whose killed work has come to rest. -/
def killReady (s : State) (fn q : Nat) : Option Started :=
  (s.queue fn q).started.find? (fun e => pFld e.packet 0 1 = 8 && threadsQuiet s e.harts)

/-- KILL (03 R83): one whose killed work's writes are acknowledged completes; otherwise the next packet starts. -/
def execKill (fn q : Nat) (s : State) : Host.Outcome State Fault Refusal :=
  match killReady s fn q with
  | some e =>
    let s := e.targets.foldl (fun t x => dropStarted x.1 x.2.1 x.2.2 t) (freeThreads e.harts s)
    .next (completeStarted fn q e.seqNo (pFld e.packet 8 8) s)
  | none => .next (startPacket 8 fn q (fun seq p _ s => runKill fn q seq p s) s)

/-- Whether a started packet's watchdog has run out (R85). -/
def watchdogDue (s : State) (fn : Nat) (e : Started) : Bool :=
  let w := (s.func fn).wdt
  w ≠ 0 && [1, 2, 3, 4].contains (pFld e.packet 0 1) && e.stopped.isNone && w * 1024 < cmdCycles s - e.at_

/-- WATCHDOG_EXPIRY (03 R85): the work is killed as in R83, steps 2 to 4, once no save or cut of it is in progress, and the queue enters
QSTATE 3; when the writes are acknowledged the packet goes. -/
def execWatchdogExpiry (fn q seqNo : Nat) (s : State) : Host.Outcome State Fault Refusal :=
  match startedFind s fn q seqNo with
  | none => .next s
  | some e =>
    if e.expired then .next (if threadsQuiet s e.harts then dropStarted fn q seqNo (freeThreads e.harts s) else s)
    else if !watchdogDue s fn e ∨ workHeld s fn q seqNo then .next s
    else
      let (l, s) := stopPacket fn q seqNo s
      .next (queueError fn q 6 (modStarted fn q seqNo (fun e => { e with expired := true, harts := l }) s))

/- Command cores (R61). -/

/-- The command core of a partition that serves the fewest queues, the lowest on a tie (R61). -/
def assignCore (s : State) (fn : Nat) : Nat :=
  let mine := (List.range 16).filter (fun c => (s.part fn).entry.cmdcores.getLsbD c)
  let load (c : Nat) : Nat := s.funcs.foldl (fun n f => n + (f.2.queues.filter (fun q => q.2.en && q.2.core = c)).length) 0
  mine.foldl (fun best c => if load c < load best then c else best) (mine.headD 0)

/-- A call of a policy plug-in ends: the scheduler takes its hart back. -/
def endPlugin (p : Nat) (s : State) : State :=
  match (s.part p).pluginCall with
  | none => s
  | some c => (s.setHart (0x20000 + c.core) c.saved).modPart p (fun q => { q with pluginCall := none })

/- The choice among queues (R64). -/

/-- Whether a queue's next packet may start, or is in error. -/
def queueReady (s : State) (fn q : Nat) : Bool :=
  match nextPacket s fn q with
  | none => false
  | some (.error _, _) => true
  | some (.ok p, src) => (packetCheck s fn p src.isSome).isSome || mayStart s fn q p

/-- The queues of a function whose next packet may start, in the order of the default choice: after the queue last chosen, cyclically. -/
def readyQueues (s : State) (fn : Nat) : List Nat :=
  let last := (s.part fn).lastQueue
  (((List.range 16).map (fun i => (last + 1 + i) % 16))).filter (queueReady s fn)

end Sys2Proof.Machine
end

