-- ==== Sys2Proof/Machine/Preempt.lean ====
section
/-! DEFINITION. Soft pre-emption (05 R116–R118, R120): the choice of victims, the save record, and the return of saved threads. -/

namespace Sys2Proof.Machine

/- Who waits, and what for. -/

/-- A population that has waited PREWAIT: the head of an admission list, a saved population at the front of one, or a record at the
head of a launch sub-queue. -/
inductive Demand where
  | head (prio : Nat)
  | saved (popid : Nat)
  | record (core prio : Nat)
deriving DecidableEq, Repr

/-- The program contexts of a core on which a population's threads run. -/
def runningOn (s : State) (p popid core : Nat) : Nat :=
  (threadsOf s p (fun t => t.popid.toNat = popid)).foldl (fun n h => n + natOf (unitOf h = core)) 0

/-- How many contexts a population may still take on each of its cores: its quota less what runs there. -/
def quotaRoom (s : State) (p : Population) : List (Nat × Nat) :=
  (popCores s p).map (fun k => (k, p.quota - runningOn s p.fn p.popid k))

/-- What a count of threads lacks, from (core, contexts at hand, quota): the contexts in all, and on each core those that it could take beside those at
hand. -/
def lackPlan (l : List (Nat × Nat × Nat)) (count : Nat) : Nat × List (Nat × Nat) :=
  (count - l.foldl (fun n e => n + min e.2.1 e.2.2) 0, l.map (fun e => (e.1, e.2.2 - e.2.1)))

/-- What a demand lacks: the contexts in all, and the most on each core that it needs. -/
def demandLacks (s : State) (p : Nat) : Demand → Nat × List (Nat × Nat)
  | .head prio =>
    match waitingAt s p prio with
    | x :: _ =>
      if !x.coresident then (0, [])
      else lackPlan ((popCores s x).map (fun k =>
        (k, (freeContexts s k).length + (x.reserve.filter (fun h => h / 16 = k)).length, x.quota))) x.count
    | [] => (0, [])
  | .saved popid =>
    match (s.part p).running.find? (fun x => x.popid = popid) with
    | some x => lackPlan ((quotaRoom s x).map (fun e => (e.1, (freeContexts s e.1).length, e.2))) x.saved.length
    | none => (0, [])
  | .record core prio =>
    match tblGet [] (s.core core).launch prio with
    | r :: _ =>
      let n := (freeContexts s core).length
      let lack := if r.coresident then 0 else r.nthr - r.started - n
      (lack, [(core, lack)])
    | [] => (0, [])

/-- The demands of a partition that have waited PREWAIT command-core cycles (R116), the most urgent first. -/
def demandsDue (s : State) (p : Nat) : List (Nat × Demand) :=
  let wait := (s.func p).prewait
  if wait = 0 then []
  else
    let due (since : Nat) : Bool := since + wait ≤ cmdCycles s
    [3, 2, 1, 0].flatMap (fun k =>
      (match savedAt s p k with
        | x :: _ => if due x.since then [(k, Demand.saved x.popid)] else []
        | [] => match waitingAt s p k with
          | x :: _ => if due x.since then [(k, Demand.head k)] else []
          | [] => [])
      ++ (coresOfClusters (clustersOf s p)).filterMap (fun c => match tblGet [] (s.core c).launch k with
        | r :: _ => if wait ≤ (s.now - r.headAt.getD s.now) * 4 / 3 then some (k, Demand.record c k) else none
        | [] => none))

/- Save slots. -/

/-- The lowest run of 16 consecutive free save slots. -/
def freeRun (slots : Nat) (used : List Nat) : Option Nat :=
  ((0 :: used.map (· + 1)).filter (fun k => k + 16 ≤ slots && (List.range 16).all (fun i => !used.contains (k + i)))).foldl
    (fun best k => match best with
      | none => some k
      | some b => some (min b k)) none

/-- Save runs for so many victims: their first slots; none where there are too few. -/
def freeRuns (slots : Nat) : Nat → List Nat → Option (List Nat)
  | 0, _ => some []
  | n + 1, used => match freeRun slots used with
    | none => none
    | some k => (freeRuns slots n (used ++ (List.range 16).map (k + ·))).map (k :: ·)

/-- The running threads of a population that are not victims yet. -/
def possibleVictims (s : State) (p popid : Nat) : List Nat :=
  (threadsOf s p (fun t => t.popid.toNat = popid)).filter (fun h =>
    (s.hart h).run = .running && !(s.hart h).tkilling && !(s.part p).victims.any (fun v => v.1 = h))

/-- The victims of a demand: populations of lower priority ascending, the most recently admitted first, wherever on its cores they run; on each core and
in all only as many contexts as are lacking; every thread of a co-resident population; and no more than there are save runs. -/
def demandVictims (s : State) (p prio : Nat) (d : Demand) : List Nat :=
  let q := s.part p
  let slots := (s.func p).saveslots
  let pops := (List.range prio).flatMap (fun k => (q.running.filter (fun x => x.prio = k)).reverse)
  let (short, room) := demandLacks s p d
  (pops.foldl (fun (acc : (Nat × List (Nat × Nat)) × List Nat) (x : Population) =>
    let all := possibleVictims s p x.popid
    let here := (acc.1.2.flatMap (fun e => (all.filter (fun h => unitOf h = e.1)).take e.2)).take acc.1.1
    let l := if x.coresident ∧ here ≠ [] then all else here
    let fits (l : List Nat) : Bool := (freeRuns slots (acc.2.length + l.length) q.slotsUsed).isSome
    let l := if fits l then l
      else if x.coresident then []
      else ((List.range (l.length + 1)).reverse.find? (fun n => fits (l.take n))).elim [] (fun n => l.take n)
    let on (k : Nat) : Nat := (l.filter (fun h => unitOf h = k)).length
    let got := acc.1.2.foldl (fun n e => n + min e.2 (on e.1)) 0
    ((acc.1.1 - got, acc.1.2.map (fun e => (e.1, e.2 - on e.1))), acc.2 ++ l)) ((short, room), [])).2

/-- The demand for which a partition pre-empts now, with the victims that the model picks. -/
def preemptPlan (s : State) (p : Nat) : Option (Demand × List Nat) :=
  (demandsDue s p).findSome? (fun d =>
    let l := demandVictims s p d.1 d.2
    if l = [] then none else some (d.2, l))

/-- The populations and cores of threads. -/
def threadPlaces (s : State) (l : List Nat) : List (Nat × Nat) := l.map (fun h => ((s.hart h).thread.popid.toNat, unitOf h))

/-- The wait of a demand begins anew. -/
def restartWait (p : Nat) (d : Demand) (s : State) : State :=
  match d with
  | .head prio => match waitingAt s p prio with
    | x :: _ => s.modPart p (fun q => { q with waiting := tblSet q.waiting prio ((tblGet [] q.waiting prio).map (fun y =>
        if y.origin = x.origin then { y with since := cmdCycles s } else y)) })
    | [] => s
  | .saved popid => s.modPart p (fun q => { q with running := q.running.map (fun x => if x.popid = popid then { x with since := cmdCycles s } else x) })
  | .record core prio => s.modCore core (fun c => { c with launch := tblSet c.launch prio (match tblGet [] c.launch prio with
      | r :: rest => { r with headAt := some s.now } :: rest
      | [] => []) })

/-- PREEMPT_REQUEST (05 R116): the victims, of which the manual fixes how many on each core from each population, get a run of save
slots each; their pending flags are set and context 0 of each core gets interrupt 18. -/
def execPreemptRequest (partition : Nat) (victims : List Nat) (s : State) : Host.Outcome State Fault Refusal :=
  match preemptPlan s partition with
  | none => .next s
  | some (d, l) =>
    let legal := decide victims.Nodup && (threadPlaces s victims).isPerm (threadPlaces s l)
      && victims.all (fun h => (possibleVictims s partition (s.hart h).thread.popid.toNat).contains h)
    if !legal then .next s
    else match freeRuns (s.func partition).saveslots victims.length (s.part partition).slotsUsed with
      | none => .next s
      | some runs =>
        let s := restartWait partition d s
        let s := s.modPart partition (fun q => { q with
          victims := q.victims ++ (victims.zip runs).map (fun e => (e.1, e.2, s.now))
          slotsUsed := q.slotsUsed ++ runs.flatMap (fun k => (List.range 16).map (k + ·)) })
        .next (victims.foldl (fun t h => (t.modHart h (fun g => { g with kstat := { g.kstat with pend := true } })).modHart
          (hartOf (unitOf h) 0) (fun g => { g with irqPending := setBitW g.irqPending 18 true })) s)

/-- Whether a victim runs no longer: it has exited or was killed (R120). -/
def victimGone (s : State) (v : Nat × Nat × Nat) : Bool := (s.hart v.1).run ≠ .running

/-- Free the save runs of victims that have gone. -/
def settleVictims (p : Nat) (s : State) : State :=
  let gone := (s.part p).victims.filter (victimGone s)
  s.modPart p (fun q => { q with
    victims := q.victims.filter (fun v => !gone.any (fun g => g.1 = v.1))
    slotsUsed := q.slotsUsed.filter (fun k => !gone.any (fun g => inRun g.2.1 k)) })

/- The save record (R117). -/

/-- A list of bytes with zeros up to a length. -/
def padBytes (n : Nat) (l : List Byte) : List Byte := l ++ List.replicate (n - l.length) 0

/-- 64-bit words as bytes. -/
def wordBytes (l : List Word) : List Byte := l.flatMap (fun w => leBytes 8 w.toNat)

/-- The VA of a save slot. -/
def slotVaOf (s : State) (p slot : Nat) : Nat := ((s.func p).savebase.toNat + 4096 * slot) % 2 ^ 64

/-- The Hoist requests of a context that are not complete, oldest first. -/
def ownRequests (s : State) (h : Nat) : List HoistReq := (s.core (unitOf h)).hoist.filter (fun r => r.hart = h)

/-- The gang membership of a thread. -/
def memberOf (s : State) (p h : Nat) : Option Member :=
  (gangFind s p (s.hart h).thread.gang).bind (fun g => g.members.find? (fun m => m.who = h))

/-- The first slot of a saved thread; pc and S-mode privilege are those at which it stopped. -/
def saveBytes (s : State) (p h : Nat) (pc : Word) (privS hnd : Bool) : List Byte :=
  let g := s.hart h
  let v := g.vec
  let w (n : Nat) : Word := BitVec.ofNat 64 n
  let regs := (List.range 31).map (fun i => g.getX (i + 1))
  let fes := (List.range 31).foldl (fun n i => n + natOf (g.xFe s.now (i + 1) = .full) * 2 ^ (i + 1)) 0
  let reqs := ownRequests s h
  let progress : List Word := match reqs with
    | r :: _ => match r.stopped with
      | some (_, a) => [0, w r.progress, a, 1]
      | none => [0, w r.progress, 0, 0]
    | [] => [0, 0, 0, 0]
  let (rank, arrived, gen) := match memberOf s p h with
    | some m => (m.rank, m.arrived, if m.arrived then m.gen else 0)
    | none => (0, false, 0)
  let ks := setBitW (kstatWord s h) 2 hnd
  let timer : Word := if g.csr.ktimecmp = BitVec.allOnes 64 then g.csr.ktimecmp else g.csr.ktimecmp - s.cycle
  wordBytes (regs ++ [pc, w (fes + natOf privS * 2 ^ 32)]
      ++ [v.vmt.setWidth 64, v.vxcls, v.vreuse.setWidth 64, v.vrm.setWidth 64, v.vfflags.setWidth 64, v.vrqctl])
    -- 0x138 to 0x13F are not named
    ++ List.replicate 8 0
    ++ padBytes 512 (reqs.flatMap (fun r => wordBytes [r.w0, r.w1, r.w2, r.w3])) ++ wordBytes progress
    ++ wordBytes [w (reqs.length + g.q7.length * 2 ^ 8 + v.q6.length * 2 ^ 16),
        w (g.thread.popid.toNat + g.thread.index.toNat * 2 ^ 32), w g.thread.gang, w (rank + natOf arrived * 2 ^ 32), w gen,
        csrRead s h 0x100, csrRead s h 0x104, g.csr.stvec, g.csr.sscratch, g.csr.sepc, g.csr.scause, g.csr.stval, ks, timer,
        g.instret, v.vrhit, v.vrlook, v.vrshare, v.vsmiss, 0]
    ++ padBytes 512 (g.q7.flatMap (fun e => leBytes 8 e.1.toNat ++ leBytes 8 e.2.toNat))
    ++ padBytes 1024 (v.q6.flatMap (fun r => leBytes 64 r.toNat)) ++ List.replicate 1536 0

/-- The soft save of a victim that is saving: its record in the first slot of its run. -/
def softRecord (s : State) (p h : Nat) : List Byte :=
  let g := s.hart h
  saveBytes s p h g.csr.mepc (wfld g.csr.mstatus 12 11 = 1) false

/-- Write a save record. -/
def writeSave (p va : Nat) (bs : List Byte) (s : State) : Except Nat Unit × State := runFn p (gWrite va bs (bs.length / 128 + 2)) s

/-- What stands for a hart in its gang and its pair descents is renamed. -/
def renameWho (p from_ dest : Nat) (s : State) : State :=
  let s := s.modPart p (fun q => { q with gangs := q.gangs.map (fun g =>
    { g with members := g.members.map (fun m => if m.who = from_ then { m with who := dest } else m) }) })
  { s with descents := s.descents.map (fun d => if d.hart = from_ then { d with hart := dest } else d) }

/-- A context is given up without reaping: its thread leaves it (R117). -/
def vacate (h : Nat) (s : State) : State :=
  ((releaseLocks h s).setHart h { Hart.resetContext with reserved := false }).modCore (unitOf h) (fun c => { c with
    hoist := c.hoist.filter (fun r => r.hart ≠ h)
    tokens := c.tokens.filter (fun t => t.1 ≠ h)
    slot := match c.slot with
      | some sl => if sl.hart = h then none else some sl
      | none => none })

/-- A thread that has been saved in a slot leaves its context; its population lists the slot, and keeps what the record lacks. -/
def leaveSaved (p h slot : Nat) (hard : Bool) (s : State) : State :=
  let g := s.hart h
  let popid := g.thread.popid.toNat
  let t : SavedThread :=
    { slot := slot, hard := hard, hart := g, hoist := ownRequests s h, holds := if hard then (s.core (unitOf h)).failingLanes else []
      tokens := ((s.core (unitOf h)).tokens.filter (fun t => t.1 = h)).map (·.2)
      timer := if g.csr.ktimecmp = BitVec.allOnes 64 then none else some (g.csr.ktimecmp - s.cycle), populationOf := popid }
  let s := vacate h (renameWho p h (savedKey p slot) s)
  s.modPart p (fun q => { q with
    saved := q.saved ++ [t], victims := q.victims.filter (fun v => v.1 ≠ h)
    running := q.running.map (fun x => if x.popid = popid then { x with saved := x.saved ++ [slot], since := cmdCycles s } else x) })

/-- Whether no result is in flight towards a scalar register of a hart. -/
def xSettled (s : State) (h : Nat) : Bool :=
  (List.range 32).all (fun r => match (s.hart h).xFe s.now r with
    | .full => true
    | .marked => true
    | _ => false)

/-- Whether a victim's save can end now: nothing of it is in flight and its record can be written. -/
def saveReady (s : State) (p : Nat) (v : Nat × Nat × Nat) : Bool :=
  let h := v.1
  let c := s.core (unitOf h)
  saving s p h && xSettled s h && (s.hart h).loads = [] && !c.vq.any (fun e => e.hart = h) && !c.posted.any (fun e => e.hart = h)
    && !c.tokens.any (fun t => t.1 = h)
    && (match (writeSave p (slotVaOf s p v.2.1) (softRecord s p h) s).1 with
      | .ok _ => true
      | .error _ => false)

/-- The vendor handler's save (R117): the record is written, the context is freed without reaping, the other 15 slots of the run are
free again and PREEMPTS counts it. -/
def softSave (p : Nat) (s : State) : State :=
  match (s.part p).victims.find? (saveReady s p) with
  | none => s
  | some (h, slot, _) =>
    let s := (writeSave p (slotVaOf s p slot) (softRecord s p h) s).2
    let s := leaveSaved p h slot false s
    (s.modPart p (fun q => { q with slotsUsed := q.slotsUsed.filter (fun k => !(slot < k && k < slot + 16)) })).modFunc p
      (fun f => { f with preempts := satInc f.preempts })

/- The return (R118). -/

/-- A saved thread of a partition. -/
def savedFind (s : State) (p slot : Nat) : Option SavedThread := (s.part p).saved.find? (fun t => t.slot = slot)

/-- A mask that the record does not hold: free values (notes/assumptions/2.md). -/
def freeMask (k : Nat) : Mask := BitVec.ofNat 1024 ((List.range 16).foldl (fun n i => n + (Config.freeValue (k + i)).toNat * 2 ^ (64 * i)) 0)

/-- Field word number i of a list of words at a byte of a record. -/
def recWord (r off : Nat) : Word := BitVec.ofNat 64 (byteFld r off 8)

/- Slots 1 to 15 of a hard save (R119), in the cut's own layout (notes/assumptions/9.md): from the byte after the first slot the 16 vector registers, 32
entries of the queues (4 of each of q0 to q3, 8 of each of q4 and q5), the 16 predicates, the 32 entries of the mask stack, the class masks, vsat and vflt,
and then words: vmsp, vlc, vlr, vty, the full/empty bits of the vector registers, the entries of q0 to q5, and which of the 32 are complete. -/

/-- The number of the first of the 32 places that queue q takes. -/
def queuePlace (q : Nat) : Nat := if q < 4 then 4 * q else 16 + 8 * (q - 4)

/-- The vector state in the bytes of slots 1 to 15. -/
def hardBytes (v : VecCtx) : List Byte :=
  let places := (List.range 6).flatMap (fun q => (List.range (if q < 4 then 4 else 8)).map (fun i => (v.getQ q)[i]?))
  let w (n : Nat) : Word := BitVec.ofNat 64 n
  padBytes (15 * 4096) ((List.range 16).flatMap (fun r => leBytes 1024 (v.getV r).toNat)
    ++ places.flatMap (fun e => leBytes 1024 ((e.map (·.data.toNat)).getD 0))
    ++ (List.range 16).flatMap (fun k => leBytes 128 (tblGet 0 v.p k).toNat)
    ++ (List.range 32).flatMap (fun k => leBytes 128 (tblGet 0 v.stack k).toNat)
    ++ (List.range 5).flatMap (fun k => leBytes 128 (tblGet 0 v.flagMask k).toNat) ++ leBytes 128 v.vsat.toNat ++ leBytes 128 v.vflt.toNat
    ++ wordBytes ([w v.vmsp, w v.vlc, w v.vlr, v.vty.setWidth 64,
        w ((List.range 16).foldl (fun n r => n + natOf (tblGet .full v.vfe r ≠ .marked) * 2 ^ r) 0)]
      ++ (List.range 6).map (fun q => w (v.getQ q).length)
      ++ [w (((List.range 32).zip places).foldl (fun n e => n + natOf ((e.2.map (·.complete)).getD false) * 2 ^ e.1) 0)]))

/-- The vector state that the bytes of slots 1 to 15 give back, in place of that of the save. -/
def hardVec (old : VecCtx) (r : Nat) : VecCtx :=
  let masks (off n : Nat) : Tbl Mask := ((List.range n).map (fun k => (k, BitVec.ofNat 1024 (byteFld r (off + 128 * k) 128)))).filter (fun e => e.2 ≠ 0)
  let w (k : Nat) : Nat := byteFld r (0xDB80 + 8 * k) 8
  { old with
    v := ((List.range 16).map (fun k => (k, BitVec.ofNat 8192 (byteFld r (1024 * k) 1024)))).filter (fun e => e.2 ≠ 0 || old.v.any (fun x => x.1 = e.1))
    vfe := ((List.range 16).filter (fun k => !bitOf (w 4) k)).map (fun k => (k, Fe.marked))
    p := masks 0xC000 16, stack := masks 0xC800 32, vmsp := w 0 % 32, flagMask := masks 0xD800 5
    vsat := BitVec.ofNat 1024 (byteFld r 0xDA80 128), vflt := BitVec.ofNat 1024 (byteFld r 0xDB00 128)
    vlc := w 1, vlr := w 2, vty := BitVec.ofNat 3 (w 3)
    q := (List.range 6).map (fun q => (q, (List.range (min (w (5 + q)) (if q < 4 then 4 else 8))).map (fun i =>
      { data := BitVec.ofNat 8192 (byteFld r (0x4000 + 1024 * (queuePlace q + i)) 1024), complete := bitOf (w 11) (queuePlace q + i) }))) }

/-- A hart restored from a save record; what the record lacks is kept from the save: the identity of the thread, its address space and
the machine-mode registers. The masks of class flags and vsat, which it lacks too, are free values. -/
def restoreHart (old : Hart) (r free now : Nat) : Hart :=
  let bits := byteFld r 0x100 8
  let counts := byteFld r 0x360 8
  let sst := recWord r 0x388
  let c := old.csr
  let ks := byteFld r 0x3C0 8
  let remaining := recWord r 0x3C8
  { old with
    pc := recWord r 0xF8, priv := if bitOf bits 32 then .supervisor else .user, run := .running, waiting := none, reserved := false
    issued := false, readyAt := now + 1, loads := [], hostRead := none, hostDone := [], bankSince := none, reservation := none
    tkilling := false, resuming := false, widening := false, fencing := none
    x := ((List.range 31).map (fun i => (i + 1, recWord r (8 * i)))).filter (fun e => e.2 ≠ 0)
    fe := (((List.range 31).filter (fun i => !bitOf bits (i + 1))).map (fun i => (i + 1, Fe.marked)))
    csr := { c with
      mstatus := (c.mstatus &&& ~~~ sstatusMask) ||| (sst &&& sstatusMask)
      mie := (c.mie &&& ~~~ c.mideleg) ||| (recWord r 0x390 &&& c.mideleg)
      stvec := recWord r 0x398, sscratch := recWord r 0x3A0, sepc := recWord r 0x3A8, scause := recWord r 0x3B0
      stval := recWord r 0x3B8
      ktimecmp := if remaining = BitVec.allOnes 64 then remaining else BitVec.ofNat 64 now + remaining }
    kstat := { resume := bitOf ks 0, pend := false, hnd := bitOf ks 2, owe := bitOf ks 9, owRow := fld ks 14 10 }
    instret := recWord r 0x3D0
    irqPending := setBitW (setBitW old.irqPending 16 false) 18 false
    q7 := (List.range (fld counts 13 8)).map (fun i => (recWord r (0x400 + 16 * i), BitVec.ofNat 16 (byteFld r (0x408 + 16 * i) 2)))
    vec := {
      vmt := BitVec.ofNat 3 (byteFld r 0x108 8), vxcls := recWord r 0x110, vreuse := BitVec.ofNat 2 (byteFld r 0x118 8)
      vrm := BitVec.ofNat 3 (byteFld r 0x120 8), vfflags := BitVec.ofNat 5 (byteFld r 0x128 8), vrqctl := recWord r 0x130
      vlc := old.vec.vlc, vlr := old.vec.vlr, vty := old.vec.vty
      flagMask := (List.range 5).map (fun i => (i, freeMask (free + 16 * i))), vsat := freeMask (free + 80)
      q6 := (List.range (fld counts 20 16)).map (fun i => BitVec.ofNat 512 (byteFld r (0x600 + 64 * i) 64))
      vrhit := recWord r 0x3D8, vrlook := recWord r 0x3E0, vrshare := recWord r 0x3E8, vsmiss := recWord r 0x3F0 }
    thread := { old.thread with
      popid := BitVec.ofNat 32 (byteFld r 0x368 4), index := BitVec.ofNat 32 (byteFld r 0x36C 4), gang := byteFld r 0x370 8 } }

/-- The Hoist requests of a save record, with the shapes and the privilege that the save kept; the first goes on from its recorded
progress. -/
def restoreRequests (old : List HoistReq) (r h id : Nat) : List HoistReq :=
  ((List.range (fld (byteFld r 0x360 8) 4 0)).zip old).map (fun e =>
    let at_ := 0x140 + 32 * e.1
    { e.2 with
      id := id + e.1, hart := h, w0 := recWord r at_, w1 := recWord r (at_ + 8), w2 := recWord r (at_ + 16)
      w3 := recWord r (at_ + 24), stopped := none, written := false
      progress := if e.1 = 0 then byteFld r 0x348 8 else 0 })

/-- Put a hart and its requests into a context, in place of what stood for the thread. -/
def installThread (p slot h : Nat) (g : Hart) (reqs : List HoistReq) (s : State) : State :=
  let u := unitOf h
  let s := (s.setHart h g).modCore u (fun c => { c with hoist := c.hoist ++ reqs, nextReq := c.nextReq + reqs.length })
  let s := renameWho p (savedKey p slot) h s
  let s := s.modPart p (fun q => { q with
    saved := q.saved.filter (fun t => t.slot ≠ slot)
    running := q.running.map (fun x => { x with saved := x.saved.filter (· ≠ slot) }) })
  resumeHoist u s

/-- The bytes of a saved thread's record: its first slot, and after a hard save the other 15. -/
def savedRecord (p : Nat) (t : SavedThread) : GM (Nat × Nat) := do
  let s ← gState
  let first ← gNum (slotVaOf s p t.slot) 4096
  let rest ← (if t.hard then gNum (slotVaOf s p (t.slot + 1)) (15 * 4096) else pure 0)
  pure (first, rest)

/-- The hart of a saved thread from its record; a hard save gives back its vector state too, and the thread goes on where the cut stopped it. -/
def savedHart (t : SavedThread) (first rest free now : Nat) : Hart :=
  let g := restoreHart t.hart first free now
  if !t.hard then g
  else
    let old := t.hart.vec
    { g with
      priv := if t.hart.priv = .machine then .machine else g.priv
      vec := hardVec { g.vec with v := old.v, vname := old.vname, failing := old.failing } rest }

/-- Bring a saved thread back into a context from its save record (R118, R119), which is read without any check of what it holds (R108). -/
def restoreThread (p : Nat) (t : SavedThread) (h : Nat) (s : State) : State :=
  match runFn p (savedRecord p t) s with
  | (.error _, s) => s
  | (.ok (r, rest), s) =>
    let g := savedHart t r rest s.free s.now
    let id := (s.core (unitOf h)).nextReq
    let s := installThread p t.slot h g (restoreRequests t.hoist r h id) { s with free := s.free + 96 }
    -- the rank and the arrival state of the record
    let s : State := match gangFind s p g.thread.gang with
      | none => s
      | some e => gangPut p { e with members := e.members.map (fun (m : Member) => if m.who = h then
          { m with rank := byteFld r 0x378 4, arrived := bitOf (byteFld r 0x378 8) 32, gen := byteFld r 0x380 8 } else m) } s
    let s := s.modPart p (fun q => { q with slotsUsed := q.slotsUsed.filter (fun k => !t.slots k) })
    let s := s.modCore (unitOf h) (fun c => { c with tokens := c.tokens ++ t.tokens.map (fun e => (h, e.1, e.2)) })
    if t.hard then adoptRegs t.holds h s else s

/-- The population that may return now: the first admitted of the most urgent list. -/
def returning (s : State) (p : Nat) : Option Population := (urgent s p).bind (fun k => (savedAt s p k).head?)

/-- The cores that can take a thread of a returning population now, with the number of threads each. -/
def returnRoom (s : State) (x : Population) : List (Nat × Nat) :=
  (quotaRoom s x).map (fun e => (e.1, if (s.core e.1).kcut.arm then 0 else min e.2 (freeContexts s e.1).length))

/-- Whether a saved thread of a population may return into a context beside others that return (slot, context): the context is free, within the
population's cores and its quota, its core's Hoist has room, and the record can be read. -/
def returnsTo (s : State) (x : Population) (with_ : List (Nat × Nat)) (slot h : Nat) : Bool :=
  match savedFind s x.fn slot with
  | none => false
  | some t =>
    let u := unitOf h
    let others := with_.filter (fun e => unitOf e.2 = u)
    let reqs := others.foldl (fun n e => n + ((savedFind s x.fn e.1).map (·.hoist.length)).getD 0) 0
    x.saved.contains slot && t.populationOf = x.popid && isVector h && (freeContexts s u).contains h
      && !with_.any (fun e => e.1 = slot || e.2 = h)
      && (returnRoom s x).any (fun e => e.1 = u && others.length < e.2)
      && (s.core u).hoist.length + reqs + t.hoist.length ≤ hoistDepth
      && (match (runFn x.fn (savedRecord x.fn t) s).1 with
        | .ok _ => true
        | .error _ => false)

/-- The context that the model gives a saved thread beside others: the first on the first core that takes it. -/
def returnPlace (s : State) (x : Population) (with_ : List (Nat × Nat)) (slot : Nat) : Option Nat :=
  (returnRoom s x).findSome? (fun e => if e.2 = 0 then none else (freeContexts s e.1).find? (returnsTo s x with_ slot))

/-- The threads that return with one into a context (R118): a co-resident population returns as a whole, once none of it is still to be saved. -/
def returnPlan (s : State) (p slot h : Nat) : Option (List (Nat × Nat)) :=
  match returning s p with
  | none => none
  | some x =>
    if !returnsTo s x [] slot h then none
    else if !x.coresident then some [(slot, h)]
    else if (s.part p).victims.any (fun v => (s.hart v.1).thread.popid.toNat = x.popid) then none
    else (x.saved.filter (· ≠ slot)).foldlM (fun acc k => (returnPlace s x acc k).map (fun d => acc ++ [(k, d)])) [(slot, h)]

/-- The slot and the context that the model restores next: the first saved thread of the population, on the first core that takes it. -/
def nextReturn (s : State) (p : Nat) : Option (Nat × Nat) :=
  match returning s p with
  | none => none
  | some x => x.saved.head?.bind (fun slot => match returnPlace s x [] slot with
      | some h => if (returnPlan s p slot h).isSome then some (slot, h) else none
      | none => none)

/-- PREEMPT_RESTORE (05 R118). -/
def execPreemptRestore (partition slot hart : Nat) (s : State) : Host.Outcome State Fault Refusal :=
  match returnPlan s partition slot hart with
  | none => .next s
  | some l => .next (l.foldl (fun t e => match savedFind t partition e.1 with
      | some x => restoreThread partition x e.2 t
      | none => t) s)

end Sys2Proof.Machine
end

