-- ==== Sys2Proof/Machine/Cut.lean ====
section
/-! DEFINITION. The consistent cut (11 R283–R288): arming, markers and the record; CUT packets (03 R84), the hard pre-emption
(05 R119), RESIZE (02 R42–R46; 03 R73) and the partition reset (11 R282). -/

namespace Sys2Proof.Machine

/- Units of a cut. -/

/-- The units of clusters: the vector cores and the control cores (R283). -/
def cutUnits (l : List Nat) : List Nat := l.flatMap (fun c => (List.range 8).map (fun j => 8 * c + j) ++ [4096 + c])

/-- Whether a unit is a vector core. -/
def isCore (u : Nat) : Bool := u < 4096

/-- The partition and the cut that covers a unit. -/
def cutOf (s : State) (u : Nat) : Option (Nat × Cut) :=
  match clusterOfUnit u with
  | none => none
  | some c => s.parts.findSome? (fun e => match e.2.cut with
      | some k => if k.clusters.contains c then some (e.1, k) else none
      | none => none)

/-- Whether a unit is armed. -/
def unitArmed (s : State) (u : Nat) : Bool := if isCore u then (s.core u).kcut.arm else (s.cluster (u - 4096)).cutArm

/-- Whether a unit has recorded its state. -/
def unitRecorded (s : State) (u : Nat) : Bool := if isCore u then (s.core u).kcut.recorded else (s.cluster (u - 4096)).cutRec

/-- The harts of a unit. -/
def unitHarts (u : Nat) : List Nat :=
  if isCore u then (List.range 16).map (fun k => 16 * u + k) else [0x10000 + 2 * (u - 4096), 0x10000 + 2 * (u - 4096) + 1]

/-- What an armed unit still has to send: releases to widen and entries to send. -/
def unitUnsent (s : State) (u : Nat) : Bool :=
  (s.core u).posted.any (fun e => !e.sent && !e.parked && !e.refused && !e.release)
    || (isCore u && (s.cluster (u / 8)).router.any (fun p => p.core = u && !p.widened))

/-- Whether an armed unit has drained (R284, step 3): vector instructions, results in flight, posted stores, the Hoist's pieces, the
Bench, and no debug halt or save on it (R287, R288). -/
def unitDrained (s : State) (u : Nat) : Bool :=
  let c := s.core u
  c.posted = [] && (unitHarts u).all (fun h => (s.hart h).loads = [] && !saving s (s.hart h).thread.partition h)
    && (if isCore u then
        c.vq = [] && c.lanesUntil ≤ s.now && !c.dbg.halted && !c.dbg.haltreq && !c.hoist.any (fun r => r.written && r.stopped.isNone)
      else (s.cluster (u - 4096)).bench = [])

/-- Whether the senders of a peer channel of a core, among the units of a cut, have all recorded themselves (R283). channel is the
PEND bit; the Gallery and the texture unit answer before their core has drained. -/
def channelMarked (s : State) (k : Cut) (u channel : Nat) : Bool :=
  let others := (cutUnits k.clusters).filter (fun x => x ≠ u && dieOfUnit x = dieOfUnit u && !unitRecorded s x)
  match channel with
  | 10 => !others.any isCore
  | 11 => !others.any (fun x => !isCore x)
  | 12 => !others.any (fun x => isCore x && x / 8 = u / 8)
  | 13 => !others.any (fun x => isCore x && x / 8 = u / 8)
  | _ => true

/-- The PEND bits of a core at its record. -/
def pendAtRecord (s : State) (k : Cut) (u : Nat) : BitVec 8 :=
  BitVec.ofNat 8 ((List.range 8).foldl (fun n i => n + natOf (!channelMarked s k u (8 + i)) * 2 ^ i) 0)

/-- Widen what is parked and send what is unsent on a unit. -/
def pushOut (u : Nat) (s : State) : State :=
  sendWhere u (fun _ => true) (if isCore u then widenAll (u / 8) s else s)

/-- The arm command reaches a unit. -/
def armUnit (u : Nat) (s : State) : State :=
  pushOut u (if isCore u then s.modCore u (fun c => { c with slot := none, kcut := { arm := true } })
    else s.modCluster (u - 4096) (fun c => { c with cutArm := true, cutRec := false }))

/-- The load reservations of a unit end (10 R251). -/
def dropReservations (u : Nat) (s : State) : State :=
  ((s.harts.filter (fun e => unitOf e.1 = u && e.2.reservation.isSome)).map (·.1)).foldl (fun t h =>
    t.modHart h (fun g => { g with reservation := none })) s

/-- A drained unit records itself; a core's locks are released (07 R174), its reservations end and its reuse table is cleared (08 R204). -/
def recordUnit (p : Nat) (k : Cut) (u : Nat) (s : State) : State :=
  let pend := pendAtRecord s k u
  let s := dropReservations u s
  let s := if isCore u then (clearReuse u s).modCore u (fun c => { c with locks := [], kcut := { c.kcut with recorded := true, pend := pend } })
    else s.modCluster (u - 4096) (fun c => { c with cutRec := true })
  s.modPart p (fun q => { q with cut := q.cut.map (fun k => { k with recorded := k.recorded ++ [(u, s.now)] }) })

/-- Whether CUT_ARM would do something on a unit now. -/
def armReady (s : State) (u : Nat) : Bool :=
  (cutOf s u).isSome && (!unitArmed s u || (!unitRecorded s u && (unitUnsent s u || unitDrained s u)))

/-- CUT_ARM (11 R284): the arm command reaches the unit; an armed unit pushes out its posted accesses, and a drained one records
itself. -/
def execCutArm (unit : Nat) (s : State) : Host.Outcome State Fault Refusal :=
  match cutOf s unit with
  | none => .next s
  | some (p, k) =>
    if !unitArmed s unit then .next (armUnit unit s)
    else if unitRecorded s unit then .next s
    else if unitUnsent s unit then .next (pushOut unit s)
    else if unitDrained s unit then .next (recordUnit p k unit s)
    else .next s

/-- Whether the marker of a channel reaches a core now. -/
def markerReady (s : State) (u channel : Nat) : Bool :=
  match cutOf s u with
  | none => false
  | some (_, k) => isCore u && unitRecorded s u && 8 ≤ channel && channel ≤ 15 && (s.core u).kcut.pend.getLsbD (channel - 8) && channelMarked s k u channel

/-- CUT_MARKER_ARRIVAL (11 R283, R284): a channel is the PEND bit 8 to 15 of kcut. -/
def execCutMarkerArrival (core channel : Nat) (s : State) : Host.Outcome State Fault Refusal :=
  if markerReady s core channel then
    .next (s.modCore core (fun c => { c with kcut := { c.kcut with pend := c.kcut.pend &&& ~~~ (BitVec.ofNat 8 (2 ^ (channel - 8))) } }))
  else .next s

/-- Whether a cut is recorded: every unit has, and every marker has arrived. -/
def cutRecorded (s : State) (k : Cut) : Bool :=
  (cutUnits k.clusters).all (fun u => unitRecorded s u && (!isCore u || (s.core u).kcut.pend = 0))

/- Resumption (R287). -/

/-- A timer whose remaining count is kept from the cycle of a record. -/
def rebaseTimer (now at_ : Nat) (g : Hart) : Hart :=
  if g.csr.ktimecmp = BitVec.allOnes 64 then g
  else
    let t := g.csr.ktimecmp - BitVec.ofNat 64 at_ + BitVec.ofNat 64 now
    { g with csr := { g.csr with ktimecmp := t }, irqPending := setBitW g.irqPending 16 (!((BitVec.ofNat 64 now).ult t)) }

/-- A unit resumes: timers are rebased, logged arrivals enter their queues first, and REC, PEND and ARM are cleared. -/
def resumeUnit (recorded : List (Nat × Nat)) (u : Nat) (s : State) : State :=
  let at_ := ((recorded.find? (fun e => e.1 = u)).map (·.2)).getD s.now
  let s := (unitHarts u).foldl (fun t h => if (t.harts.any (fun e => e.1 = h)) then t.modHart h (rebaseTimer s.now at_) else t) s
  if isCore u then
    let log := (s.core u).kcut.log
    let s := rebuildNames u (s.modCore u (fun c => { c with kcut := {} }))
    resumeHoist u (log.foldl (fun t e => placeToken e.1 e.2.1 e.2.2 t) s)
  else s.modCluster (u - 4096) (fun c => { c with cutArm := false, cutRec := false })

/-- The units of a cut resume in place. -/
def resumeUnits (k : Cut) (s : State) : State := (cutUnits k.clusters).foldl (fun t u => resumeUnit k.recorded u t) s

/-- STATE 2 of a partition returns to 1. -/
def running (p : Nat) (s : State) : State :=
  s.modPart p (fun q => { q with entry := { q.entry with state := if q.entry.state = 2 then 1 else q.entry.state } })

/-- A cut of a partition begins. -/
def beginCut (p : Nat) (k : Cut) (s : State) : State := s.modPart p (fun q => { q with cut := some k })

/-- A cut of a partition ends. -/
def endCut (p : Nat) (s : State) : State := s.modPart p (fun q => { q with cut := none })

/- Images (R285, R286; 03 R84). -/

/-- Bytes in the vendor's layout (log entry 9): their values are free, and so is their number, up to a bound. -/
def vendorBytes (id n : Nat) : List Byte := (List.range n).map (Config.vendorLayout id)

/-- The bytes of an attached queue that the device writes: its closes, and the three counts of each bin. -/
def queueCells (s : State) (q : ListQueue) : List Host.Cell :=
  let at_ (a n : Nat) : List Host.Cell := cellsAt a (memBytes s.mem a n)
  let bins := (List.range (lqBins (lqDesc s q.pa))).filterMap (fun b => match (runFn q.fn (binAt (lqDesc s q.pa) b) s).1 with
    | .ok x => some x.pa
    | .error _ => none)
  at_ (q.pa + 0x38) 4 ++ bins.flatMap (fun a => at_ a 12)

/-- What clusters hold now. -/
def snapshot (s : State) (k : Cut) (id used : Nat) : CutImage :=
  let us := cutUnits k.clusters
  let queues := s.listQueues.filter (fun q => k.kind ≤ 2 && q.fn = k.fn)
  { gangs := if k.kind ≤ 2 then (s.part k.fn).gangs else [], queues := queues, cells := queues.flatMap (queueCells s)
    id := id, used := used, clusters := k.clusters
    harts := s.harts.filter (fun e => us.contains (unitOf e.1))
    cores := s.cores.filter (fun e => us.contains e.1)
    benches := s.clusters.filter (fun e => k.clusters.contains e.1)
    recorded := k.recorded }

/-- The 64-byte header of an image. -/
def imageHeader (p clusters used : Nat) (valid : Bool) : List Byte :=
  leBytes 4 0x54434741 ++ leBytes 4 1 ++ leBytes 32 (sm3 featureProfile).toNat ++ leBytes 4 clusters
    ++ [BitVec.ofNat 8 p, BitVec.ofNat 8 (natOf valid)] ++ leBytes 2 0 ++ leBytes 8 used ++ leBytes 8 0

/-- The bytes that an image needs: free, at most 18 MiB per cluster. -/
def imageNeeds (s : State) (clusters : Nat) : Nat := 64 + (Config.freeValue s.free).toNat % (18 * 2 ^ 20 * clusters + 1)

/-- Write an image: VALID when its body fits; the result says whether it does, or the ERR code of a fault. -/
def writeImage (p : Nat) (k : Cut) (pk : BitVec 512) (s : State) : Except Nat Bool × State :=
  let va := pFld pk 8 8
  let need := imageNeeds s k.clusters.length
  let id := s.free + 1
  let fits := decide (need ≤ pFld pk 0x10 8)
  let s := { s with free := s.free + 2 }
  let bs := imageHeader p k.clusters.length (if fits then need else 64) fits ++ (if fits then vendorBytes id (need - 64) else [])
  match runFn p (gWrite va bs (bs.length / 128 + 2)) s with
  | (.error e, t) => (.error e, t)
  | (.ok _, t) =>
    if fits then (.ok true, t.modPart p (fun q => { q with images := q.images ++ [snapshot s k id need] })) else (.ok false, t)

/-- The image whose body stands at an address: one that some partition has recorded. -/
def findImage (s : State) (fn va : Nat) : Except Nat (Option CutImage) :=
  match (runFn fn (do
      let h ← gNum va 64
      gBytesAt (va + 64) (byteFld h 0x30 8 - 64) (byteFld h 0x30 8 / 64 + 2)) s).1 with
  | .error e => .error e
  | .ok body => .ok ((s.parts.flatMap (fun e => e.2.images)).reverse.find? (fun i => vendorBytes i.id (i.used - 64) = body))

/- Moving threads. -/

/-- A hart's number under a renaming. -/
def renamed (m : List (Nat × Nat)) (h : Nat) : Nat := ((m.find? (fun e => e.1 = h)).map (·.2)).getD h

/-- What stands for a hart in gangs and pair descents while its thread is in an image. -/
def imageKey (h : Nat) : Nat := 2 ^ 90 + h

/-- Rename harts wherever the device keeps them. -/
def renameHarts (m : List (Nat × Nat)) (s : State) : State :=
  let f := renamed m
  { s with
    descents := s.descents.map (fun d => { d with hart := f d.hart })
    funcs := s.funcs.map (fun e => (e.1, { e.2 with
      flrHarts := e.2.flrHarts.map f
      queues := e.2.queues.map (fun q => (q.1, { q.2 with started := q.2.started.map (fun x => { x with harts := x.harts.map f }) })) }))
    parts := s.parts.map (fun e => (e.1, { e.2 with
      gangs := e.2.gangs.map (fun g => { g with members := g.members.map (fun x => { x with who := f x.who }) })
      victims := e.2.victims.map (fun v => (f v.1, v.2))
      waiting := e.2.waiting.map (fun w => (w.1, w.2.map (fun p => { p with reserve := p.reserve.map f })))
      running := e.2.running.map (fun p => { p with reserve := p.reserve.map f }) })) }

/-- A thread's hart as it goes on in another context: it executes the instruction that it waited at again (07 R171). -/
def rebased (recorded : List (Nat × Nat)) (now h : Nat) (g : Hart) : Hart :=
  let at_ := ((recorded.find? (fun e => e.1 = unitOf h)).map (·.2)).getD now
  { rebaseTimer now at_ g with
    waiting := none, hostRead := none, hostDone := [], bankSince := none, issued := false, readyAt := now + 1 }

/-- The exit notice that context 0 of the receiving core gets for a recorded thread: one for each that has exited (14 R370). -/
def exitNotice (dest : Nat) (g : Hart) : List (Word × BitVec 16) :=
  if g.run = .exited then
    [(BitVec.ofNat 64 (g.thread.popid.toNat + g.thread.index.toNat * 2 ^ 32), BitVec.ofNat 16 ((tagOf dest).toNat + 4 * 2 ^ 13))]
  else []

/-- One recorded thread enters a context: its hart, its Hoist requests, its tokens in wait and its exit notice. -/
def placeThread (img : CutImage) (h dest : Nat) (g : Hart) (s : State) : State :=
  let old := tblGet ({} : Core) img.cores (unitOf h)
  let u := unitOf dest
  let reqs := old.hoist.filter (fun r => r.hart = h)
  let id := (s.core u).nextReq
  let s := (s.setHart dest (rebased img.recorded s.now h g)).modCore u (fun c => { c with
    hoist := c.hoist ++ ((List.range reqs.length).zip reqs).map (fun e => { e.2 with id := id + e.1, hart := dest })
    nextReq := id + reqs.length
    tokens := c.tokens ++ (old.tokens.filter (fun t => t.1 = h)).map (fun t => (dest, t.2)) })
  let s := adoptRegs old.failingLanes dest s
  s.modHart (dest / 16 * 16) (fun z => { z with q7 := z.q7 ++ exitNotice dest g })

/-- The queues of one table behind those of another. -/
def joinQueues {α : Type} (a b : Tbl (List α)) : Tbl (List α) := b.foldl (fun t e => tblSet t e.1 (tblGet [] t e.1 ++ e.2)) a

/-- What context 0 of a recorded core had in its Hoist FIFO, in its q7 besides exit notices and among its tokens goes to context 0 of another. -/
def placeFirmware (img : CutImage) (from_ dest : Nat) (s : State) : State :=
  let old := tblGet ({} : Core) img.cores from_
  let reqs := old.hoist.filter (fun r => r.hart = 16 * from_)
  let mail := (tblGet (Hart.resetOf (16 * from_)) img.harts (16 * from_)).q7.filter (fun e => e.2.toNat / 2 ^ 13 ≠ 4)
    ++ (old.tokens.filter (fun t => t.1 = 16 * from_)).map (·.2)
  let s := if reqs = [] then s else s.modCore dest (fun c => { c with
    hoist := c.hoist ++ ((List.range reqs.length).zip reqs).map (fun e => { e.2 with id := c.nextReq + e.1, hart := 16 * dest })
    nextReq := c.nextReq + reqs.length })
  mail.foldl (fun t e => placeToken (16 * dest) e.1 e.2 t) s

/-- The local state of a recorded core enters another: scratch, typed buffers, the ready queue, the launch queue, held words, and what
context 0 had queued. -/
def placeCore (img : CutImage) (from_ dest : Nat) (s : State) : State :=
  let old := tblGet ({} : Core) img.cores from_
  placeFirmware img from_ dest (s.modCore dest (fun c => { c with
    scratch := old.scratch, wbuf := old.wbuf, abuf := old.abuf, cbuf := old.cbuf, failingWords := old.failingWords
    ready := joinQueues c.ready old.ready, launch := joinQueues c.launch old.launch, reuse := [] }))

/-- The Bench and the control core of a recorded cluster enter another. -/
def placeBench (img : CutImage) (from_ dest : Nat) (s : State) : State :=
  let old := tblGet ({} : Cluster) img.benches from_
  let s := s.modCluster dest (fun c => { c with fmt := old.fmt, active := old.active, shadow := old.shadow, benchFail := old.benchFail })
  [0, 1].foldl (fun t k =>
    let h := 0x10000 + 2 * from_ + k
    t.setHart (0x10000 + 2 * dest + k) (rebased img.recorded s.now h (tblGet (Hart.resetOf h) img.harts h))) s

/-- The program contexts of an image that a thread, or a reservation, occupies. -/
def imageThreads (img : CutImage) : List (Nat × Hart) :=
  img.harts.filter (fun e => isVector e.1 && ctxOf e.1 ≠ 0 && (e.2.run ≠ .free || e.2.reserved))

/-- Empty a cluster of what its threads held. -/
def clearCluster (c : Nat) (s : State) : State :=
  let s := s.modCluster c (fun k => { k with fmt := [], active := none, shadow := none, bench := [], benchFail := none })
  ((List.range 8).map (fun j => 8 * c + j)).foldl (fun t u =>
    let t := { t with harts := t.harts.filter (fun e => !(unitOf e.1 = u && ctxOf e.1 ≠ 0)) }
    let t := t.modCore u (fun k => { k with
      vq := [], slot := none, hoist := [], tokens := [], launch := [], ready := [], locks := [], reuse := [], scratch := []
      wbuf := [], abuf := [], cbuf := [], failingWords := [] })
    if t.harts.any (fun e => e.1 = 16 * u) then t.modHart (16 * u) (fun g => { g with q7 := [] }) else t) s

/-- Free contexts of clusters, in ascending cluster, core and context (02 R44). -/
def freeIn (s : State) (l : List Nat) : List Nat := (coresOfClusters l).flatMap (freeContexts s)

/-- Give threads places: the one that a pairing of clusters names where it is free, and otherwise the first free context of clusters that keeps the
quota of a co-resident population and lies in the clusters that its cluster_mask selects of all that its partition will have (05 R112). None where a
thread finds no place. -/
def assign (s : State) (pairs : List (Nat × Nat)) (all clusters : List Nat) (ts : List (Nat × Hart)) : Option (List (Nat × Nat)) :=
  ts.foldlM (fun (acc : List (Nat × Nat)) t =>
    let used := acc.map (·.2)
    let own := (pairs.find? (fun e => e.1 = t.1 / 128)).map (fun e => t.1 % 128 + 128 * e.2)
    let free := (freeIn s clusters).filter (fun h => !used.contains h)
    let popid := t.2.thread.popid
    let keeps (h : Nat) : Bool :=
      match (s.part t.2.thread.partition).running.find? (fun x => x.popid = popid.toNat) with
      | some x => !x.coresident || (maskedClusters all (pFld x.body 6 2)).contains (h / 128) && runningOn s x.fn x.popid (h / 16)
          + (acc.filter (fun e => e.2 / 16 = h / 16 && ts.any (fun y => y.1 = e.1 && y.2.thread.popid = popid))).length < x.quota
      | none => true
    match own with
    | some h => if free.contains h then some (acc ++ [(t.1, h)]) else (free.find? keeps).map (fun h => acc ++ [(t.1, h)])
    | none => (free.find? keeps).map (fun h => acc ++ [(t.1, h)])) []

/- CUT packets. -/

/-- The mode of the CUT at the head of a queue. -/
def headMode (s : State) (fn q : Nat) : Nat :=
  match nextPacket s fn q with
  | some (.ok p, _) => pBits p 4 1 0
  | _ => 3

/-- A CUT of mode 0 or 1 starts: STATE becomes 2 and the cut begins. -/
def startCut (fn q : Nat) (s : State) : State :=
  startPacket 9 fn q (fun seq p _ s =>
    beginCut fn { kind := pBits p 4 1 0, clusters := clustersOf s fn, fn := fn, q := q, seqNo := seq, entries := [], recorded := [] }
      (s.modPart fn (fun x => { x with entry := { x.entry with state := 2 } }))) s

/-- CUT_CHECKPOINT (03 R84; 11 R284). -/
def execCutCheckpoint (fn q : Nat) (s : State) : Host.Outcome State Fault Refusal :=
  .next (if headMode s fn q = 0 then startCut fn q s else s)

/-- CUT_STOP (03 R84; 11 R284). -/
def execCutStop (fn q : Nat) (s : State) : Host.Outcome State Fault Refusal :=
  .next (if headMode s fn q = 1 then startCut fn q s else s)

/-- The started packets of a function whose work a mode-1 CUT stops, as (function, queue, number): a forwarded one in its source queue too, and none
whose work runs in another partition. -/
def stoppedPackets (s : State) (fn : Nat) : List (Nat × Nat × Nat) :=
  let away (q seq : Nat) : Bool := forwardedFrom s fn q seq ≠ []
    || s.funcs.any (fun f => f.2.queues.any (fun k => k.2.inbox.any (fun i => i.srcFn = fn && i.srcQ = q && i.srcSeq = seq)))
  (s.func fn).queues.flatMap (fun k =>
    (k.2.started.filter (fun e => [1, 2, 3, 4].contains (pFld e.packet 0 1) && e.stopped.isNone && !away k.1 e.seqNo)).flatMap (fun e =>
      (fn, k.1, e.seqNo) :: (match e.src with
        | some (_, f, q, n) => [(f, q, n)]
        | none => [])))

/-- The work of a mode-1 CUT stops: its packets stand until the image is restored, and the contexts of its clusters are free. -/
def stopWork (fn : Nat) (k : Cut) (s : State) : State :=
  let id := (((s.part fn).images.getLast?).map (·.id)).getD 0
  let s := (stoppedPackets s fn).foldl (fun t e => modStarted e.1 e.2.1 e.2.2 (fun x => { x with stopped := some (id, cmdCycles s) }) t) s
  let hs := (s.harts.filter (fun e => isVector e.1 && ctxOf e.1 ≠ 0 && k.clusters.contains (e.1 / 128))).map (·.1)
  let s := renameHarts (hs.map (fun h => (h, imageKey h))) s
  let s := k.clusters.foldl (fun t c => clearCluster c t) s
  s.modPart fn (fun q => { q with victims := [], slotsUsed := q.slotsUsed.filter (fun i => q.saved.any (fun t => t.slots i)) })

/-- The started mode-2 CUT of a queue that has not restored its image yet. -/
def waitingRestore (s : State) (fn q : Nat) : Option Started :=
  (s.queue fn q).started.find? (fun e => pFld e.packet 0 1 = 9 && pBits e.packet 4 1 0 = 2 && !underKill s fn q e.seqNo)

/-- The places that an image takes in its partition now. -/
def restorePlaces (s : State) (fn : Nat) (img : CutImage) : Option (List (Nat × Nat)) :=
  let l := clustersOf s fn
  assign s (img.clusters.zip l) l l (imageThreads img)

/-- The gangs of a partition with those of an image: its threads are members as they were recorded, at the generation that was recorded, beside the
saved members that the gang has now (07 R175). -/
def restoreGangs (fn : Nat) (img : CutImage) (places : List (Nat × Nat)) (s : State) : State :=
  let back (g : Gang) : Gang :=
    let kept := match gangFind s fn g.id with
      | some e => e.members.filter (fun m => 2 ^ 20 ≤ m.who && m.who < imageKey 0)
      | none => []
    { g with members := g.members.filterMap (fun m => (places.find? (fun e => e.1 = m.who)).map (fun e => { m with who := e.2 })) ++ kept }
  s.modPart fn (fun q => { q with
    gangs := q.gangs.filter (fun g => !img.gangs.any (fun e => e.id = g.id)) ++ (img.gangs.map back).filter (fun g => g.members ≠ [] || g.reserved ≠ 0) })

/-- The attached list queues of an image stand again with their counts, staged records and batches, where their graphs still do (05 R127). -/
def restoreQueues (fn : Nat) (img : CutImage) (s : State) : State :=
  let mine := img.queues.filter (fun q => (graphFind s q.graph).isSome)
  let s := deviceWrite fn img.cells s
  { s with listQueues := s.listQueues.filter (fun q => !mine.any (fun e => e.pa = q.pa)) ++ mine }

/-- Put an image onto the clusters of a partition; the time that its work was stopped does not count for watchdogs (03 R85). -/
def restoreImage (fn : Nat) (img : CutImage) (places : List (Nat × Nat)) (s : State) : State :=
  let pairs := img.clusters.zip (clustersOf s fn)
  let s := pairs.foldl (fun t e => placeBench img e.1 e.2
    ((List.range 8).foldl (fun t j => placeCore img (8 * e.1 + j) (8 * e.2 + j) t) t)) s
  let s := (imageThreads img).foldl (fun t e => placeThread img e.1 (renamed places e.1)
    { e.2 with kstat := { e.2.kstat with pend := false }, thread := { e.2.thread with partition := fn } } t) s
  let s := restoreQueues fn img (restoreGangs fn img places (renameHarts (places.map (fun e => (imageKey e.1, e.2))) s))
  let s := (coresOfClusters (pairs.map (·.2))).foldl (fun t u => resumeHoist u t) s
  let now := cmdCycles s
  let go (e : Started) : Started := match e.stopped with
    | some (id, t) => if id = img.id then { e with at_ := e.at_ + (now - t), stopped := none } else e
    | none => e
  { s with funcs := s.funcs.map (fun f => (f.1, { f.2 with
      queues := f.2.queues.map (fun q => (q.1, { q.2 with started := q.2.started.map go })) })) }

/-- What a started mode-2 CUT can do now: the ERR code of an image that cannot be read or is none, or the image and its places. -/
def restoreReady (s : State) (fn q : Nat) : Option (Started × Except Nat (CutImage × List (Nat × Nat))) :=
  match waitingRestore s fn q with
  | none => none
  | some e =>
    match findImage s fn (pFld e.packet 8 8) with
    | .error c => some (e, .error c)
    | .ok none => some (e, .error 5)
    | .ok (some img) => (restorePlaces s fn img).map (fun l => (e, .ok (img, l)))

/-- CUT_RESTORE (03 R84): the packet starts; when the contexts it needs are free the image is restored and the work resumes. -/
def execCutRestore (fn q : Nat) (s : State) : Host.Outcome State Fault Refusal :=
  match restoreReady s fn q with
  | some (e, .error c) => .next (faultStarted fn q e.seqNo c s)
  | some (e, .ok (img, l)) => .next (completeStarted fn q e.seqNo (pFld e.packet 0x18 8) (restoreImage fn img l s))
  | none => .next (if headMode s fn q = 2 then startPacket 9 fn q (fun _ _ _ s => s) s else s)

/- The hard pre-emption (05 R119). -/

/-- Whether a cluster holds a victim whose 240,000 cycles have passed, and no other cut is in the way. -/
def hardDue (s : State) (p c : Nat) : Bool :=
  !cutCovers s p && (s.part p).entry.state = 1
    && (s.part p).victims.any (fun v => v.1 / 128 = c && v.2.2 + 240000 ≤ s.now && !victimGone s v && !saving s p v.1)

/-- HARD_PREEMPT_CUT (05 R119): a cut over the victim's cluster begins. -/
def execHardPreemptCut (partition cluster : Nat) (s : State) : Host.Outcome State Fault Refusal :=
  if hardDue s partition cluster then
    .next (beginCut partition { kind := 4, clusters := [cluster], fn := partition, q := 0, seqNo := 0, entries := [], recorded := [] } s)
  else .next s

/-- Save a victim of a recorded cut: its first slot in the layout of R117, the other 15 in the cut's own, which holds its vector state. A victim
whose area cannot be written stays, and its bound begins anew. -/
def hardSave (p : Nat) (v : Nat × Nat × Nat) (s : State) : State :=
  let h := v.1
  let g := s.hart h
  let first := saveBytes s p h g.pc (g.priv = .supervisor) g.kstat.hnd
  match writeSave p (slotVaOf s p v.2.1) (first ++ hardBytes g.vec) s with
  | (.error _, t) => t.modPart p (fun q => { q with victims := q.victims.map (fun x => if x.1 = h then (x.1, x.2.1, s.now) else x) })
  | (.ok _, t) => leaveSaved p h v.2.1 true t

/-- The end of a hard pre-emption's cut: CUTBASE has served as the work area, the victims are saved, and every other thread goes on. -/
def hardEnd (p : Nat) (k : Cut) (s : State) : State :=
  let n := (Config.freeValue s.free).toNat % (16 * 2 ^ 20 + 1)
  let s := (runFn p (gWrite (s.func p).cutbase.toNat (vendorBytes (s.free + 1) n) (n / 128 + 2)) { s with free := s.free + 2 }).2
  let vs := (s.part p).victims.filter (fun v => k.clusters.contains (v.1 / 128) && !victimGone s v)
  let s := vs.foldl (fun t v => hardSave p v t) s
  (endCut p (resumeUnits k s)).modFunc p (fun f => { f with hardcuts := satInc f.hardcuts })

/- RESIZE (02 R42–R46; 03 R73). -/

/-- Partition 64 in a descriptor is the PF's; an entry as (partition, entry), none where it is malformed. -/
def parseEntry (v : Nat) : Option (Nat × PartEntry) :=
  let p := byteFld v 0x90 1
  let e : PartEntry :=
    { valid := bitOf v 0, state := 0, clusters := BitVec.ofNat 512 (byteFld v 8 64), gw := BitVec.ofNat 128 (byteFld v 0x48 16)
      es := BitVec.ofNat 64 (byteFld v 0x58 8), heads := BitVec.ofNat 256 (byteFld v 0x60 32)
      s2root := setWfld (BitVec.ofNat 64 (byteFld v 0x80 8)) 59 44 0, cmdcores := BitVec.ofNat 16 (byteFld v 0x88 2), shw := BitVec.ofNat 8 (byteFld v 0x8A 1) }
  if p ≤ 64 ∧ fld v 63 3 = 0 ∧ byteFld v 0x8B 5 = 0 ∧ byteFld v 0x91 0x6F = 0
      ∧ (List.range 16).all (fun g => byteFld v (0x48 + g) 1 ≤ 64) ∧ (List.range 8).all (fun i => byteFld v (0x58 + i) 1 ≤ 64)
      ∧ (e.valid → e.cmdcores ≠ 0) then some (p, e) else none

/-- The partition table as a RESIZE would leave it: (partition, entry) of the valid ones. -/
def resizedTable (s : State) (l : List (Nat × PartEntry)) : List (Nat × PartEntry) :=
  (s.parts.filter (fun e => e.2.entry.valid && !l.any (fun x => x.1 = e.1))).map (fun e => (e.1, e.2.entry)) ++ l.filter (·.2.valid)

/-- Whether no bit is set in two of a list of masks. -/
def disjointMasks : List Nat → Bool
  | [] => true
  | m :: rest => rest.all (fun x => m &&& x = 0) && disjointMasks rest

/-- The clusters whose partition a RESIZE changes. -/
def affectedClusters (s : State) (l : List (Nat × PartEntry)) : List Nat :=
  (List.range 512).filter (fun c => l.any (fun e => (e.2.valid && e.2.clusters.getLsbD c) ≠ (s.part e.1).entry.clusters.getLsbD c))

/-- A partition's clusters that leave, those that join and those that remain. -/
def clusterMoves (s : State) (p : Nat) (e : PartEntry) : List Nat × List Nat × List Nat :=
  let old := clustersOf s p
  let new := (List.range 512).filter (fun c => e.valid && e.clusters.getLsbD c)
  (old.filter (fun c => !new.contains c), new.filter (fun c => !old.contains c), old.filter (fun c => new.contains c))

/-- The threads on clusters that leave without a partner, with the places that they take; none where one finds no place. -/
def looseMoves (s : State) (img : CutImage) (p : Nat) (e : PartEntry) : Option (List (Nat × Nat)) :=
  let (leave, join, stay) := clusterMoves s p e
  let loose := leave.drop join.length
  assign s [] ((List.range 512).filter (fun c => e.valid && e.clusters.getLsbD c)) stay ((imageThreads img).filter (fun t => loose.contains (t.1 / 128)))

/-- What the clusters of a list hold now, as an image. -/
def clusterImage (s : State) (clusters : List Nat) (recorded : List (Nat × Nat)) : CutImage :=
  snapshot s { kind := 3, clusters := clusters, fn := 0, q := 0, seqNo := 0, entries := [], recorded := recorded } 0 0

/-- The status code of a descriptor (R42, R73). -/
def resizeCode (s : State) (l : List (Nat × PartEntry)) : Nat :=
  let t := resizedTable s l
  if !decide (l.map (·.1)).Nodup || (frameOwners s t).isNone then 5
  else if !disjointMasks (t.map (fun e => e.2.clusters.toNat)) || !disjointMasks (t.map (fun e => e.2.heads.toNat)) then 1
  else if (List.range 16).any (fun g => 64 < t.foldl (fun n e => n + fld e.2.gw.toNat (8 * g + 7) (8 * g)) 0)
      || (List.range 8).any (fun i => 64 < t.foldl (fun n e => n + fld e.2.es.toNat (8 * i + 7) (8 * i)) 0) then 2
  else if t.any (fun e => (List.range 256).any (fun h => e.2.heads.getLsbD h
      && fld e.2.es.toNat (8 * (4 * (h / 128) + wfld (s.head h).mode 1 0) + 7) (8 * (4 * (h / 128) + wfld (s.head h).mode 1 0)) = 0)) then 3
  else
    let img := clusterImage s (affectedClusters s l) []
    if l.any (fun e => (looseMoves s img e.1 e.2).isNone) then 4 else 0

/-- A RESIZE ends with a status code. -/
def resizeStatus (fn q seq code : Nat) (p : BitVec 512) (s : State) : State :=
  workStarted fn q seq (pFld p 0x18 8) (gPut (pFld p 0x20 8) 8 code) s

/- Shares of the AV1 engines (02 R45, R55). -/

/-- The partitions' shares of an engine as the table stands (02 R41). -/
def sharesNow (s : State) (engine : Nat) : Tbl Nat :=
  (s.parts.filter (fun e => e.2.entry.valid)).map (fun e => (e.1, wfld e.2.entry.es (8 * engine + 6) (8 * engine)))

/-- The cycles of one slot: 6,000 encoder cycles at 1,500 MHz are 4 µs, 4,800 cycles of the arithmetic clock. -/
def slotCycles : Nat := 4800

/-- The record of an engine with the shares of the present period: those of its start, which are the table's until the first change in the period. -/
def latchEngine (s : State) (engine : Nat) : Engine :=
  let e := tblGet {} s.engines engine
  let now := s.now / slotCycles / 64
  if e.period = some now then e else { e with period := some now, shares := sharesNow s engine }

/-- Every engine keeps the shares of its present period before the table changes. -/
def latchShares (s : State) : State :=
  { s with engines := (List.range 8).foldl (fun t e => tblSet t e (latchEngine s e)) s.engines }

/-- The enabled queues of a function are assigned anew among the command cores of its partition (03 R61). -/
def reassignQueues (fn : Nat) (s : State) : State :=
  let qs := ((s.func fn).queues.filter (·.2.en)).map (·.1)
  let s := qs.foldl (fun t q => t.modQueue fn q (fun k => { k with core := 16 })) s
  ((List.range 16).filter (fun q => qs.contains q)).foldl (fun t q =>
    let c := assignCore t fn
    t.modQueue fn q (fun k => { k with core := c })) s

/-- A table entry takes effect; STATE of the descriptor is ignored. A change of CMDCORES ends the assignment of the partition's queues. -/
def applyEntry (e : Nat × PartEntry) (s : State) : State :=
  let changed := (s.part e.1).entry.cmdcores ≠ e.2.cmdcores
  let s := s.modPart e.1 (fun q => { q with entry := if e.2.valid then
    { e.2 with state := if q.entry.valid ∧ q.entry.state ≠ 2 then q.entry.state else 1 } else {} })
  if changed then reassignQueues e.1 s else s

/-- The moves of a RESIZE: the pairs of clusters, the renaming of harts, and the core that takes a record of each core. -/
def resizeMoves (s : State) (l : List (Nat × PartEntry)) (img : CutImage) : Option (List (Nat × Nat) × List (Nat × Nat)) :=
  let pairs := l.flatMap (fun e => let (leave, join, _) := clusterMoves s e.1 e.2; leave.zip join)
  let whole := (imageThreads img).filterMap (fun t => (pairs.find? (fun e => e.1 = t.1 / 128)).map (fun e => (t.1, t.1 % 128 + 128 * e.2)))
  (l.mapM (fun e => looseMoves s img e.1 e.2)).map (fun loose => (pairs, whole ++ loose.flatten))

/-- Whether a line belongs to a partition, or to a shared region. -/
def linesOf (s : State) (ps : List Nat) (line : Nat) : Bool := ps.contains (ownerOf s (line * 1024)) || (regionOf s (line * 1024)).isSome

/-- The core of a launch record after a RESIZE: its partner's, or that of a context reserved for its population, or the first that
remains. -/
def movedCore (pairs places : List (Nat × Nat)) (stay : List Nat) (reserve : List Nat) (c : Nat) : Nat :=
  match pairs.find? (fun e => e.1 = c / 8) with
  | some e => c % 8 + 8 * e.2
  | none => match reserve.find? (fun h => places.any (fun e => e.2 = h)) with
    | some h => h / 16
    | none => (stay.head?.map (8 * ·)).getD c

/-- The end of a RESIZE: state moves, the table changes, lines are re-homed and the work resumes. -/
def resizeEnd (k : Cut) (s : State) : State :=
  let img := clusterImage s k.clusters k.recorded
  match resizeMoves s k.entries img with
  | none => s
  | some (pairs, places) =>
    let moves := k.entries.map (fun e => (e.1, clusterMoves s e.1 e.2))
    let gone := moves.flatMap (fun m => m.2.1)
    let s := renameHarts places s
    let s := gone.foldl (fun t c => clearCluster c t) s
    let s := pairs.foldl (fun t e => placeBench img e.1 e.2
      ((List.range 8).foldl (fun t j => placeCore img (8 * e.1 + j) (8 * e.2 + j) t) t)) s
    let s := (imageThreads img).foldl (fun t e =>
      if places.any (fun x => x.1 = e.1) then placeThread img e.1 (renamed places e.1) e.2 t else t) s
    -- launch records, and what context 0 had queued, of cores that left without a partner
    let s := moves.foldl (fun t m =>
      let (leave, join, stay) := m.2
      let t := (coresOfClusters (leave.drop join.length)).foldl (fun t c =>
        placeFirmware img c (match stay with
          | d :: _ => 8 * d + c % 8
          | [] => c) t) t
      let t := t.modPart m.1 (fun q => { q with running := q.running.map (fun x => { x with records := x.records.map (fun r =>
        if leave.contains (r.1 / 8) then (movedCore pairs places stay x.reserve r.1, r.2) else r) }) })
      (coresOfClusters (leave.drop join.length)).foldl (fun t c =>
        (tblGet ({} : Core) img.cores c).launch.foldl (fun t sq => sq.2.foldl (fun t r =>
          let dest := movedCore [] places stay (((t.part m.1).running.find? (fun x => x.popid = r.popid.toNat)).map (·.reserve) |>.getD []) c
          t.modCore dest (fun d => { d with launch := tblSet d.launch sq.1 (stampHead t.now (tblGet [] d.launch sq.1 ++ [r])) })) t) t) t) s
    let ps := k.entries.map (·.1)
    let s := flushLines (linesOf s ps) s
    -- translations of the old entries go (02 R60), and an optimised hierarchy loses a cluster that leaves (06 R158)
    let s := ps.foldl (fun t p => dropTlb p none none true t) s
    let s := moves.foldl (fun t m => t.modPart m.1 (fun q => { q with
      bound := q.bound.map (fun b => if m.2.1.contains b.2.2 then (b.1, b.2.1, 1024) else b) })) s
    let s := { s with frames := (frameOwners s (resizedTable s k.entries)).getD s.frames }
    let s := k.entries.foldl (fun t e => applyEntry e t) (latchShares s)
    -- the timers of what has moved are rebased already
    let s := { s with cores := s.cores.map (fun c => (c.1, { c.2 with kcut := { c.2.kcut with
      log := c.2.kcut.log.map (fun e => (renamed places e.1, e.2)) } })) }
    let s := resumeUnits { k with recorded := [] } s
    let s := (coresOfClusters ((pairs.map (·.2)) ++ moves.flatMap (fun m => m.2.2.2))).foldl (fun t u => resumeHoist u t) s
    let s := ps.foldl (fun t p => (running p t).modPart p (fun q => { q with rehoming := none })) s
    endCut 64 s

/-- RESIZE (02 R44; 03 R73): the descriptor is read and checked; a change of clusters begins a cut over them, and anything else takes
effect at once. -/
def execResize (fn q : Nat) (s : State) : Host.Outcome State Fault Refusal :=
  .next (startPacket 12 fn q (fun seq p _ s =>
    match runFn fn ((List.range (pBits p 0x10 6 0)).mapM (fun i => gNum (pFld p 8 8 + 256 * i) 256)) s with
    | (.error e, t) => faultStarted fn q seq e t
    | (.ok vs, s) =>
      match vs.mapM parseEntry with
      | none => resizeStatus fn q seq 5 p s
      | some l =>
        let code := resizeCode s l
        if code ≠ 0 then resizeStatus fn q seq code p s
        else
          let aff := affectedClusters s l
          let hit := l.filter (fun e => aff.any (fun c => (e.2.valid && e.2.clusters.getLsbD c) || (s.part e.1).entry.clusters.getLsbD c))
          let s := hit.foldl (fun t e => t.modPart e.1 (fun x => { x with entry := { x.entry with
            state := if x.entry.valid ∧ x.entry.state = 1 then 2 else x.entry.state } })) s
          beginCut 64 { kind := 3, clusters := aff, fn := fn, q := q, seqNo := seq, entries := l, recorded := [] } s) s)

/-- Whether a partition's cores have posted accesses on their way to a home slice (09 R223, step 2). -/
def homesBusy (s : State) (p : Nat) : Bool :=
  s.cores.any (fun c => (match clusterOfUnit c.1 with
    | some k => (s.part p).entry.clusters.getLsbD k
    | none => false) && c.2.posted.any (fun e => e.sent && !e.parked && !e.refused && e.cls ≤ 2 && inBuffer e))

/-- Whether a recorded cut can end: a RESIZE first makes its partitions' accesses wait, and needs its places when what was sent to the
old homes has been acknowledged. -/
def cutEnds (s : State) (p : Nat) : Bool :=
  match (s.part p).cut with
  | none => false
  | some k => cutRecorded s k && (k.kind ≠ 3
      || (k.entries.any (fun e => (s.part e.1).rehoming.isNone) && k.entries ≠ [])
      || (k.entries.all (fun e => match (s.part e.1).rehoming with
          | some t => t < s.now
          | none => false)
        && !k.entries.any (fun e => homesBusy s e.1)
        && (resizeMoves s k.entries (clusterImage s k.clusters k.recorded)).isSome))

/-- CUT_RESUME (11 R286, R287; 02 R44; 03 R84; 05 R119): what follows a recorded cut. -/
def execCutResume (partition : Nat) (s : State) : Host.Outcome State Fault Refusal :=
  if !cutEnds s partition then .next s
  else match (s.part partition).cut with
    | none => .next s
    | some k =>
      if k.kind = 4 then .next (hardEnd partition k s)
      else if k.kind = 3 then
        if k.entries.any (fun e => (s.part e.1).rehoming.isNone) then
          let ps := k.entries.map (·.1)
          .next (ps.foldl (fun t p => t.modPart p (fun q => { q with rehoming := some s.now })) s)
        else match startedFind s k.fn k.q k.seqNo with
          | none => .next (resizeEnd k s)
          | some e => .next (resizeStatus k.fn k.q k.seqNo 0 e.packet (resizeEnd k s))
      else match startedFind s k.fn k.q k.seqNo with
        | none => .next (running partition (endCut partition (resumeUnits k s)))
        | some e =>
          let (r, s) := writeImage partition k e.packet s
          let s := match r with
            | .ok true => if k.kind = 1 then stopWork partition k s else s
            | _ => s
          let s := running partition (endCut partition (resumeUnits k s))
          match r with
          | .ok _ => .next (completeStarted k.fn k.q k.seqNo (pFld e.packet 0x18 8) s)
          | .error c => .next (faultStarted k.fn k.q k.seqNo c s)

/- Partition reset (R282). -/

/-- The bytes of a line's sectors become free values: what a discarded copy leaves (log entry 2). -/
def spoil (line : Nat) (sectors : BitVec 8) (s : State) : State :=
  (List.range 8).foldl (fun t k => if sectors.getLsbD k then
      let bs := (List.range 16).flatMap (fun i => leBytes 8 (Config.freeValue (t.free + i)).toNat)
      { t with mem := memWrite t.mem (line * 1024 + 128 * k) bs, free := t.free + 16 }
    else t) s

/-- Every copy of the partition's lines is discarded without being written back: what a modified L1 line, or a dirty sector of a slice, held
is lost. -/
def discardLines (p : Nat) (s : State) : State :=
  let mine (line : Nat) : Bool := ownerOf s (line * 1024) = p
  let l1 := s.cores.flatMap (fun c => (c.2.l1.filter (fun e => e.st = .modified && mine e.line)).map (fun e => (e.line, e.dirty)))
  let l2 := s.dir.flatMap (fun d => (d.2.filter (fun e => mine e.line)).map (fun e => (e.line, e.dirty)))
  let s := (l1 ++ l2).foldl (fun t e => spoil e.1 e.2 t) s
  { flushLines mine s with failing := s.failing.filter (fun sec => !mine (sec / 8)) }

/-- Every queue of a function enters QSTATE 3 with an ERR code and signals its vector. -/
def failQueues (fn err : Nat) (s : State) : State :=
  (List.range 16).foldl (fun t q =>
    let t := t.modQueue fn q (fun k => { k with qstate := 3, err := err, inbox := [] })
    sendMsix fn (tblGet {} (t.func fn).queues q).vec t) s

/-- The partition whose memory a global address is: the owner of its frame, or the function whose host memory it is. -/
def memoryOf (s : State) (a : Nat) : Nat := if isHostNum a then a / hostBase - 1 else ownerOf s a

/-- The cut of a RESIZE that names a partition, or that the partition's own packet began, is abandoned: its units go on, and its packet ends without
a status and without its done_counter add (R288). -/
def abandonResize (p : Nat) (s : State) : State :=
  match (s.part 64).cut with
  | some k =>
    if k.kind = 3 ∧ (p = 64 ∨ k.entries.any (fun e => e.1 = p)) then
      let s := endCut 64 (resumeUnits k s)
      let s := (k.entries.map (·.1)).foldl (fun t q => (running q t).modPart q (fun x => { x with rehoming := none })) s
      dropStarted k.fn k.q k.seqNo s
    else s
  | none => s

/-- Every integrity hold on the local memories and registers of a list of units ends. -/
def endUnitHolds (us : List Nat) (s : State) : State :=
  { s with
    cores := s.cores.map (fun (c : Nat × Core) => if us.contains c.1 then (c.1, { c.2 with failingWords := [], failingLanes := [] }) else c)
    harts := s.harts.map (fun (e : Nat × Hart) =>
      if isVector e.1 ∧ us.contains (unitOf e.1) then (e.1, { e.2 with xHeld := [], vec := { e.2.vec with failing := [] } }) else e) }

/-- The partition reset. -/
def partitionReset (p : Nat) (s : State) : State :=
  let s := abandonResize p s
  let s := (s.modPart p (fun q => { q with entry := { q.entry with state := 3 } })).modFunc p (fun f => { f with funcEn := false })
  let s := failQueues p 7 (dropForwarded p s)
  -- the started packets and the work
  let started := (s.func p).queues.flatMap (fun q => q.2.started.map (fun e => (q.1, e.seqNo)))
  let s := (stopPackets (started.map (fun e => (p, e.1, e.2))) s).2
  let s := (s.graphs.filter (fun g => g.fn = p)).foldl (fun t g => (killGraph g.id t).2) s
  let s := (killPopulations p (fun _ => true) s).2
  let s := started.foldl (fun t e => dropStarted p e.1 e.2 t) s
  let l := clustersOf s p
  let s := ((threadsOf s p (fun _ => true))).foldl (fun t h => clearReuse (unitOf h) (stopThread h t)) s
  let s := (coresOfClusters l).foldl (fun t u => pushOut u t) s
  let s := (s.descents.filter (fun d => l.contains (d.hart / 128) || memoryOf s d.cont = p)).foldl (fun t d => endDescent p d t) s
  let s := l.foldl (fun t c =>
    let t := { t with harts := t.harts.filter (fun e => !(isVector e.1 && ctxOf e.1 ≠ 0 && e.1 / 128 = c)) }
    let t := t.modCluster c (fun k => { k with bench := [], cutArm := false, cutRec := false })
    ((List.range 8).map (fun j => 8 * c + j)).foldl (fun t u => (clearReuse u t).modCore u (fun k => { k with
      vq := [], hoist := [], tokens := [], launch := [], ready := [], locks := [], slot := none, kcut := {} })) t) s
  let s := endPlugin p s
  let s := s.modPart p (fun q => { q with
    waiting := [], running := [], gangs := [], victims := [], slotsUsed := [], saved := [], cut := none, rehoming := none, changes := [] })
  discardLines p (endUnitHolds (coresOfClusters l) s)

/- Time limits. -/

/-- Whether a save, or the record of a cut, that holds up a watchdog's kill has taken too long (03 R85; 11 R288). -/
def saveTimeoutDue (s : State) (fn q : Nat) (e : Started) : Bool :=
  watchdogDue s fn e && !e.expired && workHeld s fn q e.seqNo
    && (s.func fn).wdt * 1024 + 1000000 ≤ cmdCycles s - e.at_

/-- SAVE_TIMEOUT (03 R85). -/
def execSaveTimeout (fn q seqNo : Nat) (s : State) : Host.Outcome State Fault Refusal :=
  match startedFind s fn q seqNo with
  | some e => .next (if saveTimeoutDue s fn q e then partitionReset fn s else s)
  | none => .next s

end Sys2Proof.Machine
end

