-- ==== Sys2Proof/Machine/Graph.lean ====
section
/-! DEFINITION. Graphs (03 R81, R82, R474): nodes, COND, AGENT nodes and the queues they attach, and the batches and the finish of list
queues (05 R122–R126). -/

namespace Sys2Proof.Machine

/-- The table of a graph. -/
def readTable (va : Nat) (n : Nat) : GM (List (BitVec 512)) :=
  (List.range n).mapM (fun i => do
    let v ← gNum ((va + 64 * i) % 2 ^ 64) 64
    pure (BitVec.ofNat 512 v))

/-- GRAPH (03 R81): the table is read once and checked, and pass 1 begins. -/
def execGraph (fn q : Nat) (s : State) : Host.Outcome State Fault Refusal :=
  .next (startPacket 2 fn q (fun seq p _ s =>
    match runFn fn (readTable (pFld p 8 8) (pFld p 0x10 2)) s with
    | (.error e, t) => faultStarted fn q seq e t
    | (.ok nodes, s) =>
      if !(List.range nodes.length).all (fun n => nodeOk s fn n (nth 0 nodes n)) then faultStarted fn q seq 5 s
      else { s with
        nextId := s.nextId + 1
        graphs := s.graphs ++ [{ id := s.nextId, fn := fn, q := q, seqNo := seq, nodes := nodes
                                 states := nodes.map (fun _ => .idle), pass := 1, iterLimit := pFld p 0x14 4, rearm := false
                                 failure := none, queues := [], killed := false }] }) s)

/-- A node's body. -/
def Graph.node (g : Graph) (n : Nat) : BitVec 512 := nth 0 g.nodes n

/-- The kind of a node. -/
def Graph.kind (g : Graph) (n : Nat) : Nat := pFld (g.node n) 0 1

/-- Whether a mode-1 CUT has stopped a graph's packet (03 R84). -/
def graphStopped (s : State) (g : Graph) : Bool := Started.stands (startedFind s g.fn g.q g.seqNo)

/-- Whether a graph may go on: it holds no failure, it is not stopped and its partition is not being cut. -/
def graphRuns (s : State) (g : Graph) : Bool := g.failure.isNone && !graphStopped s g && !partitionBusy s g.fn

/-- Whether two AGENT nodes name the same unit instance. -/
def sameUnit (a b : BitVec 512) : Bool := pBits a 4 3 0 = pBits b 4 3 0 && pFld a 6 2 = pFld b 6 2

/-- Whether a node may start: no COND has re-armed the pass, the nodes it names are complete, its unit is not owned, and no lower-numbered AGENT node
that names its unit is incomplete (05 R126). -/
def nodeReady (s : State) (g : Graph) (n : Nat) : Bool :=
  let b := g.node n
  graphRuns s g && !g.rearm && nth .complete g.states n = .idle
    && (nodeDeps n b).all (fun k => nth .idle g.states k = .complete)
    && (g.kind n ≠ 0x0E || !s.units.any (fun u => u.kind = pBits b 4 3 0 && u.inst = pFld b 6 2
      && (match graphFind s u.graph with
        | some e => e.fn = g.fn
        | none => false)))
    && (g.kind n ≠ 0x0E || !(List.range n).any (fun k =>
      g.kind k = 0x0E && sameUnit (g.node k) b && nth .idle g.states k ≠ .complete))

/-- Whether a started WAIT node's counter has been reached, or its read faults. -/
def waitNodeReady (s : State) (g : Graph) (n : Nat) : Bool :=
  g.kind n = 4 && nth .idle g.states n = .started && !graphStopped s g && (match (runFn g.fn (counterReached (g.node n)) s).1 with
    | .ok r => r
    | .error _ => true)

/-- Run the work of a node to its end; a fault is the graph's, and the node has ended. -/
def nodeWork (g n fn done : Nat) (x : GM Unit) (s : State) : State :=
  match runGraph g fn x s with
  | (some _, t) => completeNode g n done t
  | (none, t) => setNode g n .complete t

/-- GRAPH_NODE_START (03 R82): a POP, COPY, WAIT or ADD node acts as the packet of its kind; a started WAIT whose counter is reached
completes. -/
def execGraphNodeStart (graph node : Nat) (s : State) : Host.Outcome State Fault Refusal :=
  match graphFind s graph with
  | none => .next s
  | some g =>
    let b := g.node node
    if waitNodeReady s g node then
      match runGraph graph g.fn (counterReached b) s with
      | (_, t) => .next (setNode graph node .complete t)
    else if !nodeReady s g node then .next s
    else
      let s := setNode graph node .started s
      match g.kind node with
      | 1 => .next (submit (.node graph node) g.fn b (pBits b 5 1 0) none s)
      | 3 => .next (nodeWork graph node g.fn (pFld b 0x20 8) (copyBody b) s)
      | 4 => .next s
      | 5 =>
        match runGraph graph g.fn (addBody b) s with
        | (some _, t) => .next (completeNode graph node 0 (addEvent g.fn b t))
        | (none, t) => .next (setNode graph node .complete t)
      | _ => .next (setNode graph node .idle s)

/-- The test of a COND node on its counter's value. -/
def condTest (b : BitVec 512) (v : Nat) : Bool :=
  let x := pFld b 0x10 8
  match pBits b 4 1 0 with
  | 0 => x ≤ v
  | 1 => v < x
  | 2 => v = x
  | _ => v ≠ x

/-- COND_NODE (03 R82): the node completes, or it re-arms the graph. -/
def execCondNode (graph node : Nat) (s : State) : Host.Outcome State Fault Refusal :=
  match graphFind s graph with
  | none => .next s
  | some g =>
    if g.kind node ≠ 0x0D ∨ !nodeReady s g node then .next s
    else
      let b := g.node node
      match runGraph graph g.fn (gNum (pFld b 8 8) 8) s with
      | (none, t) => .next (setNode graph node .complete t)
      | (some v, t) =>
        let t := setNode graph node .complete t
        if !condTest b v ∨ (g.iterLimit ≠ 0 ∧ g.iterLimit ≤ g.pass) then .next t
        else .next (graphMod graph (fun e => { e with rearm := true }) t)

/- AGENT nodes (05 R122, R126; 06 R130). -/

/-- How many units of a kind a partition has: the units of the dies on which it owns a cluster (06), one Gallery a cluster. -/
def unitCount (s : State) (p kind : Nat) : Nat :=
  let cl := clustersOf s p
  let dies := ((List.range 8).filter (fun d => cl.any (fun c => c / 64 = d))).length
  match kind with
  | 1 => dies
  | 2 => 4 * dies
  | 3 => cl.length
  | 4 => 8 * dies
  | _ => 0

/-- Whether an AGENT node names a unit of its partition. -/
def unitExists (s : State) (p kind inst : Nat) : Bool :=
  if kind = 5 then inst < 256 && (s.part p).entry.heads.getLsbD inst else inst < unitCount s p kind

/-- The configuration blocks that keep to R130. -/
def configOk (kind : Nat) (c : BitVec 512) : Bool :=
  match kind with
  | 1 => onlyNamed [(0, 0, 7)] c && 1 ≤ pBits c 0 6 0 && pBits c 0 6 0 ≤ 64
  | 2 =>
    onlyNamed [(0, 0, 32), (4, 0, 2), (5, 0, 8)] c && 8 ≤ pFld c 0 2 && pFld c 0 2 ≤ 16384 && 8 ≤ pFld c 2 2 && pFld c 2 2 ≤ 16384
      && pBits c 4 1 0 ≤ 2
  | 4 =>
    onlyNamed [(0, 0, 64), (8, 0, 24), (0x10, 0, 64), (0x18, 0, 16)] c && pFld c 0 8 % 1024 = 0 && pBits c 8 19 16 ≤ 3
      && pBits c 8 21 20 ≤ 2 && pBits c 8 23 22 ≤ 2 && (pBits c 8 23 22 = 0 || pFld c 0x10 8 % 64 = 0)
  | _ => true

/-- The start of an AGENT node: its queues are attached and its configuration block is read. -/
def agentStart (graph fn : Nat) (b : BitVec 512) : GM (Nat × Nat × BitVec 512) := do
  let kind := pBits b 4 3 0
  let s ← gState
  if !unitExists s fn kind (pFld b 6 2) ∨ pFld b 8 8 = 0 ∨ (kind ≠ 5 ∧ pFld b 0x10 8 = 0 ∧ kind ≠ 4) then endG .malformed
  else if (kind = 3 ∨ kind = 5) ∧ pFld b 0x18 8 ≠ 0 then endG .malformed
  else do
    let c ← (if kind = 3 ∨ kind = 5 then pure 0 else gNum (pFld b 0x18 8) 64)
    if !configOk kind (BitVec.ofNat 512 c) then endG .malformed
    else do
      let (i, o) ← attachQueues graph fn (pFld b 8 8) (pFld b 0x10 8)
      pure (i, o, BitVec.ofNat 512 c)

/-- Whether something is still to be committed to a queue. -/
def commitsTo (s : State) (pa : Nat) : Bool := s.listQueues.any (fun q => q.commits.any (fun e => e.target = pa))

/-- Whether a queue is closed and empty, and no push to it is outstanding. -/
def queueDrained (s : State) (pa : Nat) : Bool :=
  match lqFind s pa with
  | none => true
  | some q =>
    let v := lqDesc s pa
    lqClosed v && !commitsTo s pa && (match (runFn q.fn (lqEmpty v) s).1 with
      | .ok r => r
      | .error _ => false)

/-- Whether the unit of an AGENT node has done all its work (03 R82). -/
def agentDone (s : State) (u : AgentUnit) : Bool := !u.stopped && u.held.isNone && queueDrained s u.input

/-- AGENT_NODE (05 R122, R126; 03 R82): the node starts, attaches its queues and owns its unit; when its input is closed and empty and
every output is pushed, it closes its output queue and completes. -/
def execAgentNode (graph node : Nat) (s : State) : Host.Outcome State Fault Refusal :=
  match graphFind s graph with
  | none => .next s
  | some g =>
    let b := g.node node
    match s.units.find? (fun u => u.graph = graph && u.node = node) with
    | some u =>
      if !agentDone s u then .next s
      else
        let s := { s with units := s.units.filter (fun x => !(x.graph = graph && x.node = node)) }
        .next (completeNode graph node (pFld b 0x20 8) (if u.output = 0 then s else lqClose (.node graph node) u.output s))
    | none =>
      if g.kind node ≠ 0x0E ∨ !nodeReady s g node then .next s
      else
        match runGraph graph g.fn (agentStart graph g.fn b) (setNode graph node .started s) with
        | (none, t) => .next (setNode graph node .complete t)
        | (some (i, o, c), t) => .next { t with units := t.units ++
            [{ graph := graph, node := node, kind := pBits b 4 3 0, inst := pFld b 6 2, input := i, output := o, config := c
               stopped := false, held := none, carry := 0 }] }

/- Program consumers (05 R123, R124). -/

/-- The size of the batch that a bin may form now; none where it may not. -/
def batchSize (s : State) (q : ListQueue) (bin : Nat) : Option Nat :=
  let v := lqDesc s q.pa
  match graphFind s q.graph with
  | none => none
  | some g =>
    if !lqConsumer v ∨ !graphRuns s g ∨ lqBins v ≤ bin then none
    else match (runFn q.fn (binAt v bin) s).1 with
      | .error _ => none
      | .ok x =>
        let p := x.pending
        let old : Bool := match tblGet [] q.times bin with
          | t :: _ => lqFlush v ≠ 0 && t + lqFlush v ≤ cmdCycles s
          | [] => false
        if p = 0 ∨ (lqOrder v ∧ q.batches.any (fun b => b.bin = bin && !b.complete)) then none
        else if lqBatch v ≤ p ∨ lqClosed v ∨ old then some (min (lqBatch v) p)
        else none

/-- Whether a bin forms the next batch of its queue: of several that are ready the lowest does (R123). -/
def batchFirst (s : State) (q : ListQueue) (bin : Nat) : Bool := !(List.range bin).any (fun b => (batchSize s q b).isSome)

/-- The population of a batch: the TEMPLATE with its count and seed3. -/
def batchBody (t : BitVec 512) (bin n per : Nat) : BitVec 512 :=
  BitVec.ofNat 512 (setFld (setFld t.toNat (8 * 0x28 + 63) (8 * 0x28) (bin * 2 ^ 32 + n)) (8 * 0x30 + 31) (8 * 0x30) ((n + per - 1) / per))

/-- A bin forms a batch: HEAD advances and a population goes to the admission owner. -/
def formBatch (queue bin : Nat) (s : State) : State :=
  match lqFind s queue with
  | none => s
  | some q =>
    match (if batchFirst s q bin then batchSize s q bin else none) with
    | none => s
    | some n =>
      let v := lqDesc s queue
      match runGraph q.graph q.fn (do
          let x ← binAt v bin
          let t ← gNum (lqTemplate v) 64
          lqClaim queue bin n
          pure (x.head, BitVec.ofNat 512 t)) s with
      | (none, t) => t
      | (some (first, t), s) =>
        let k := q.nextBatch
        let s := lqMod queue (fun q => { q with
          nextBatch := k + 1, batches := q.batches ++ [{ bin := bin, number := k, n := n, first := first, complete := false }] }) s
        let b := batchBody t bin n (lqPer v)
        submit (.batch queue bin k) q.fn b (pBits b 5 1 0) none s

/-- BATCH_FORM (05 R123). -/
def execBatchForm (queue bin : Nat) (s : State) : Host.Outcome State Fault Refusal := .next (formBatch queue bin s)

/-- FLUSH_EXPIRY (05 R123): the oldest record of a bin has waited FLUSH command-core cycles, so a partial batch forms. -/
def execFlushExpiry (queue bin : Nat) (s : State) : Host.Outcome State Fault Refusal := .next (formBatch queue bin s)

/-- Whether a queue has pushes that wait for a slot. -/
def waitingPushes (s : State) (pa : Nat) : Bool :=
  s.harts.any (fun e => match e.2.waiting with
    | some (.binSlot p _ _) => p = pa
    | _ => false)

/-- Whether a queue may finish (05 R124). -/
def queueFinishes (s : State) (q : ListQueue) : Bool :=
  !lqFinished (lqDesc s q.pa) && q.batches = [] && q.commits = [] && q.closing = [] && !waitingPushes s q.pa && queueDrained s q.pa

/-- Whether a close that waited for earlier pushes may take effect. -/
def closeReady (s : State) (q : ListQueue) : Bool :=
  match q.closing with
  | l :: _ => !l.2.any (pushWaits s)
  | [] => false

/-- QUEUE_FINISH (05 R124): closes that waited take effect; a closed queue whose bins are empty and whose populations are complete closes
DOWN, adds 1 to DONE and sets FINISHED. -/
def execQueueFinish (queue : Nat) (s : State) : Host.Outcome State Fault Refusal :=
  let s := settleCloses queue s
  match lqFind s queue with
  | none => .next s
  | some q =>
    if !queueFinishes s q then .next s
    else
      let v := lqDesc s queue
      let s := match s.listQueues.find? (fun x => x.graph = q.graph && x.va = lqDown v && lqDown v ≠ 0) with
        | some d => lqClose (.queue queue) d.pa s
        | none => s
      let s := if lqDone v = 0 then s else (runGraph q.graph q.fn (gAdd (lqDone v) 1) s).2
      .next (deviceWrite q.fn (cellsAt (queue + 0x3A) [2]) s)

/-- Whether a population of a graph waits, runs or is still to be admitted. -/
def graphPopulated (s : State) (g : Graph) (batches : Bool) : Bool :=
  let p := s.part g.fn
  (p.running ++ p.waiting.flatMap (·.2)).any (fun x => originGraph s x.origin = some g.id && (!batches || (match x.origin with
    | .batch _ _ _ => true
    | _ => false)))

/-- Whether the list queues of a graph have come to rest. -/
def queuesQuiet (s : State) (g : Graph) : Bool :=
  !graphPopulated s g true && !s.listQueues.any (fun q => q.graph = g.id && q.commits ≠ [])

/-- GRAPH_PASS_REARM (03 R82): every node returns to not started and the next pass begins. -/
def execGraphPassRearm (graph : Nat) (s : State) : Host.Outcome State Fault Refusal :=
  match graphFind s graph with
  | none => .next s
  | some g =>
    if !g.rearm ∨ g.failure.isSome ∨ g.states.any (· = .started) ∨ !queuesQuiet s g then .next s
    else .next (graphMod graph (fun e => { e with
      rearm := false, pass := e.pass + 1, states := e.states.map (fun _ => .idle) }) (detachQueues graph s))

end Sys2Proof.Machine
end

