-- ==== Sys2Proof/Machine/Host.lean ====
section
/-! DEFINITION. What the host does to the device: notify writes and registers (02 R47–R50; 03 R65, R67; 04 R104; 05 R107; 09 R238;
10 R258; 11 R267), the plug-in, function-level resets (02 R51, R52), BAR 4 (02 R37; 10 R264), host reads and pages (00 R4; 09 R234),
shared regions (02 R58–R60), and the links (01 R22–R24; 02 R36). -/

namespace Sys2Proof.Machine

/-- Whether a function is exposed: in recovery only the PF is (01 R34), and a function-level reset of the PF disables every VF until its driver enables
the PF again (02 R52; notes/assumptions/111.md). -/
def exposed (s : State) (fn : Nat) : Bool := fn = 64 || (fn < 64 && !s.boot.recovery && !s.vfsOff)

/-- A notify write is discarded and counted. -/
def dropNotify (fn : Nat) (s : State) : State := s.modFunc fn (fun f => { f with drops := satInc f.drops })

/-- NOTIFY_WRITE (02 R48). -/
def execNotifyWrite (fn q : Nat) (value : Word32) (s : State) : Host.Outcome State Fault Refusal :=
  let k := s.queue fn q
  let tail := fld value.toNat 15 0
  let size := 2 ^ k.size
  .next (if !exposed s fn then s
    else if !(s.func fn).funcEn ∨ !k.en then dropNotify fn s
    else if k.qstate = 3 then dropNotify fn s
    else if size ≤ tail then queueError fn q 1 s
    else if (tail + size - k.head) % size < (k.tail + size - k.head) % size then queueError fn q 2 s
    else s.modQueue fn q (fun k => queueState { k with
      tail := tail, headSince := if k.head = k.tail then cmdCycles s else k.headSince }))

/-- FUNC_EN_WRITE (02 R47; 05 R109; 11 R282): a write of 1 clears DROPS; popids restart at 0 when it is set; STATE 3 returns to 1. -/
def execFuncEnWrite (fn : Nat) (value : Word32) (s : State) : Host.Outcome State Fault Refusal :=
  if !exposed s fn then .next s
  else if value.getLsbD 0 then
    let was := (s.func fn).funcEn
    let s := if fn = 64 then { s with vfsOff := false } else s
    .next ((s.modFunc fn (fun f => { f with funcEn := true, drops := 0 })).modPart fn (fun p =>
      { p with nextPop := if was then p.nextPop else 0
               entry := { p.entry with state := if p.entry.state = 3 then 1 else p.entry.state } }))
  else .next (s.modFunc fn (fun f => { f with funcEn := false }))

/-- QUEUE_ENABLE_WRITE (02 R47, R48; 03 R61): a write of the register at +0x08 of a queue's block. -/
def execQueueEnableWrite (fn q : Nat) (value : Word32) (s : State) : Host.Outcome State Fault Refusal :=
  let v := value.toNat
  let k := s.queue fn q
  if !exposed s fn then .next s
  else if k.en then
    -- SPACE and SIZE are ignored
    let t := s.modQueue fn q (fun k => { k with
      wben := bitOf v 6, vec := fld v 11 7, en := bitOf v 0, qstate := if bitOf v 0 then k.qstate else 0 })
    .next (if bitOf v 0 then t else dropPassed fn q t)
  else
    let k := { k with space := bitOf v 1, size := fld v 5 2, wben := bitOf v 6, vec := fld v 11 7 }
    let ok := wfld k.qbase 11 0 = 0 && 2 ≤ k.size && k.size ≤ 15 && (!k.wben || wfld k.qwb 2 0 = 0)
    let core := assignCore s fn
    .next (s.modQueue fn q (fun _ => if bitOf v 0 ∧ ok then
      { k with en := true, head := 0, tail := 0, qstate := 1, err := 0, startedCount := 0, core := core, headSince := cmdCycles s } else k))

/- The plug-in (03 R63–R65). -/

/-- A measurement register extended with a digest (01 R33). -/
def extendMr (i : Nat) (digest : BitVec 256) (s : State) : State :=
  let old := tblGet 0 s.boot.mr i
  { s with boot := { s.boot with mr := tblSet s.boot.mr i (sm3 (leBytes 32 old.toNat ++ leBytes 32 digest.toNat)) } }

/-- Memory with bytes of a plug-in's region written. -/
def pluginWrite (p off : Nat) (bs : List Byte) (s : State) : State := { s with mem := memWrite s.mem (pluginBase p + off) bs }

/-- PLUGIN_LOAD (03 R65): the image is copied into the text region, the data region is cleared and the image's digest extends MR4; a misaligned or
overlong image, or one that cannot be read, loads nothing. -/
def execPluginLoad (fn : Nat) (s : State) : Host.Outcome State Fault Refusal :=
  let f := s.func fn
  if !exposed s fn ∨ wfld f.pluginBase 11 0 ≠ 0 ∨ 131072 < f.pluginLen then .next s
  else match runFn fn (gBytesAt f.pluginBase.toNat f.pluginLen (f.pluginLen / 64 + 2)) s with
    | (.error _, t) => .next t
    | (.ok bs, t) =>
      let t := endPlugin fn t
      let b := pluginBase fn
      let t := pluginWrite fn 0 bs { t with mem := t.mem.filter (fun c => !(b ≤ c.1 && c.1 < b + 0x40000)) }
      .next (((extendMr 4 (sm3 bs) t).modFunc fn (fun f => { f with pluginActive := true })).modPart fn (fun p => { p with pluginRow := 0 }))

/-- Whether a started CUT or a started KILL of a queue can go on. -/
def startedReady (s : State) (fn q : Nat) : Bool := (killReady s fn q).isSome || (restoreReady s fn q).isSome

/-- Start the next packet of a queue by its type; prio is a plug-in's choice. -/
def runPacket (fn q : Nat) (prio : Option Nat) (s : State) : Host.Outcome State Fault Refusal :=
  match nextPacket s fn q with
  | some (.ok p, _) =>
    match pFld p 0 1 with
    | 2 => execGraph fn q s
    | 3 => execCopy fn q s
    | 4 => execWait fn q s
    | 5 => execAddPacket fn q s
    | 6 => execPatch fn q s
    | 7 => execFencePacket fn q s
    | 8 => execKill fn q s
    | 9 => match pBits p 4 1 0 with
      | 0 => execCutCheckpoint fn q s
      | 1 => execCutStop fn q s
      | 2 => execCutRestore fn q s
      | _ => .next (startPacket 9 fn q (fun _ _ _ s => s) s)
    | 10 => execHostint fn q s
    | 11 => execNop fn q s
    | 12 => execResize fn q s
    | _ => .next (startPopulate fn q prio s)
  | _ => .next (startPopulate fn q prio s)

/-- The entry of a queue in the summary page (R64); its flags byte is byte 1 of the packet (notes/assumptions/83.md). -/
def summaryEntry (s : State) (fn q : Nat) : List Byte :=
  let k := s.queue fn q
  let p : BitVec 512 := match nextPacket s fn q with
    | some (.ok p, _) => p
    | _ => 0
  let pop := decide (pFld p 0 1 = 1)
  leBytes 1 q ++ leBytes 1 (pFld p 0 1) ++ leBytes 1 (if pop then pBits p 5 1 0 else 0) ++ leBytes 1 (pFld p 1 1)
    ++ leBytes 4 ((k.tail + 2 ^ k.size - k.head) % 2 ^ k.size + k.inbox.length) ++ leBytes 4 (if pop then pFld p 0x30 4 else 0) ++ leBytes 4 0
    ++ leBytes 8 k.startedCount ++ leBytes 8 (cmdCycles s - k.headSince)

/-- Where a plug-in returns to: just above its summary page, where it can execute nothing (notes/assumptions/83.md). -/
def pluginReturnVa : Word := 0x41000

/-- The command core that calls the plug-in of a partition: that of the first queue of the summary. -/
def pluginCore (s : State) (p : Nat) : Nat := (s.queue p ((readyQueues s p).headD 0)).core

/-- Whether a command core runs a plug-in. -/
def pluginBusy (s : State) (core : Nat) : Bool := (pluginOf s (0x20000 + core)).isSome

/-- Whether the scheduler calls the plug-in of a partition: more than one queue has a packet that may start, and its command core runs no other. -/
def pluginDue (s : State) (p : Nat) : Bool :=
  (s.func p).pluginActive && 2 ≤ (readyQueues s p).length && (s.part p).pluginCall.isNone && !pluginBusy s (pluginCore s p)

/-- The scheduler calls a plug-in (R63–R65): its hart starts in U-mode at the first byte of the text region with the summary page in a0 and the number
of its entries in a1. -/
def beginPlugin (p : Nat) (s : State) : State :=
  let l := readyQueues s p
  let core := pluginCore s p
  let h := 0x20000 + core
  let g : Hart := { Hart.resetCommand with
    waiting := none, priv := .user, pc := 0, readyAt := s.now + 1
    x := [(1, pluginReturnVa), (10, 0x40000), (11, BitVec.ofNat 64 l.length)] }
  let b := pluginBase p + 0x40000
  let bytes := (l.flatMap (summaryEntry s p))
  let t := pluginWrite p 0x40000 bytes { s with mem := s.mem.filter (fun c => !(b ≤ c.1 && c.1 < b + 4096)) }
  dropICache (unitOf h) ((t.setHart h g).modPart p (fun q => { q with
    pluginCall := some { core := core, since := cmdCycles s, queues := l, saved := s.hart h } }))

/-- How a call of a plug-in that is under way has ended, if it has: with what it returns in a0 and a1, or as a plug-in fault. Any trap but the one at
the return address, and a run longer than 10,000 command-core cycles, is a fault (R63). -/
def pluginEnded (s : State) (p : Nat) : Option (Option (Word × Word)) :=
  match (s.part p).pluginCall with
  | none => none
  | some c =>
    let g := s.hart (0x20000 + c.core)
    if c.since + 10000 < cmdCycles s then some none
    else if g.priv = .user then none
    else if g.csr.mcause ≠ 1 ∨ g.csr.mepc ≠ pluginReturnVa then some none
    else if g.xReady s.now 10 ∧ g.xReady s.now 11 then some (some (g.getX 10, g.getX 11))
    else none

/-- A plug-in has answered a0 and a1: −1 starts nothing until the next call, and an answer that names no listed queue, or a priority above 3, gives the
default choice (R64). -/
def pluginAnswer (p : Nat) (c : PluginCall) (a0 a1 : Word) (s : State) : Host.Outcome State Fault Refusal :=
  let s := (endPlugin p s).modPart p (fun q => { q with pluginRow := 0 })
  if a0 = BitVec.allOnes 64 then .next s
  else if c.queues.contains a0.toNat ∧ a1.toNat < 4 then runPacket p a0.toNat (some a1.toNat) s
  else runPacket p (c.queues.headD 0) none s

/-- PLUGIN_CALL (03 R64): the scheduler calls the plug-in; of a call that is under way it is the end, with what the plug-in returns. -/
def execPluginCall (partition : Nat) (a0 a1 : Word) (s : State) : Host.Outcome State Fault Refusal :=
  match (s.part partition).pluginCall with
  | some c => pluginAnswer partition c a0 a1 s
  | none => .next (if pluginDue s partition then beginPlugin partition s else s)

/-- PLUGIN_TIMEOUT (03 R63): the call that is under way ends as a plug-in fault and the default choice applies; the 16th in a row disables the plug-in. -/
def execPluginTimeout (partition : Nat) (s : State) : Host.Outcome State Fault Refusal :=
  match (s.part partition).pluginCall with
  | none => .next s
  | some c =>
    let n := (s.part partition).pluginRow + 1
    let s := (endPlugin partition s).modPart partition (fun p => { p with pluginRow := n })
    runPacket partition (c.queues.headD 0) none
      (s.modFunc partition (fun f => { f with pluginFaults := satInc f.pluginFaults, pluginActive := n < 16 }))

/- Invalidations (09 R238). -/

/-- Start an invalidation: the translations go at once; BUSY holds until the accesses that used them are performed. -/
def beginInvalidate (fn p : Nat) (va asid : Option Nat) (second : Bool) (s : State) : State :=
  (dropTlb p va asid second s).modFunc fn (fun f => { f with invBusy := if olderPosted s p s.nextId then some s.nextId else none })

/-- The ASID of a function. -/
def asidOf (s : State) (fn : Nat) : Nat := wfld (s.func fn).asReg 59 44

/-- TLB_INVALIDATE_PAGE (09 R238). -/
def execTlbInvalidatePage (fn : Nat) (s : State) : Host.Outcome State Fault Refusal :=
  if !exposed s fn ∨ (s.func fn).invBusy.isSome then .next s
  else .next (beginInvalidate fn fn (some (sextW 48 (s.func fn).invva.toNat).toNat) (some (asidOf s fn)) false
    (s.modFunc fn (fun f => { f with invAll := false, invStage2 := false })))

/-- TLB_INVALIDATE_ALL (09 R238). -/
def execTlbInvalidateAll (fn : Nat) (s : State) : Host.Outcome State Fault Refusal :=
  if !exposed s fn ∨ (s.func fn).invBusy.isSome then .next s
  else .next (beginInvalidate fn fn none (some (asidOf s fn)) false (s.modFunc fn (fun f => { f with invAll := true, invStage2 := false })))

/-- The partition table as it stands. -/
def tableNow (s : State) : List (Nat × PartEntry) := s.parts.map (fun e => (e.1, e.2.entry))

/-- TLB_INVALIDATE_STAGE2 (09 R222, R238): by the PF only; the frames get new owners, or REFUSED is set and nothing changes. -/
def execTlbInvalidateStage2 (fn : Nat) (psel : Nat) (s : State) : Host.Outcome State Fault Refusal :=
  if fn ≠ 64 ∨ (s.func fn).invBusy.isSome then .next s
  else
    let s := s.modFunc fn (fun f => { f with invStage2 := true, invPsel := psel % 256 })
    match frameOwners s (tableNow s) with
    | none => .next (s.modFunc fn (fun f => { f with invRefused := true }))
    | some owners =>
      let old := s.frames
      let s := flushLines (ownerChanged old owners) { s with frames := owners }
      .next (beginInvalidate fn (partByte psel) none none true (s.modFunc fn (fun f => { f with invRefused := false })))

/- Shared regions (02 R58–R60). -/

/-- Change a region. -/
def State.modRegion (s : State) (k : Nat) (f : Region → Region) : State := { s with regions := tblSet s.regions k (f (s.region k)) }

/-- Whether a physical address lies in a region. -/
def inRegion (s : State) (k pa : Nat) : Bool :=
  let r := s.region k
  r.base.toNat ≤ pa && pa < r.base.toNat + r.size * 2 ^ 21

/-- Whether posted accesses to a region older than a bound are not performed yet. -/
def regionBusy (s : State) (k bound : Nat) : Bool :=
  s.cores.any (fun c => c.2.posted.any (fun e => e.id < bound && inBuffer e && inRegion s k (postedAddr e)))

/-- FREEZE_WRITE (02 R59, R60): by the PF. -/
def execFreezeWrite (fn region : Nat) (freeze : Bool) (s : State) : Host.Outcome State Fault Refusal :=
  if fn ≠ 64 ∨ 8 ≤ region then .next s
  else if freeze then
    if (s.region region).freeze then .next s
    else .next ((s.cores.foldl (fun t c => sendWhere c.1 (fun e => inRegion s region (postedAddr e)) t) s).modRegion region
      (fun r => { r with freeze := true, busy := some s.nextId }))
  else if s.parts.any (fun e => e.2.entry.shw.getLsbD region) then .next s
  else .next (s.modRegion region (fun r => { r with freeze := false, busy := none }))

/-- The freeze of a region ends: every cached copy is written back and discarded, and BUSY clears. -/
def endFreeze (k : Nat) (s : State) : State := (flushLines (fun l => inRegion s k (l * 1024)) s).modRegion k (fun r => { r with busy := none })

/- Registers without behaviour of their own; the writes of the host are in Bar0.lean. -/

/-- Whether a queue of a function is enabled. -/
def anyEnabled (s : State) (fn : Nat) : Bool := (s.func fn).queues.any (fun q => q.2.en)

/-- A write of a 64-bit register of the function control block that has no behaviour of its own. -/
def funcRegister (fn off : Nat) (v : Word) (s : State) : State :=
  let set (f : Func → Func) : State := s.modFunc fn f
  let idle (f : Func → Func) : State := if anyEnabled s fn then s else s.modFunc fn f
  match off with
  | 0x10 => idle (fun f => { f with asReg := v })
  | 0x18 => set (fun f => { f with wdt := wfld v 31 0 })
  | 0x20 => set (fun f => { f with pluginBase := v })
  | 0x28 => set (fun f => { f with pluginLen := wfld v 17 0 })
  | 0x38 => idle (fun f => { f with txslot := BitVec.ofNat 9 (wfld v 8 0), txen := v.getLsbD 9 })
  | 0x80 => idle (fun f => { f with stkbase := v })
  | 0x88 => idle (fun f => { f with stklen := v })
  | 0x90 => idle (fun f => { f with compbase := v })
  | 0x98 => idle (fun f => { f with savebase := v })
  | 0xA0 => idle (fun f => { f with saveslots := wfld v 31 0, prewait := wfld v 63 32 })
  | 0xA8 => idle (fun f => { f with cutbase := v })
  | 0xB8 => set (fun f => { f with invva := v.setWidth 48 })
  -- a write with GO = 1 while BUSY = 1 is ignored
  | 0xC0 => if v.getLsbD 0 ∧ (s.func fn).invBusy.isSome then s else set (fun f => { f with
      invAll := v.getLsbD 1, invStage2 := v.getLsbD 2 && fn = 64, invPsel := if fn = 64 then wfld v 15 8 else 0 })
  | 0xC8 => idle (fun f => { f with strict := v.getLsbD 0 })
  | 0xD0 => idle (fun f => { f with rtvec := v })
  | 0xD8 => idle (fun f => { f with rtscr := v })
  | _ => if 0x40 ≤ off ∧ off < 0x80 ∧ off % 8 = 0 then idle (fun f => { f with txroot := tblSet f.txroot ((off - 0x40) / 8) (v.setWidth 44) }) else s

/-- A write of QBASE or QWB. -/
def queueRegister (fn q off : Nat) (v : Word) (s : State) : State :=
  match off with
  | 0x00 => if (s.queue fn q).en then s else s.modQueue fn q (fun k => { k with qbase := v })
  | 0x10 => s.modQueue fn q (fun k => { k with qwb := v })
  | _ => s

/-- The partition that owns a head (02 R41); a new owner takes it over once its accepted flips are encoded (02 R45). -/
def headOwner (s : State) (h : Nat) : Option Nat :=
  match (s.head h).slots with
  | f :: _ => some f.owner
  | [] => (s.parts.find? (fun e => e.2.entry.valid && e.2.entry.heads.getLsbD h)).map (·.1)

/-- Whether a function reaches a head's block (02 R53). -/
def headReached (s : State) (fn h : Nat) : Bool := h < 256 && (fn = 64 || headOwner s h = some fn)

/-- Change a head. -/
def State.modHead (s : State) (h : Nat) (f : Head → Head) : State := { s with heads := tblSet s.heads h (f (s.head h)) }

/-- A write of a head's register but FLIP. -/
def headRegister (h off : Nat) (v : Word) (s : State) : State :=
  match off with
  | 0x00 => s.modHead h (fun d => { d with surf := v })
  | 0x08 => s.modHead h (fun d => { d with dims := setWfld v 63 52 0 })
  | 0x10 => s.modHead h (fun d => { d with mode := setWfld v 31 12 0 })
  | 0x18 => s.modHead h (fun d => { d with ring := v })
  | 0x20 => s.modHead h (fun d => { d with ringlog := wfld v 3 0, rp := wfld v 63 32 })
  | _ => s

/-- A write of a region's register but FREEZE. -/
def regionRegister (k off : Nat) (v : Word) (s : State) : State :=
  if (s.region k).freeze then s
  else if off = 0 then s.modRegion k (fun r => { r with base := v })
  else if off = 8 then s.modRegion k (fun r => { r with size := wfld v 31 0 })
  else s

/-- A write of a Sieve entry's word (03 R67). -/
def sieveRegister (k off : Nat) (v : Word) (s : State) : State :=
  match off with
  | 0x00 => s.modSieve k (fun e => { e with w0 := setWfld (setWfld v 7 1 0) 47 42 0 })
  | 0x08 => s.modSieve k (fun e => { e with pcLo := v })
  | 0x10 => s.modSieve k (fun e => { e with pcHi := v })
  | 0x18 => s.modSieve k (fun e => { e with maxCount := wfld v 31 0 })
  | _ => s

/- Function-level reset (02 R51, R52). -/

/-- A queue that is disabled and empty, what has started apart. -/
def Queue.reset (k : Queue) : Queue := { k with en := false, qstate := 0, head := k.tail, inbox := [] }

/-- The kill of a function's work begins: its queues are disabled, what has not started is dropped, what has started is stopped. -/
def startReset (fn : Nat) (s : State) : State :=
  let s := dropForwarded fn s
  let started := (s.func fn).queues.flatMap (fun q => q.2.started.map (fun e => (fn, q.1, e.seqNo)))
  let (l, s) := stopPackets started s
  let now := cmdCycles s
  s.modFunc fn (fun f => { f with
    funcEn := false, drops := 0, queues := f.queues.map (fun q => (q.1, q.2.reset)), flr := some now, flrHarts := f.flrHarts ++ l })

/-- Whether the kill of a function's reset is complete but for its end. -/
def resetQuiet (s : State) (fn : Nat) : Bool := (s.func fn).flr.isSome && threadsQuiet s (s.func fn).flrHarts

/-- The kill of a function's reset ends: its contexts are free and its started packets are gone. -/
def endReset (fn : Nat) (s : State) : State :=
  let s := freeThreads (s.func fn).flrHarts s
  let started := (s.func fn).queues.flatMap (fun q => q.2.started.map (fun e => (q.1, e.seqNo)))
  (started.foldl (fun t e => dropStarted fn e.1 e.2 t) s).modFunc fn (fun f => { f with flr := none, flrHarts := [] })

/-- FUNCTION_LEVEL_RESET of a VF (02 R51). -/
def execFunctionLevelReset (fn : Nat) (s : State) : Host.Outcome State Fault Refusal :=
  if 64 ≤ fn ∨ !exposed s fn then .next s else .next (startReset fn s)

/-- 100 ms in command-core cycles. -/
def hundredMs : Nat := 160000000

/-- Whether a function's reset has not completed within 100 ms. -/
def flrLate (s : State) (fn : Nat) : Bool :=
  match (s.func fn).flr with
  | some t => t + hundredMs ≤ cmdCycles s
  | none => false

/-- FLR_KILL_TIMEOUT (02 R52). -/
def execFlrKillTimeout (fn : Nat) (s : State) : Host.Outcome State Fault Refusal :=
  if flrLate s fn then .next ((partitionReset fn s).modFunc fn (fun f => { f with flr := none, flrHarts := [] })) else .next s

/-- PF_FUNCTION_LEVEL_RESET (02 R52): every VF is disabled, every function's work is killed, every entry is cleared and entry 64 is restored. -/
def execPfFunctionLevelReset (s : State) : Host.Outcome State Fault Refusal :=
  let fns := (List.range 65).filter (fun f => s.funcs.any (fun e => e.1 = f))
  let s : State := fns.foldl (fun t f => startReset f t) s
  let s : State := { fns.foldl (fun t f => endPlugin f t) (latchShares s) with vfsOff := true }
  let s : State := { s with parts := s.parts.map (fun (e : Nat × Partition) => (e.1, { e.2 with entry := {}, cut := none, rehoming := none })) }
  let s : State := s.modPart 64 (fun p => { p with entry := PartEntry.reset64 })
  let old := s.frames
  -- units that were armed for a cut go on
  let armed := (s.cores.filter (fun c => c.2.kcut.arm)).map (·.1)
  let s : State := armed.foldl (fun t u => resumeUnit [] u t) s
  let s : State := { s with clusters := s.clusters.map (fun (c : Nat × Cluster) => (c.1, { c.2 with cutArm := false, cutRec := false })) }
  .next (flushLines (ownerChanged old []) { s with frames := [] })

/-- The late KILL of a queue. -/
def killLate (s : State) (fn q : Nat) : Option Started :=
  (s.queue fn q).started.find? (fun e => pFld e.packet 0 1 = 8 && e.at_ + hundredMs ≤ cmdCycles s)

/-- KILL_TIMEOUT (03 R83): the partition that the KILL reaches is reset. -/
def execKillTimeout (fn q : Nat) (s : State) : Host.Outcome State Fault Refusal :=
  match killLate s fn q with
  | none => .next s
  | some e =>
    let p := if pBits e.packet 4 1 0 = 2 then partByte (pFld e.packet 6 1) else fn
    .next (dropStarted fn q e.seqNo (partitionReset p s))

/-- CONFIGURATION_REQUEST (02 R52). -/
def execConfigurationRequest (fn tag : Nat) (s : State) : Host.Outcome State Fault Refusal :=
  .next { s with out := s.out ++ [if !exposed s fn then .unsupported tag
    else if (s.func fn).flr.isSome then .retryStatus tag else .configOk tag] }

/- BAR 4 (02 R37; 10 R264). -/

/-- The device address that a byte of BAR 4 names: DRAM for the PF, the lowest 64 GiB of guest-physical space for a VF. -/
def bar4 (s : State) (fn : Nat) (acc : Acc) (a : Nat) : Option Nat :=
  if fn = 64 then (if a < dramBytes then some a else none)
  else if 2 ^ 36 ≤ a then none
  else match stage2 s fn acc a with
    | .ok t => if t.host ∨ isRemote t.pa ∨ !paExists t.pa then none else some t.pa
    | .error _ => none

/-- The largest read request and the largest payload of a write that the endpoint takes (02 R36). -/
def maxReadRequest : Nat := 4096
def maxPayload : Nat := 512

/-- HOST_BAR4_READ (10 R264; 01 R29): inside the device's memory system; failing data end in Completer Abort. -/
def execHostBar4Read (fn : Nat) (addr : Word) (bytes tag : Nat) (s : State) : Host.Outcome State Fault Refusal :=
  match (List.range bytes).mapM (fun i => bar4 s fn .load (addr.toNat + i)) with
  | none => .next { s with out := s.out ++ [.unsupported tag] }
  | some l =>
    if !exposed s fn ∨ maxReadRequest < bytes then .next { s with out := s.out ++ [.unsupported tag] }
    else if l.any (fun a => s.failing.contains (sectorOf a)) then .next { s with out := s.out ++ [.completerAbort tag] }
    else .next { s with out := s.out ++ [.readData tag (l.map (memGet s.mem))] }

/-- HOST_BAR4_WRITE (02 R36, R37, R59; 01 R28, R30): a write that fails ECRC, is poisoned, is longer than the payload limit, reaches no memory, targets a frozen region or
writes part of a held sector is discarded and reported. -/
def execHostBar4Write (fn : Nat) (addr : Word) (data : List Byte) (ecrcOk poisoned : Bool) (s : State) : Host.Outcome State Fault Refusal :=
  let reject := Host.Outcome.next { s with out := s.out ++ [HostOut.aer fn false] }
  match (List.range data.length).mapM (fun i => bar4 s fn .store (addr.toNat + i)) with
  | none => reject
  | some l =>
    let frozen (a : Nat) : Bool := match regionOf s a with
      | some k => (s.region k).freeze
      | none => false
    let cells := l.zip data
    let whole (sec : Nat) : Bool := (cells.filter (fun c => sectorOf c.1 = sec)).length = 128
    if !ecrcOk ∨ poisoned ∨ !exposed s fn ∨ maxPayload < data.length ∨ l.any frozen ∨ (cellSectors cells).any (fun sec => s.failing.contains sec && !whole sec) then reject
    else .next ((cellSectors cells).foldl (fun t sec => deviceWrite fn (cells.filter (fun c => sectorOf c.1 = sec)) t) s)

/- Host reads and pages (00 R4; 09 R234). -/

/-- The host read that a hart waits for ends in an error. -/
def failHostRead (h : Nat) (s : State) : State :=
  let g := s.hart h
  match g.hostRead with
  | some (a, .pending) => wake h (s.setHart h { g with hostRead := some (a, .failed) })
  | _ => s

/-- HOST_COMPLETION_TIMEOUT (00 R4). -/
def execHostCompletionTimeout (hart : Nat) (s : State) : Host.Outcome State Fault Refusal := .next (failHostRead hart s)

/-- HOST_ERROR_COMPLETION (00 R4): Unsupported Request and Completer Abort act alike. -/
def execHostErrorCompletion (hart : Nat) (abort : Bool) (s : State) : Host.Outcome State Fault Refusal :=
  let _ := abort
  .next (failHostRead hart s)

/-- PAGE_REQUEST_RESPONSE (09 R234): the host's translation agent maps the page of a function, or refuses it. -/
def execPageRequestResponse (fn : Nat) (page : Nat) (granted : Bool) (s : State) : Host.Outcome State Fault Refusal :=
  let n := fn * 2 ^ 48 + page
  .next { s with
    out := s.out.filter (fun o => o ≠ .pageRequest fn page)
    pagesRefused := if granted then s.pagesRefused.filter (· ≠ n) else if s.pagesRefused.contains n then s.pagesRefused else n :: s.pagesRefused }

/- Links (01 R22–R25; 02 R36). -/

/-- HOST_LINK_TRAINING (02 R36); 2 stands for 2.5 GT/s. -/
def execHostLinkTraining (width gts : Nat) (s : State) : Host.Outcome State Fault Refusal :=
  if [16, 8, 4, 2, 1].contains width ∧ [128, 64, 32, 16, 8, 5, 2].contains gts then .next { s with link := { width := width, gts := gts } }
  else .next s

/-- Whether a port carries traffic: a posted access, a load or an atomic on its way to or from a device that is routed over it. -/
def portBusy (s : State) (port : Nat) : Bool :=
  let routed (dev : Nat) : Bool := s.routes.any (fun r => r.1 = dev && r.2 = port)
  s.cores.any (fun c => c.2.posted.any (fun e => e.sent && !e.parked && inBuffer e && isRemote (postedAddr e) && routed (fld (postedAddr e) 46 41)))
    || s.traffic.any (fun t => s.now < t.2 && routed t.1)

/-- ROUTE_TABLE_WRITE (01 R24): by the PF, while neither the old nor the new port carries traffic. -/
def execRouteTableWrite (fn dev port : Nat) (valid : Bool) (s : State) : Host.Outcome State Fault Refusal :=
  let old := (s.routes.find? (fun r => r.1 = dev)).map (·.2)
  let busy : Bool := match old with
    | some p => portBusy s p
    | none => false
  if fn ≠ 64 ∨ 64 ≤ dev ∨ 12 ≤ port ∨ portBusy s port ∨ busy then .next s
  else .next { s with routes := if valid then tblSet s.routes dev port else tblDel s.routes dev }

/-- HAUL_LANE_RETRAIN (01 R22, R25): lanes fail; a port of 8 lanes retrains to 4, and one of 4 has lost every lane. -/
def execHaulLaneRetrain (port : Nat) (s : State) : Host.Outcome State Fault Refusal :=
  if 12 ≤ port ∨ (s.port port).lanes = 0 then .next s
  else .next { s with ports := tblSet s.ports port { lanes := if (s.port port).lanes = 8 then 4 else 0, changed := true } }

/-- Whether bytes from a DRAM address on exist and take a write of another device: none of them is frozen, and a sector under integrity hold is written
whole (01 R30). -/
def remoteTakes (s : State) (a n : Nat) : Bool :=
  a + n ≤ dramBytes && (List.range n).all (fun i => match regionOf s (a + i) with
    | some k => !(s.region k).freeze
    | none => true)
    && (List.range n).all (fun i => let sec := sectorOf (a + i); !s.failing.contains sec || (a ≤ 128 * sec && 128 * sec + 128 ≤ a + n)) && n ≠ 0

/-- REMOTE_DEVICE_ACCESS (01 R23): performed at the home of the DRAM address, and answered; an access that cannot be performed is
answered with an error. -/
def execRemoteDeviceAccess (access : RemoteAccess) (s : State) : Host.Outcome State Fault Refusal :=
  let answer (o : HostOut) (s : State) : Host.Outcome State Fault Refusal := .next { s with out := s.out ++ [o] }
  match access with
  | .load a n =>
    if a + n ≤ dramBytes ∧ !(List.range n).any (fun i => s.failing.contains (sectorOf (a + i))) then
      answer (.haulReply (memBytes s.mem a n)) s
    else answer .haulError s
  | .store a data =>
    if remoteTakes s a data.length then answer .haulAck (deviceWrite (ownerOf s a) (cellsAt a data) s) else answer .haulError s
  | .contribute a n =>
    if remoteTakes s a 16 ∧ a % 16 = 0 then
      answer .haulAck (deviceWrite (ownerOf s a) (cellsAt a (leBytes 16 ((memRead s.mem a 16 + n.toNat) % 2 ^ 128))) s)
    else answer .haulError s

end Sys2Proof.Machine
end

