-- ==== Sys2Proof/Machine/Display.lean ====
section
/-! DEFINITION. Display heads and the AV1 engines (02 R53–R57): flips, the slots of an engine's period, and the frame records of a stream
ring. -/

namespace Sys2Proof.Machine

/- Flips (02 R53–R55). -/

/-- Whether every setting that a flip latches, and the ring that takes its record, is in range (02 R53). -/
def flipInRange (d : Head) : Bool :=
  wfld d.surf 9 0 = 0
    && 64 ≤ wfld d.dims 15 0 && wfld d.dims 15 0 ≤ 7680 && wfld d.dims 15 0 % 8 = 0
    && 64 ≤ wfld d.dims 31 16 && wfld d.dims 31 16 ≤ 4320 && wfld d.dims 31 16 % 4 = 0
    && wfld d.dims 51 48 ≤ 2
    && wfld d.ring 11 0 = 0 && 4 ≤ d.ringlog

/-- The slots that a frame needs: W = ⌈c × P / 12,000⌉ (02 R55). -/
def flipSlots (dims mode : Word) : Nat :=
  let c := if mode.getLsbD 2 then 2 else 1
  (c * (wfld dims 15 0 * wfld dims 31 16) + 11999) / 12000

/-- FLIP (02 R54): a write of the sequence number takes a flip slot, or is refused and counted; so is one by the PF on a head that no partition owns
(notes/assumptions/112.md). -/
def execFlip (fn head : Nat) (seq : Word32) (s : State) : Host.Outcome State Fault Refusal :=
  if !exposed s fn ∨ !headReached s fn head then .next s
  else
    let d := s.head head
    match headOwner s head with
    | none => .next (s.modHead head (fun d => { d with refused := satInc d.refused }))
    | some p =>
      if d.slots.length < 4 ∧ flipInRange d then
        let f : Flip := { owner := p, seqNo := seq, surf := d.surf, dims := d.dims, mode := d.mode, order := s.nextId
                          owed := flipSlots d.dims d.mode, root := (s.part p).entry.s2root }
        .next ({ s with nextId := s.nextId + 1 }.modHead head (fun d => { d with flip := seq, slots := d.slots ++ [f] }))
      else .next (s.modHead head (fun d => { d with refused := satInc d.refused }))

/- The slots of a period (02 R55). -/

/-- The owner of slot k of a period, from the counts already granted: the partition whose next grant is due first, among those whose
next grant has come up; the n-th of c grants belongs between n × 64 / c and (n + 1) × 64 / c. -/
def slotOwner (shares granted : Tbl Nat) (k : Nat) : Option Nat :=
  (shares.filter (fun e => e.2 ≠ 0 && tblGet 0 granted e.1 < e.2 && tblGet 0 granted e.1 * 64 ≤ k * e.2)).foldl
    (fun best e =>
      let due (p c : Nat) : Nat := ((tblGet 0 granted p + 1) * 64 + c - 1) / c
      match best with
      | none => some (e.1, due e.1 e.2)
      | some (b, t) => if due e.1 e.2 < t then some (e.1, due e.1 e.2) else some (b, t)) (none : Option (Nat × Nat))
  |>.map (·.1)

/-- The owner of slot k after j slots have been granted, with n slots still to go through. -/
def slotOwnerFrom (shares : Tbl Nat) : Nat → Nat → Tbl Nat → Option Nat
  | 0, j, granted => slotOwner shares granted j
  | n + 1, j, granted =>
    slotOwnerFrom shares n (j + 1) (match slotOwner shares granted j with
      | some p => tblSet granted p (tblGet 0 granted p + 1)
      | none => granted)

/-- The engine that a flip of a head is for. -/
def flipEngine (h : Nat) (f : Flip) : Nat := 4 * (h / 128) + wfld f.mode 1 0

/-- The oldest flip of every head, where an engine serves it. -/
def engineFlips (s : State) (engine : Nat) : List (Nat × Flip) :=
  s.heads.filterMap (fun e => match e.2.slots with
    | f :: _ => if flipEngine e.1 f = engine then some (e.1, f) else none
    | [] => none)

/-- The first of some flips in acceptance order. -/
def firstFlip (l : List (Nat × Flip)) : Option (Nat × Flip) :=
  l.foldl (fun best e => match best with
    | none => some e
    | some b => if e.2.order < b.2.order then some e else some b) none

/- Frame records (02 R56, R57). -/

/-- The bytes of a surface, row by row. -/
def surfaceBytes (surf pitch w : Nat) : Nat → Nat → GM (List Byte)
  | _, 0 => pure []
  | y, n + 1 => do
    let a ← gBytesAt (surf + y * pitch * 64) (4 * w) (w / 8 + 2)
    let b ← surfaceBytes surf pitch w (y + 1) n
    pure (a ++ b)

/-- The settings that a frame is encoded with, as one number. -/
def flipSettings (f : Flip) : Nat := f.dims.toNat + f.mode.toNat * 2 ^ 64

/-- What makes a key frame when it changes: the width, the height and the profile. -/
def flipShape (f : Flip) : Nat := wfld f.dims 31 0 + natOf (f.mode.getLsbD 2) * 2 ^ 32

/-- Whether a flip gives a key frame: the first, every 256th after one, and where the shape changes. -/
def keyFrame (d : Head) (f : Flip) : Bool := d.frames = 0 || d.frames = 256 || d.lastDims ≠ flipShape f

/-- The frame record: its header and its OBUs. -/
def frameRecord (seq : Word32) (key : Bool) (obus : List Byte) : List Byte :=
  leBytes 4 seq.toNat ++ leBytes 4 obus.length ++ leBytes 8 (natOf key) ++ obus

/-- Write bytes into a ring at an offset; they may wrap at its end. It says whether they are written: a record that would touch a frozen region is not
(02 R59). -/
def ringWrite (ring size at_ : Nat) (bs : List Byte) : GM Bool := do
  let n := size - at_
  let a ← gFrozen (ring + at_) (bs.take n).length
  let b ← gFrozen ring (bs.drop n).length
  match (match a with
    | some x => some x
    | none => b) with
  | some x => do
    let p ← gReader
    gMod (partitionFault p x 4)
    pure false
  | none => do
    gWrite (ring + at_) (bs.take n) (size / 128 + 2)
    gWrite ring (bs.drop n) (size / 128 + 2)
    pure true

/-- Run a computation for the partition of a flip; one that a RESIZE has emptied keeps the second stage of the flip for it (R46). -/
def runOwner {α : Type} (f : Flip) (x : GM α) (s : State) : Except Nat α × State :=
  let e := (s.part f.owner).entry
  if e.valid then runFn f.owner x s
  else
    let (r, t) := runFn f.owner x (s.modPart f.owner (fun q => { q with entry := { q.entry with s2root := f.root } }))
    (r, t.modPart f.owner (fun q => { q with entry := e }))

/-- The record of a flip whose slots are served, where its ring has room; none while it waits. A ring that cannot be written, and a frozen one,
takes no record. -/
def finishFlip (h : Nat) (f : Flip) (s : State) : Option State :=
  let d := s.head h
  let size := 2 ^ d.ringlog * 1024
  let w := wfld f.dims 15 0
  let (r, t) := runOwner f (surfaceBytes f.surf.toNat (wfld f.dims 47 32) w 0 (wfld f.dims 31 16)) s
  let surface := match r with
    | .ok b => b
    | .error _ => []
  let obus := Config.av1Frame d.history surface (flipSettings f)
  let key := keyFrame d f
  let rec_ := frameRecord f.seqNo key obus
  let len := (rec_.length + 63) / 64 * 64
  if size ≤ (d.wp + size - d.rp % size) % size + len then none
  else match runOwner f (ringWrite d.ring.toNat size d.wp rec_) t with
    | (.ok true, t) => some (t.modHead h (fun d => { d with
        done := f.seqNo, wp := (d.wp + len) % size, slots := d.slots.drop 1
        frames := if key then 1 else d.frames + 1, lastDims := flipShape f
        history := d.history ++ [(surface, flipSettings f)] }))
    | (.ok false, t) => some t
    | (.error _, _) => none

/-- Serve a flip for one slot; none where it can only wait for its ring. -/
def serveFlip (h : Nat) (f : Flip) (s : State) : Option State :=
  if 1 < f.owed then some (s.modHead h (fun d => { d with slots := { f with owed := f.owed - 1 } :: d.slots.drop 1 }))
  else match finishFlip h { f with owed := 0 } s with
    | some t => some t
    | none => if f.owed = 0 then none else some (s.modHead h (fun d => { d with slots := { f with owed := 0 } :: d.slots.drop 1 }))

/-- The record of an engine that goes through the present slot: new shares take effect when a period starts (02 R45). -/
def engineNow (s : State) (engine : Nat) : Engine := { latchEngine s engine with last := s.now / slotCycles }

/-- ENCODE_SLOT (02 R55): the slot's owner is served, its flips in acceptance order; a slot that it leaves idle serves another partition. -/
def execEncodeSlot (engine : Nat) (s : State) : Host.Outcome State Fault Refusal :=
  let slot := s.now / slotCycles
  let e := tblGet {} s.engines engine
  if 8 ≤ engine ∨ slot ≤ e.last then .next s
  else
    let e := engineNow s engine
    let s := { s with engines := tblSet s.engines engine e }
    let flips := engineFlips s engine
    let owner := slotOwnerFrom e.shares (slot % 64) 0 []
    let own := firstFlip (flips.filter (fun x => some x.2.owner = owner))
    let firsts := (flips.map (·.2.owner)).eraseDups.filterMap (fun p => firstFlip (flips.filter (fun x => x.2.owner = p)))
    let rest := (List.range firsts.length).foldl (fun (acc : List (Nat × Flip) × List (Nat × Flip)) _ =>
      match firstFlip acc.2 with
      | some x => (acc.1 ++ [x], acc.2.filter (fun y => y.2.order ≠ x.2.order))
      | none => acc) ([], firsts)
    .next (((own.toList ++ rest.1).findSome? (fun x => serveFlip x.1 x.2 s)).getD s)

end Sys2Proof.Machine
end

