-- ==== Sys2Proof/Machine/Boot.lean ====
section
/-! DEFINITION. Boot, recovery and attestation (01 R31–R35), power and temperature (01 R14–R16), and the replay of link flits (01 R28). -/

namespace Sys2Proof.Machine

/- Boot (01 R31–R34). -/

/-- A signature or a public key: two numbers of 32 bytes, big-endian. -/
def beBytes64 (v : BitVec 512) : List Byte := beBytes 64 v.toNat

/-- Whether an image verifies: it is signed, over its digest, under the fused key, and its security version is not rolled back (01 R32). -/
def imageVerifies (b : Boot) (i : BootImage) : Bool :=
  sm3 (beBytes64 i.key) = b.fuseKey && popCount b.fuseRollback.toNat 64 ≤ i.version && sm2Verifies i.key (leBytes 32 i.digest.toNat) i.signature

/-- The stages in order: each image is verified and measured; the first that does not verify, or is out of its stage's turn, enters
recovery. The security version is that of the monitor. -/
def bootStages : List BootImage → State → State
  | [], s => if s.boot.stage = 3 then s else { s with boot := { s.boot with recovery := true } }
  | i :: rest, s =>
    if imageVerifies s.boot i ∧ 1 ≤ i.mr ∧ i.mr ≤ 3 ∧ (i.mr = s.boot.stage + 1 ∨ (i.mr = s.boot.stage ∧ 2 ≤ i.mr)) then
      let t := extendMr i.mr i.digest s
      bootStages rest { t with boot := { t.boot with stage := i.mr, version := if i.mr = 1 then i.version else t.boot.version } }
    else { s with boot := { s.boot with recovery := true } }

/-- The image that a recovery upload put in the place of its stage's. -/
def withUpload (u : Option BootImage) (i : BootImage) : BootImage :=
  match u with
  | some n => if n.mr = i.mr then n else i
  | none => i

/-- COLD_RESET (01 R31, R33): every measurement register is zero, the ROM measures itself, and the stages follow; once they have verified, command
core 0 waits in its firmware as the others do. -/
def execColdReset (images : List BootImage) (s : State) : Host.Outcome State Fault Refusal :=
  let b : Boot := { upload := s.boot.upload, boots := s.boot.boots + 1, fuseKey := s.boot.fuseKey, fuseRollback := s.boot.fuseRollback }
  let r := { State.reset with hostMem := s.hostMem, pagesRefused := s.pagesRefused, out := s.out, free := s.free, boot := b }
  let t := bootStages (images.map (withUpload s.boot.upload)) (extendMr 0 Config.romDigest r)
  .next (if t.boot.recovery then t else t.setHart 0x20000 Hart.resetCommand)

/-- RECOVERY_IMAGE_UPLOAD (01 R34): in recovery the PF gives a new signed image, which stands in for its stage's at the next cold reset. -/
def execRecoveryImageUpload (fn : Nat) (image : BootImage) (s : State) : Host.Outcome State Fault Refusal :=
  if fn = 64 ∧ s.boot.recovery ∧ imageVerifies s.boot image then .next { s with boot := { s.boot with upload := some image } } else .next s

/- Attestation (01 R35). -/

/-- The 32 bytes of a measurement register. -/
def mrBytes (s : State) (i : Nat) : List Byte := leBytes 32 (tblGet 0 s.boot.mr i).toNat

/-- The part of a quote that the attestation key signs. -/
def quoteHead (s : State) (fn : Nat) (nonce : BitVec 256) : List Byte :=
  leBytes 32 nonce.toNat ++ (List.range 8).flatMap (mrBytes s) ++ leBytes 8 s.boot.version
    ++ leBytes 8 (if fn = 64 then 0xFF else fn)
    ++ leBytes 32 (sm3 (beBytes64 (Config.attestationKey s.boot.boots))).toNat

/-- A quote. -/
def quoteBytes (s : State) (fn : Nat) (nonce : BitVec 256) : List Byte :=
  let h := quoteHead s fn nonce
  let k := beBytes64 (Config.attestationKey s.boot.boots)
  h ++ beBytes64 (Config.sm2AttestSign s.boot.boots (sm3 h)) ++ k
    ++ beBytes64 (Config.sm2IdentitySign (sm3 (k ++ mrBytes s 0 ++ mrBytes s 1))) ++ beBytes64 Config.identityKey

/-- ATTESTATION_QUOTE_REQUEST: the monitor answers, once it runs. -/
def execAttestationQuoteRequest (fn : Nat) (nonce : BitVec 256) (s : State) : Host.Outcome State Fault Refusal :=
  if exposed s fn ∧ 1 ≤ s.boot.stage then .next { s with out := s.out ++ [.quote fn (quoteBytes s fn nonce)] } else .next s

/-- IDENTITY_CERTIFICATE_REQUEST. -/
def execIdentityCertificateRequest (fn : Nat) (s : State) : Host.Outcome State Fault Refusal :=
  if exposed s fn then .next { s with out := s.out ++ [.certificate fn Config.identityCertificate] } else .next s

/- Power and temperature (01 R14, R15). -/

/-- Every die is held in reset, and the host link reports a fatal error (01 R15). -/
def holdInReset (s : State) : State := { s with boot := { s.boot with held := true }, out := s.out ++ [.aer 64 true] }

/-- A die's junction temperature as its register shows it. -/
def tjShown (tj : Nat) : Nat := min tj 127

/-- The power limit of a compute die in milliwatts. -/
def dieLimit (s : State) : Nat := (s.pwrCap - 460) * 125

/-- A die after an evaluation of its power controller. -/
def Die.evaluate (d : Die) (limit mw tj : Nat) : Die :=
  let above := decide (limit < mw)
  let hot := decide (105 < tj)
  let raise := decide (mw < limit) && decide (tj < 105) && decide (50 ≤ d.sinceRaise + 1) && decide (d.clock < 1200)
  let clock := if above || hot then max 600 (d.clock - 25) else if raise then d.clock + 25 else d.clock
  { d with
    clock := clock, tj := tjShown tj, power := mw, samples := (d.samples ++ [mw]).drop (d.samples.length + 1 - 50)
    sinceRaise := if raise then 0 else min 50 (d.sinceRaise + 1)
    plim := clock < 1200 && (above || d.plim), tlim := clock < 1200 && (hot || d.tlim) }

/-- The average of a list. -/
def average (l : List Nat) : Nat := if l = [] then 0 else l.sum / l.length

/-- The module's power in watts, averaged over the last millisecond. -/
def modulePower (s : State) : Nat :=
  (s.dies.foldl (fun n d => n + average d.2.samples) 0) / 1000 + Config.restPower s.now

/-- POWER_EVALUATION (01 R14): a compute die's power controller has measured its power and temperature. -/
def execPowerEvaluation (die milliwatts tjC : Nat) (s : State) : Host.Outcome State Fault Refusal :=
  if 8 ≤ die then .next s
  else
    let t := s.modDie die (fun d => d.evaluate (dieLimit s) milliwatts tjC)
    let t := { t with powerW := modulePower t % 4096 }
    .next (if 115 ≤ tjC then holdInReset t else t)

/-- THERMAL_SHUTDOWN (01 R15). -/
def execThermalShutdown (die tjC : Nat) (s : State) : Host.Outcome State Fault Refusal :=
  if 10 ≤ die then .next s
  else
    let t := s.modDie die (fun d => { d with tj := tjShown tjC })
    .next (if 115 ≤ tjC then holdInReset t else t)

/-- LINK_CRC_REPLAY (01 R28): a flit has failed its check a number of times; each failure is replayed, and after every 8 replays that fail the
link retrains. -/
def execLinkCrcReplay (die failures : Nat) (s : State) : Host.Outcome State Fault Refusal :=
  if 10 ≤ die ∨ failures = 0 then .next s
  else .next (s.modDie die (fun d => { d with
    replays := d.replays + failures, retrains := d.retrains + (failures - 1) / 8, corrected := d.corrected + 1 }))

end Sys2Proof.Machine
end

