-- ==== Sys2Proof/Machine/Integrity.lean ====
section
/-! DEFINITION. The checks that data carry (01 R21, R26, R27), what the device does when one fails (01 R28; 08 R206), and the disturbances
that an environment gives (State.flaws). Bytes are those of a sector in rising order, a 16-bit symbol is two of them, little-endian. -/

namespace Sys2Proof.Machine

/- The sector's CRC-32C (01 R26). -/

/-- One bit of the CRC: the polynomial 0x1EDC6F41, reflected. -/
def crc32cBit (c : BitVec 32) : BitVec 32 := (c >>> 1) ^^^ (if c.getLsbD 0 then 0x82F63B78 else 0)

/-- The CRC goes on over one byte. -/
def crc32cByte (c : BitVec 32) (b : Byte) : BitVec 32 :=
  (List.range 8).foldl (fun d _ => crc32cBit d) (c ^^^ b.zeroExtend 32)

/-- The CRC-32C of bytes: initial value and final XOR of all ones (01 R26). -/
def crc32c (bs : List Byte) : BitVec 32 := (bs.foldl crc32cByte (BitVec.allOnes 32)) ^^^ BitVec.allOnes 32

/-- The 128 bytes of a sector. -/
def sectorBytes (d : BitVec 1024) : List Byte := leBytes 128 d.toNat

/-- A sector on its way, with the check that it carries (01 R26). -/
structure Carried where
  data : BitVec 1024
  check : BitVec 32
deriving DecidableEq, Repr

/-- A sector as it enters the device: its check is computed from the bytes received. -/
def Carried.enter (d : BitVec 1024) : Carried := { data := d, check := crc32c (sectorBytes d) }

/-- Whether a sector agrees with the check that it carries. -/
def Carried.sound (c : Carried) : Bool := crc32c (sectorBytes c.data) = c.check

/- The checks of core-local memories and of the lanes (01 R27). -/

/-- The 72-bit positions of the extended Hamming code that SECDED uses: the n-th data bit stands at the n-th number from 3 on that is no power of 2
(notes/assumptions/93.md). -/
def hammingPlaces : List Nat := (List.range 72).filter (fun k => k ≠ 0 && !([1, 2, 4, 8, 16, 32, 64].contains k))

/-- The eight check bits of a 64-bit word: bits 0 to 6 are the Hamming parities, bit 7 is the parity of all the others. -/
def secded (w : Word) : BitVec 8 :=
  let places := ((List.range 64).zip hammingPlaces).filter (fun e => w.getLsbD e.1)
  let h := places.foldl (fun a e => a ^^^ e.2) 0
  BitVec.ofNat 8 (h + 128 * ((countBits h 7 + places.length) % 2))

/-- The SECDED checks of a sector's 64-bit words. -/
def sectorSecded (d : BitVec 1024) : List (BitVec 8) := (List.range 16).map (fun k => secded (d.extractLsb' (64 * k) 64))

/-- The parity of a 32-bit word of a lane. -/
def parity32 (w : Word32) : Bool := countBits w.toNat 32 % 2 = 1

/-- A domain takes a sector in: it computes its own check from the bytes as received, verifies the incoming check, and only then drops that one (01
R27); none where the check fails. -/
def takeIn {α : Type} (own : BitVec 1024 → α) (c : Carried) : Option (BitVec 1024 × α) :=
  let check := own c.data
  if c.sound then some (c.data, check) else none

/- DRAM at rest (01 R21). -/

/-- Twice an element of GF(2^16), whose polynomial the manual does not give (notes/assumptions/93.md). -/
def gfDouble (a : BitVec 16) : BitVec 16 := (a <<< 1) ^^^ (if a.getLsbD 15 then 0x100B else 0)

/-- An element of GF(2^16) times the i-th power of the generator. -/
def gfScale : Nat → BitVec 16 → BitVec 16
  | 0, a => a
  | i + 1, a => gfScale i (gfDouble a)

/-- The i-th 16-bit symbol of a sector. -/
def symbol (d : BitVec 1024) (i : Nat) : BitVec 16 := d.extractLsb' (16 * i) 16

/-- The two Reed–Solomon check symbols of a sector: the sum of its symbols, and their sum scaled by their places. -/
def rsChecks (d : BitVec 1024) : BitVec 16 × BitVec 16 :=
  (List.range 64).foldl (fun a i => (a.1 ^^^ symbol d i, a.2 ^^^ gfScale i (symbol d i))) (0, 0)

/-- The address term of a sector's check (01 R21). -/
def addressTerm (pa : Nat) : BitVec 32 := BitVec.ofNat 32 (pa / 128)

/-- The 8 check bytes of the data sector at a physical address: the Reed–Solomon symbols, and the CRC-32C with the address term. -/
def checkBytes (pa : Nat) (d : BitVec 1024) : BitVec 64 :=
  let (c0, c1) := rsChecks d
  (crc32c (sectorBytes d) ^^^ addressTerm pa) ++ c1 ++ c0

/-- The bytes that DRAM holds for a sector: 128 bytes of data, 8 check bytes. -/
def dramImage (pa : Nat) (d : BitVec 1024) : BitVec 1088 := checkBytes pa d ++ d

/-- A sector with any one symbol corrected, where the two check symbols point to one; none where they do not. -/
def rsCorrect (d : BitVec 1024) (check : BitVec 64) : Option (BitVec 1024) :=
  let (c0, c1) := rsChecks d
  let s0 := c0 ^^^ check.extractLsb' 0 16
  let s1 := c1 ^^^ check.extractLsb' 16 16
  if s0 = 0 ∨ s1 = 0 then some d
  else ((List.range 64).find? (fun i => gfScale i s0 = s1)).map (fun i => d ^^^ (s0.zeroExtend 1024 <<< (16 * i)))

/-- What the controller delivers of a sector that DRAM returned: the data after correction with the check of the way ahead, if their CRC agrees for
this address. -/
def dramRead (pa : Nat) (image : BitVec 1088) : Option Carried :=
  let check := image.extractLsb' 1024 64
  match (rsCorrect (image.extractLsb' 0 1024) check).map Carried.enter with
  | some c => if c.check ^^^ addressTerm pa = check.extractLsb' 32 32 then some c else none
  | none => none

/-- What the controller writes to DRAM of a sector that comes to it; none where the sector fails its check. -/
def dramWrite (pa : Nat) (c : Carried) : Option (BitVec 1088) := (takeIn (dramImage pa) c).map (·.2)

/- What happens when a check fails (01 R28). -/

/-- A corrected or repaired event of a die is counted. -/
def countCorrected (d : Nat) (s : State) : State := s.modDie d (fun x => { x with corrected := x.corrected + 1 })

/-- The slice that holds a line. -/
def sliceWith (s : State) (line : Nat) : Option (Nat × DirEntry) :=
  s.dir.findSome? (fun e => (e.2.find? (fun d => d.line = line)).map (fun d => (e.1, d)))

/-- The I/O die of the memory controller of a device physical address: channels 0 to 63 lie on die 8 (01 R19). -/
def dieOfDram (pa : Nat) : Nat := if dramChannel pa < 64 then 8 else 9

/-- Whether a copy of a sector in the L1 data caches or the slices stands between DRAM and its readers. -/
def sectorCached (s : State) (sec : Nat) : Bool :=
  s.dir.any (fun e => e.2.any (fun d => d.line = sec / 8 && d.filled.getLsbD (sec % 8)))
    || s.cores.any (fun c => c.2.l1.any (fun l => l.line = sec / 8 && l.valid.getLsbD (sec % 8)))

/-- A sector that DRAM has delivered stands in memory, written back where it was corrected; one that it has not fails. -/
def deliverSector (sec : Nat) (image : BitVec 1088) (d : Option Carried) (s : State) : State :=
  match d with
  | some c =>
    let s := { s with mem := memWrite s.mem (sec * 128) (sectorBytes c.data) }
    if dramWrite (sec * 128) c = some image then s else countCorrected (dieOfDram (sec * 128)) s
  | none => if s.failing.contains sec then s else { s with failing := sec :: s.failing }

/-- The next disturbance of a DRAM sector that is listed, which the controller meets when it reads once more. -/
def nextDram (sec : Nat) : List (Nat × Flaw) → Option (BitVec 1088 × List (Nat × Flaw))
  | [] => none
  | e :: rest =>
    match e.2 with
    | .dram x image => if x = sec then some (image, rest) else (nextDram sec rest).map (fun r => (r.1, e :: r.2))
    | _ => (nextDram sec rest).map (fun r => (r.1, e :: r.2))

/-- A read of a DRAM sector: where it fails the controller reads once more, and then delivers nothing (01 R28). -/
def dramFlaw (sec : Nat) (image : BitVec 1088) (s : State) : State :=
  match dramRead (sec * 128) image with
  | some d => deliverSector sec image (some d) s
  | none =>
    match nextDram sec s.flaws with
    | some (again, rest) => deliverSector sec image (dramRead (sec * 128) again) { s with flaws := rest }
    | none => deliverSector sec image none s

/-- A sector in a slice does not agree with its check: a clean copy is discarded and fetched again, a dirty one is under hold. -/
def carriedFlaw (k sec : Nat) (c : Carried) (s : State) : State :=
  match (s.slice k).find? (fun d => d.line = sec / 8 && d.filled.getLsbD (sec % 8)) with
  | none => s
  | some d =>
    match takeIn sectorSecded c with
    | some (data, _) => { s with mem := memWrite s.mem (sec * 128) (sectorBytes data) }
    | none =>
      if d.dirty.getLsbD (sec % 8) then (if s.failing.contains sec then s else { s with failing := sec :: s.failing })
      else countCorrected (dieOfUnit k)
        (dirPut k { d with filled := d.filled &&& ~~~ BitVec.ofNat 8 (2 ^ (sec % 8)) } s)

/-- Flipped bits of a 64-bit word of a local memory: one is corrected in place, more put the word under hold. -/
def localFlaw (core space word flips : Nat) (s : State) : State :=
  if flips = 0 then s
  else if flips = 1 then countCorrected (dieOfUnit core) s
  else s.modCore core (fun c =>
    { c with failingWords := if c.failingWords.contains (space, word) then c.failingWords else (space, word) :: c.failingWords })

/-- Flipped bits of a 64-bit word of an L1 copy: one is corrected; with more, a clean copy of the sector is discarded and fetched again,
and a dirty one is under hold. -/
def l1Flaw (u addr flips : Nat) (s : State) : State :=
  let sec := sectorOf addr
  match l1Find (s.core u) (lineOf addr) with
  | none => s
  | some e =>
    if flips = 0 ∨ !e.valid.getLsbD (sec % 8) then s
    else if flips = 1 then countCorrected (dieOfUnit u) s
    else if e.dirty.getLsbD (sec % 8) then (if s.failing.contains sec then s else { s with failing := sec :: s.failing })
    else countCorrected (dieOfUnit u) (l1Invalidate u (lineOf addr) (sectorMask (sec * 128) 1) s)

/-- Flipped bits of a 64-bit word of a context's storage (08 R206): one is corrected, more put what holds the word under hold. -/
def contextFlaw (h : Nat) (at_ : Spoiled) (flips : Nat) (s : State) : State :=
  if flips = 0 then s
  else if flips = 1 then countCorrected (dieOfUnit (unitOf h)) s
  else s.modHart h (fun g => match at_ with
    | .x r => if r = 0 ∨ g.xHeld.contains r then g else { g with xHeld := r :: g.xHeld }
    | w => if g.vec.failing.contains w then g else g.modVec (fun v => { v with failing := w :: v.failing }))

/-- Whether a disturbance is met now: one of DRAM by the next read of the sector from it, one of a context's storage or of a register once the core's
vector instruction queue is empty (notes/assumptions/93.md). -/
def Flaw.met (s : State) : Flaw → Bool
  | .dram sec _ => !sectorCached s sec
  | .contextWord h _ _ => (s.core (unitOf h)).vq = []
  | .slice u _ _ => (s.core u).vq = []
  | _ => true

/-- What a disturbance does when it is met. -/
def meetFlaw (f : Flaw) (s : State) : State :=
  match f with
  | .dram sec image => dramFlaw sec image s
  | .carried k sec data check => carriedFlaw k sec { data := data, check := check } s
  | .localWord core space word flips => localFlaw core space word flips s
  | .l1Word u addr flips => l1Flaw u addr flips s
  | .contextWord h w flips => contextFlaw h w flips s
  | .slice u name lane => s.modCore u (fun c => { c with parity := (name, lane) :: c.parity })

/-- The first disturbance that is due and met, and the others. -/
def takeFlaw (s : State) : List (Nat × Flaw) → Option (Flaw × List (Nat × Flaw))
  | [] => none
  | e :: rest =>
    if e.1 ≤ s.now ∧ e.2.met s then some (e.2, rest) else (takeFlaw s rest).map (fun r => (r.1, e :: r.2))

end Sys2Proof.Machine
end

