-- ==== Sys2Proof/Machine/Service.lean ====
section
/-! DEFINITION. The lock words of scratch (07 R172), the directory and router service registers of context 0 (09 R225, R226; 10 R254, R255),
and the debug module of a core (11 R289–R292). -/

namespace Sys2Proof.Machine

/- Lock words (07 R172). -/

/-- The VA of a lock word in the window. -/
def lockVa (bank : Nat) (release : Bool) : Word := BitVec.ofNat 64 (windowBase + 0x400000 + 16 * bank + if release then 8 else 0)

/-- An 8-byte load of a lock word by a hart: only the window of a vector core has the 32 banks. -/
def lockWord (hart bank : Nat) (rd : Reg) (release : Bool) (act : M Word) (s : State) : Host.Outcome State Fault Refusal :=
  runM (do
    destX rd.toNat
    let own ← askS (fun s => isVector s.cur)
    if !own ∨ 32 ≤ bank then trapM 5 (lockVa bank release)
    else do
      let v ← act
      loadReturns rd v 10
      retireM 4) { s with cur := hart }

/-- SLACQ (07 R172): waits until the bank is unlocked or held by this context, then grants it; 1. -/
def execSlacq (hart bank : Nat) (rd : Reg) (s : State) : Host.Outcome State Fault Refusal :=
  lockWord hart bank rd false (lockAcquireM bank) s

/-- SLREL (07 R172): releases the lock; 1 if this context held it, and 0 otherwise. -/
def execSlrel (hart bank : Nat) (rd : Reg) (s : State) : Host.Outcome State Fault Refusal :=
  lockWord hart bank rd true (lockReleaseM bank) s

/- Service registers of context 0. -/

/-- The VA of a directory service register. -/
def dirRegVa (off : Nat) : Word := BitVec.ofNat 64 (windowBase + 0x2000000 + off)

/-- A load of a service register by context 0 of a core in S-mode; any other mode takes an access fault. -/
def serviceLoad (core : Nat) (rd : Reg) (tval : State → Word × State) (pop : State → Word × State) (s : State) :
    Host.Outcome State Fault Refusal :=
  runM (do
    destX rd.toNat
    let h ← me
    if h.priv ≠ .supervisor then do
      let v ← (fun s => .ok (tval s))
      trapKeepM 5 v
    else do
      let v ← (fun s => .ok (pop s))
      loadReturns rd v 10
      retireM 4) { s with cur := 16 * core }

/-- A store to a service register by context 0 of a core in S-mode; any other mode takes an access fault. -/
def serviceStore (core : Nat) (tval : State → Word × State) (act : State → State) (s : State) : Host.Outcome State Fault Refusal :=
  runM (do
    let h ← me
    if h.priv ≠ .supervisor then do
      let v ← (fun s => .ok (tval s))
      trapKeepM 7 v
    else do
      modS act
      retireM 4) { s with cur := 16 * core }

/-- DIRECTORY_RECORD_POP (09 R225). -/
def execDirectoryRecordPop (core : Nat) (rd : Reg) (s : State) : Host.Outcome State Fault Refusal :=
  serviceLoad core rd (fun s => (dirRegVa 0, s)) (ovfPop core) s

/-- DIRECTORY_INVALIDATE (09 R225). -/
def execDirectoryInvalidate (core : Nat) (value : Word) (s : State) : Host.Outcome State Fault Refusal :=
  serviceStore core (fun s => (dirRegVa 8, s)) (ovfInvalidate core value) s

/-- DIRECTORY_DONE (09 R226). -/
def execDirectoryDone (core : Nat) (value : Word) (s : State) : Host.Outcome State Fault Refusal :=
  serviceStore core (fun s => (dirRegVa 0x10, s)) (ovfDone core value) s

/-- ROUTER_RECORD_POP (10 R255): the page's address is not given, so stval of a fault is a free value. -/
def execRouterRecordPop (core : Nat) (rd : Reg) (s : State) : Host.Outcome State Fault Refusal :=
  serviceLoad core rd State.takeFree (routerPop core) s

/-- ROUTER_WIDEN (10 R254, R255). -/
def execRouterWiden (core : Nat) (value : Word) (s : State) : Host.Outcome State Fault Refusal :=
  serviceStore core State.takeFree (widen core (wfld value 3 0)) s

/- The debug module (11 R289–R292). -/

/-- Whether the debug window serves a core. -/
def debugServes (s : State) (core : Nat) : Bool := s.dbgEn && s.dbgCore = core && core < 4096

/-- Change the debug module of a core. -/
def State.modDebug (s : State) (u : Nat) (f : Debug → Debug) : State := s.modCore u (fun c => { c with dbg := f c.dbg })

/-- DEBUG_HALT_REQUEST (11 R290). -/
def execDebugHaltRequest (core : Nat) (s : State) : Host.Outcome State Fault Refusal :=
  let d := (s.core core).dbg
  if !debugServes s core ∨ d.halted ∨ d.haltreq then .next s else .next (requestHalt core (16 * core) 3 s)

/-- A hart leaves debug mode: it goes on at dpc in the mode of dcsr. -/
def Hart.leaveDebug (g : Hart) : Hart :=
  let p := privOf (wfld g.csr.dcsr 1 0)
  { g with
    pc := g.csr.dpc, priv := p, resuming := false
    csr := { g.csr with mstatus := if p = .machine then g.csr.mstatus else setBitW g.csr.mstatus 17 false } }

/-- Let one hart of a halted core take a single step (11 R292). -/
def beginStep (h : Nat) (s : State) : State :=
  (s.modHart h Hart.leaveDebug).modDebug (unitOf h) (fun d => { d with stepping := some h, resumeack := true })

/-- DEBUG_RESUME_REQUEST (11 R290): every context goes on; with the step bit of a context's dcsr set, that context steps. -/
def execDebugResumeRequest (core : Nat) (s : State) : Host.Outcome State Fault Refusal :=
  let d := (s.core core).dbg
  let mine := ((List.range 16).map (hartOf core)).filter (fun h => (s.hart h).run = .running)
  if !debugServes s core ∨ !d.halted ∨ d.prog.isSome ∨ d.stepping.isSome then .next s
  else match mine.find? (fun h => (s.hart h).csr.dcsr.getLsbD 2) with
    | some h => .next (beginStep h s)
    | none => .next ((mine.foldl (fun t h => t.modHart h Hart.leaveDebug) s).modDebug core (fun d => { d with halted := false, resumeack := true }))

/-- DEBUG_SINGLE_STEP (11 R292). -/
def execDebugSingleStep (hart : Nat) (s : State) : Host.Outcome State Fault Refusal :=
  let u := unitOf hart
  let d := (s.core u).dbg
  if !isVector hart ∨ !debugServes s u ∨ !d.halted ∨ d.prog.isSome ∨ d.stepping.isSome ∨ (s.hart hart).run ≠ .running then .next s
  else .next (beginStep hart s)

/-- DEBUG_ACCESS_REGISTER (11 R289, R291): a read leaves the value in data0. cmderr is 4 while the core is not halted, 2 for a register
that the module does not reach, and 3 for a write that the CSR does not take. -/
def execDebugAccessRegister (hart regno : Nat) (write : Bool) (value : Word) (s : State) : Host.Outcome State Fault Refusal :=
  let u := unitOf hart
  let d := (s.core u).dbg
  let fail (e : Nat) : Host.Outcome State Fault Refusal := .next (s.modDebug u (fun d => { d with cmderr := e }))
  let gave (v : Word) (t : State) : Host.Outcome State Fault Refusal := .next (t.modDebug u (fun d => { d with data0 := v }))
  if !isVector hart ∨ !debugServes s u ∨ d.cmderr ≠ 0 then .next s
  else if !d.halted ∨ d.prog.isSome ∨ d.stepping.isSome then fail 4
  else if 0x1000 ≤ regno ∧ regno < 0x1020 then
    (if write then gave value (s.modHart hart (fun g => g.setX (regno - 0x1000) value)) else gave ((s.hart hart).getX (regno - 0x1000)) s)
  else if 0x1000 ≤ regno ∨ !(csrExists hart regno || isDebugCsr regno) then fail 2
  else if write then (if csrReadOnly regno then fail 3 else gave value (csrWrite hart regno value s))
  else gave (csrRead s hart regno) (csrReadEffect hart regno s)

/-- DEBUG_PROGRAM_BUFFER (11 R291): the selected context runs the program buffer in debug mode. -/
def execDebugProgramBuffer (hart : Nat) (s : State) : Host.Outcome State Fault Refusal :=
  let u := unitOf hart
  let d := (s.core u).dbg
  if !isVector hart ∨ !debugServes s u ∨ d.cmderr ≠ 0 then .next s
  else if !d.halted ∨ d.prog.isSome ∨ d.stepping.isSome then .next (s.modDebug u (fun d => { d with cmderr := 4 }))
  else .next ((s.modHart hart (fun g => { g with priv := .machine, waiting := none })).modDebug u (fun d => { d with prog := some (hart, 0) }))

/- The registers of the debug module, at the numbers that the RISC-V debug specification gives them (11 R289). -/

/-- One act after another, where the first gives a next state. -/
def andThen (o : Host.Outcome State Fault Refusal) (f : State → Host.Outcome State Fault Refusal) : Host.Outcome State Fault Refusal :=
  match o with
  | .next t => f t
  | r => r

/-- What a register number of the debug module holds on a hart. -/
def debugValue (s : State) (h regno : Nat) : Word :=
  if 0x1000 ≤ regno ∧ regno < 0x1020 then (s.hart h).getX (regno - 0x1000) else csrRead s h regno

/-- A write of command: Access Register of 64 or 32 bits, and the program buffer after it; any other command sets cmderr to 2. -/
def debugCommand (core : Nat) (v : Word) (s : State) : Host.Outcome State Fault Refusal :=
  let d := (s.core core).dbg
  let h := hartOf core d.hartsel
  let size := wfld v 22 20
  if d.cmderr ≠ 0 then .next s
  else if wfld v 31 24 ≠ 0 ∨ v.getLsbD 19 ∨ (v.getLsbD 17 ∧ size ≠ 2 ∧ size ≠ 3) then .next (s.modDebug core (fun d => { d with cmderr := 2 }))
  else
    let value := if size = 2 then setWfld (debugValue s h (wfld v 15 0)) 31 0 (wfld d.data0 31 0) else d.data0
    let first : Host.Outcome State Fault Refusal :=
      if !v.getLsbD 17 then .next s
      else if v.getLsbD 16 then andThen (execDebugAccessRegister h (wfld v 15 0) true value s) (fun t => .next (t.modDebug core (fun e => { e with data0 := d.data0 })))
      else andThen (execDebugAccessRegister h (wfld v 15 0) false 0 s) (fun t => .next (t.modDebug core (fun e =>
        { e with data0 := if size = 2 then setWfld d.data0 31 0 (wfld e.data0 31 0) else e.data0 })))
    if v.getLsbD 18 then andThen first (execDebugProgramBuffer h) else first

/-- A write of debug module register n of a core. -/
def debugModuleWrite (core n : Nat) (v : Word) (s : State) : Host.Outcome State Fault Refusal :=
  match n with
  | 0x04 => .next (s.modDebug core (fun d => { d with data0 := setWfld d.data0 31 0 (wfld v 31 0) }))
  | 0x05 => .next (s.modDebug core (fun d => { d with data0 := setWfld d.data0 63 32 (wfld v 31 0) }))
  | 0x10 =>
    let s := s.modDebug core (fun d => { d with hartsel := wfld v 19 16 })
    if v.getLsbD 31 then execDebugHaltRequest core s
    else if v.getLsbD 30 then execDebugResumeRequest core (s.modDebug core (fun d => { d with resumeack := false }))
    else .next s
  | 0x16 => .next (s.modDebug core (fun d => { d with cmderr := d.cmderr &&& (7 - wfld v 10 8) }))
  | 0x17 => debugCommand core v s
  | _ => .next (if 0x20 ≤ n ∧ n < 0x30 then s.modDebug core (fun d => { d with progbuf := tblSet d.progbuf (n - 0x20) (v.setWidth 32) }) else s)

/-- Debug module register n of a core: dmstatus says version 1.0, impebreak and whether the core is halted, abstractcs a program buffer of 16 words
and two data words. -/
def debugModuleRead (d : Debug) (n : Nat) : Nat :=
  match n with
  | 0x04 => wfld d.data0 31 0
  | 0x05 => wfld d.data0 63 32
  | 0x10 => 1 + d.hartsel * 2 ^ 16
  | 0x11 => 0x400083 + (if d.halted then 0x300 else 0xC00) + natOf d.resumeack * 0x30000
  | 0x12 => 0x200000
  | 0x16 => 0x10000002 + d.cmderr * 2 ^ 8 + natOf d.prog.isSome * 2 ^ 12
  | 0x40 => if d.halted then 0xFFFF else 0
  | _ => if 0x20 ≤ n ∧ n < 0x30 then (tblGet 0 d.progbuf (n - 0x20)).toNat else 0

end Sys2Proof.Machine
end

