-- ==== Sys2Proof/Machine/Bar0.lean ====
section
/-! DEFINITION. The registers of BAR 0 (02 R37): the capability list, what each entry and each array holds, and what a write does. Where the manual
gives an entry no layout, notes/assumptions/113.md does. -/

namespace Sys2Proof.Machine

/- The capability list (02 R38, R39). -/

/-- An entry of the capability list: its offset in BAR 0, its header's fields, LENGTH in units of 8 bytes. -/
structure Capability where
  off : Nat
  id : Nat
  version : Nat
  length : Nat
  next : Nat
deriving DecidableEq, Repr

/-- The entries that a function may use (02 R39), each with its length. -/
def capabilityIds (s : State) (fn : Nat) : List (Nat × Nat) :=
  if fn = 64 then
    [(0x01, 6), (0x02, 3), (0x03, 0xC0), (0x04, 2), (0x05, 17), (0x10, 7), (0x11, 42), (0x12, 77), (0x13, 96), (0x20, 6)]
      ++ if s.boot.recovery then [(0x21, 1)] else []
  else [(0x01, 6), (0x03, 0xC0), (0x04, 2), (0x10, 7), (0x20, 6)]

/-- Entries placed one behind the other from an offset. -/
def placeCapabilities : Nat → List (Nat × Nat) → List Capability
  | _, [] => []
  | off, (id, n) :: rest =>
    { off := off, id := id, version := 1, length := n, next := if rest = [] then 0 else off + 8 * n }
      :: placeCapabilities (off + 8 * n) rest

/-- The capability list of a function, which starts at 0x1000. -/
def capabilities (s : State) (fn : Nat) : List Capability := placeCapabilities 0x1000 (capabilityIds s fn)

/-- The header of an entry. -/
def Capability.header (c : Capability) : Word :=
  BitVec.ofNat 64 (c.id + c.version * 2 ^ 16 + c.length * 2 ^ 24 + c.next * 2 ^ 32)

/- The map of BAR 0. -/

/-- What an offset of BAR 0 names: a place in an entry of the list, or in one of the arrays whose offset an entry gives. -/
inductive Bar0Place where
  | entry (id off : Nat)
  | table (off : Nat)
  | heads (off : Nat)
  | sieve (off : Nat)
  | log (off : Nat)
deriving DecidableEq, Repr

/-- The offsets of the arrays: the partition table, the heads, the Sieve and the integrity log. -/
def tableBase : Nat := 0x10000
def headsBase : Nat := 0x20000
def sieveBase : Nat := 0x30000
def logBase : Nat := 0x40000

/-- The bytes of BAR 0 of a function (02 R37). -/
def bar0Bytes (fn : Nat) : Nat := if fn = 64 then 2 ^ 24 else 2 ^ 20

/-- What an offset of a function's BAR 0 names. -/
def bar0Place (s : State) (fn addr : Nat) : Option Bar0Place :=
  if bar0Bytes fn ≤ addr then none
  else if fn = 64 ∧ tableBase ≤ addr ∧ addr < tableBase + 256 * 65 then some (.table (addr - tableBase))
  else if headsBase ≤ addr ∧ addr < headsBase + 64 * 256 then some (.heads (addr - headsBase))
  else if fn = 64 ∧ sieveBase ≤ addr ∧ addr < sieveBase + 32 * 1024 then some (.sieve (addr - sieveBase))
  else if fn = 64 ∧ logBase ≤ addr ∧ addr < logBase + 128 * 10 then some (.log (addr - logBase))
  else ((capabilities s fn).find? (fun c => c.off ≤ addr && addr < c.off + 8 * c.length)).map (fun c => .entry c.id (addr - c.off))

/- What a read returns. -/

/-- Two 32-bit fields as a word. -/
def word2 (lo hi : Nat) : Word := BitVec.ofNat 64 (lo % 2 ^ 32 + hi * 2 ^ 32)

/-- The word at a multiple of 8 in a little-endian number. -/
def wordAt (v off : Nat) : Word := BitVec.ofNat 64 (v / 2 ^ (8 * off))

/-- Device identity: part and stepping, the device number, the device hash (04 R99). -/
def identityWord (off : Nat) : Word :=
  if off = 8 then word2 (leNat ((featureProfile.drop 4).take 4)) Config.deviceNumber
  else if off < 0x10 then 0
  else wordAt (sm3 featureProfile).toNat (off - 0x10)

/-- The function control block (02 R47; 03 R65; 04 R104; 05 R107; 09 R238; 10 R258; 11 R267). -/
def funcWord (f : Func) (off : Nat) : Word :=
  match off with
  | 0x08 => word2 (natOf f.funcEn) f.drops
  | 0x10 => f.asReg
  | 0x18 => word2 f.wdt 0
  | 0x20 => f.pluginBase
  | 0x28 => word2 (f.pluginLen + natOf f.pluginActive * 2 ^ 30) 0
  | 0x30 => word2 f.pluginFaults 0
  | 0x38 => word2 (f.txslot.toNat + natOf f.txen * 2 ^ 9) 0
  | 0x80 => f.stkbase
  | 0x88 => f.stklen
  | 0x90 => f.compbase
  | 0x98 => f.savebase
  | 0xA0 => word2 f.saveslots f.prewait
  | 0xA8 => f.cutbase
  | 0xB0 => word2 f.preempts f.hardcuts
  | 0xB8 => f.invva.setWidth 64
  | 0xC0 => word2 (2 * natOf f.invAll + 4 * natOf f.invStage2 + 8 * natOf f.invBusy.isSome + 16 * natOf f.invRefused + 256 * f.invPsel) 0
  | 0xC8 => word2 (natOf f.strict) 0
  | 0xD0 => f.rtvec
  | 0xD8 => f.rtscr
  | _ => if 0x40 ≤ off ∧ off < 0x80 then (tblGet 0 f.txroot ((off - 0x40) / 8)).setWidth 64 else 0

/-- A queue's block (02 R47). -/
def queueWord (k : Queue) (off : Nat) : Word :=
  match off with
  | 0x00 => k.qbase
  | 0x08 => word2 (natOf k.en + 2 * natOf k.space + 4 * k.size + 64 * natOf k.wben + 128 * k.vec) (k.head + 2 ^ 16 * k.qstate + 2 ^ 18 * k.err)
  | 0x10 => k.qwb
  | _ => 0

/-- A head's block (02 R53). -/
def headWord (d : Head) (off : Nat) : Word :=
  match off with
  | 0x00 => d.surf
  | 0x08 => d.dims
  | 0x10 => d.mode
  | 0x18 => d.ring
  | 0x20 => word2 d.ringlog d.rp
  | 0x28 => word2 d.flip.toNat d.refused
  | 0x30 => word2 d.done.toNat d.wp
  | _ => 0

/-- A region's descriptor (02 R58). -/
def regionWord (r : Region) (off : Nat) : Word :=
  if off = 0 then r.base else word2 r.size (natOf r.freeze + 2 * natOf r.busy.isSome)

/-- A partition's entry of the table (02 R41). -/
def tableWord (e : PartEntry) (off : Nat) : Word :=
  if off = 0 then word2 (natOf e.valid + 2 * e.state) 0
  else if off < 0x48 then wordAt e.clusters.toNat (off - 0x08)
  else if off < 0x58 then wordAt e.gw.toNat (off - 0x48)
  else if off < 0x60 then e.es
  else if off < 0x80 then wordAt e.heads.toNat (off - 0x60)
  else if off = 0x80 then e.s2root
  else if off = 0x88 then word2 (e.cmdcores.toNat + 2 ^ 16 * e.shw.toNat) 0
  else 0

/-- A Sieve entry (03 R67). -/
def sieveWord (e : Sieve) (off : Nat) : Word :=
  match off with
  | 0x00 => e.w0
  | 0x08 => e.pcLo
  | 0x10 => e.pcHi
  | _ => word2 e.maxCount e.inflight

/-- A die's register of the power and thermal capability (01 R16). -/
def dieStatus (d : Die) : Nat := d.clock % 2048 + 2048 * natOf d.plim + 4096 * natOf d.tlim + 8192 * tjShown d.tj

/-- The power and thermal capability (01 R16). -/
def powerWord (s : State) (off : Nat) : Word :=
  if off = 8 then word2 s.pwrCap s.powerW
  else word2 (dieStatus (s.die ((off - 0x10) / 4))) (dieStatus (s.die ((off - 0x10) / 4 + 1)))

/-- The integrity counters of the dies (01 R28), and where their logs lie. -/
def integrityWord (s : State) (off : Nat) : Word :=
  let d := s.die ((off - 8) / 32)
  if off = 0x148 then word2 logBase 0
  else match (off - 8) % 32 with
    | 0x00 => BitVec.ofNat 64 d.corrected
    | 0x08 => BitVec.ofNat 64 d.replays
    | 0x10 => BitVec.ofNat 64 d.retrains
    | _ => BitVec.ofNat 64 d.holds.length

/-- The latest 16 records of a die's integrity log (01 R30): its unit, and its datum. -/
def logWord (d : Die) (off : Nat) : Word :=
  match ((d.log.drop (d.log.length - 16))[off / 8]?) with
  | some e => word2 e.1 e.2
  | none => 0

/-- The haul ports and the route table (01 R22, R24). -/
def haulWord (s : State) (off : Nat) : Word :=
  if off < 0x68 then
    let p := s.port ((off - 8) / 8)
    word2 (p.lanes + 256 * natOf p.changed) 0
  else match s.routes.find? (fun r => r.1 = (off - 0x68) / 8) with
    | some r => word2 (r.2 + 256) 0
    | none => 0

/-- The debug module window (11 R289). -/
def debugWord (s : State) (off : Nat) : Word :=
  let reg (n : Nat) : Nat := if s.dbgEn then debugModuleRead (s.core s.dbgCore).dbg n else 0
  if off = 8 then word2 (s.dbgCore + 2 ^ 16 * natOf s.dbgEn) 0
  else if off < 0x100 then 0
  else word2 (reg ((off - 0x100) / 4)) (reg ((off - 0x100) / 4 + 1))

/-- A word of an entry of the list past its header. -/
def entryWord (s : State) (fn id off : Nat) : Word :=
  match id with
  | 0x01 => identityWord off
  | 0x02 => if off = 8 then word2 tableBase 0 else word2 sieveBase 0
  | 0x03 => if off < 0x400 then funcWord (s.func fn) off else queueWord (s.queue fn ((off - 0x400) / 32)) (off % 32)
  | 0x04 => word2 headsBase 0
  | 0x05 => regionWord (s.region ((off - 8) / 16)) ((off - 8) % 16)
  | 0x10 => powerWord s off
  | 0x11 => integrityWord s off
  | 0x12 => haulWord s off
  | 0x13 => debugWord s off
  | 0x20 => if off < 0x28 then wordAt s.boot.digest.toNat (off - 8) else 0
  | _ => 0

/-- A read of the 8 bytes at a multiple of 8 of a function's BAR 0: an offset that names nothing, and a head's block that the function does not reach
(02 R53), read 0. -/
def bar0Read (s : State) (fn addr : Nat) : Word :=
  match bar0Place s fn addr with
  | some (.entry id 0) => (((capabilities s fn).find? (fun c => c.id = id)).map Capability.header).getD 0
  | some (.entry id off) => entryWord s fn id off
  | some (.table off) => tableWord (s.part (off / 256)).entry (off % 256)
  | some (.heads off) => if headReached s fn (off / 64) then headWord (s.head (off / 64)) (off % 64) else 0
  | some (.sieve off) => sieveWord (tblGet {} s.sieve (off / 32)) (off % 32)
  | some (.log off) => logWord (s.die (off / 128)) (off % 128)
  | none => 0

/-- The walk along the list for an entry of an ID and at least a version (02 R39), with a bound on its steps. -/
def findCapability (s : State) (fn wanted needed : Nat) : Nat → Nat → Option Nat
  | 0, _ => none
  | n + 1, off =>
    let h := bar0Read s fn off
    if off = 0 then none
    else if wfld h 15 0 = wanted ∧ needed ≤ wfld h 23 16 then some off
    else findCapability s fn wanted needed n (wfld h 47 32)

/- What a write does. -/

/-- A write of the low half or of both halves of a word of the function control block: FUNC_EN, PLUGIN_LOAD and GO act, the others keep what is
written. -/
def funcWrite (fn off : Nat) (low : Bool) (v : Word) (s : State) : Host.Outcome State Fault Refusal :=
  let t := funcRegister fn off v s
  if !low then .next t
  else match off with
    | 0x08 => execFuncEnWrite fn (v.setWidth 32) s
    | 0x28 => if v.getLsbD 31 then execPluginLoad fn t else .next t
    | 0xC0 =>
      if !v.getLsbD 0 ∨ (s.func fn).invBusy.isSome then .next t
      else if (t.func fn).invStage2 then execTlbInvalidateStage2 fn (t.func fn).invPsel t
      else if (t.func fn).invAll then execTlbInvalidateAll fn t
      else execTlbInvalidatePage fn t
    | _ => .next t

/-- A write of a region's descriptor: SIZE first, then FREEZE where its half is written. -/
def regionWrite (fn k off : Nat) (high : Bool) (v : Word) (s : State) : Host.Outcome State Fault Refusal :=
  let t := regionRegister k off v s
  if off = 8 ∧ high then execFreezeWrite fn k (v.getLsbD 32) t else .next t

/-- The PF driver's extension of a measurement register (01 R31, R33): it stages a digest, and the number of MR5, MR6 or MR7 extends that register. -/
def measureWrite (off : Nat) (v : Word) (s : State) : State :=
  let stage (b : BitVec 256) : State := { s with boot := { s.boot with digest := b } }
  if off < 0x28 then
    let k := 64 * ((off - 8) / 8)
    stage ((s.boot.digest &&& ~~~ ((BitVec.allOnes 64).setWidth 256 <<< k)) ||| (v.setWidth 256 <<< k))
  else
    let n := wfld v 3 0
    if 5 ≤ n ∧ n ≤ 7 then extendMr n s.boot.digest s else s

/-- A write of 4 bytes of the debug window (11 R289): its selection, or a register of the debug module of an enabled core. -/
def debugRegister (off : Nat) (v : Word) (s : State) : Host.Outcome State Fault Refusal :=
  if off = 0x08 then .next { s with dbgCore := wfld v 11 0, dbgEn := v.getLsbD 16 }
  else if off < 0x100 ∨ 0x300 ≤ off ∨ !s.dbgEn then .next s
  else debugModuleWrite s.dbgCore ((off - 0x100) / 4) v s

/-- A write in an entry of the list; read-only fields and reserved offsets ignore it. -/
def entryWrite (fn id off : Nat) (low high : Bool) (v : Word) (s : State) : Host.Outcome State Fault Refusal :=
  let pf := decide (fn = 64)
  match id with
  | 0x03 =>
    if off < 0x400 then funcWrite fn off low v s
    else
      let q := (off - 0x400) / 32
      if off % 32 = 8 then (if low then execQueueEnableWrite fn q (v.setWidth 32) s else .next s)
      else .next (queueRegister fn q (off % 32) v s)
  | 0x05 => regionWrite fn ((off - 8) / 16) ((off - 8) % 16) high v s
  | 0x10 => .next (if pf ∧ off = 0x08 ∧ low then { s with pwrCap := max 1200 (min 2700 (wfld v 11 0)) } else s)
  | 0x12 => if off < 0x68 ∨ !low then .next s else execRouteTableWrite fn ((off - 0x68) / 8) (wfld v 3 0) (v.getLsbD 8) s
  | 0x13 =>
    andThen (if low then debugRegister off (BitVec.ofNat 64 (wfld v 31 0)) s else .next s)
      (fun t => if high then debugRegister (off + 4) (BitVec.ofNat 64 (wfld v 63 32)) t else .next t)
  | 0x20 => .next (if pf ∧ 8 ≤ off then measureWrite off v s else s)
  | _ => .next s

/-- A write in a head's block (02 R53, R54): FLIP presents the surface. -/
def headWrite (fn off : Nat) (low : Bool) (v : Word) (s : State) : Host.Outcome State Fault Refusal :=
  let h := off / 64
  if !headReached s fn h then .next s
  else if off % 64 = 0x28 then (if low then execFlip fn h (v.setWidth 32) s else .next s)
  else .next (headRegister h (off % 64) v s)

/-- A write of both halves, or of one half, of a word of BAR 0 that stands at a multiple of 8. -/
def bar0Write (fn addr : Nat) (low high : Bool) (v : Word) (s : State) : Host.Outcome State Fault Refusal :=
  match bar0Place s fn addr with
  | some (.entry _ 0) => .next s
  | some (.entry id off) => entryWrite fn id off low high v s
  | some (.heads off) => headWrite fn off low v s
  | some (.sieve off) => .next (sieveRegister (off / 32) (off % 32) v s)
  | _ => .next s

/-- REGISTER_WRITE (02 R37–R39, R47, R48, R53, R58; 03 R65, R67; 04 R104; 05 R107; 09 R238; 10 R258; 11 R267, R289; 01 R16, R31): the host writes 8
bytes at a multiple of 8 of a function's BAR 0, or 4 bytes at a multiple of 4, which leave the other half of the word as it reads. -/
def execRegisterWrite (fn addr bytes : Nat) (value : Word) (s : State) : Host.Outcome State Fault Refusal :=
  let a := addr / 8 * 8
  let old := bar0Read s fn a
  if !exposed s fn then .next s
  else if bytes = 8 ∧ addr % 8 = 0 then bar0Write fn a true true value s
  else if bytes = 4 ∧ addr % 8 = 0 then bar0Write fn a true false (setWfld old 31 0 (wfld value 31 0)) s
  else if bytes = 4 ∧ addr % 8 = 4 then bar0Write fn a false true (setWfld old 63 32 (wfld value 31 0)) s
  else .next s

end Sys2Proof.Machine
end

