-- ==== Sys2Proof/Machine/Astc.lean ====
section
/-! DEFINITION. ASTC blocks of the 2D LDR profile (06 R137). The manual names the published ASTC specification and does not repeat it:
what stands here is that specification's decoding (notes/assumptions/7.md). -/

namespace Sys2Proof.Machine

/- Integer sequences. -/

/-- n bits of a number from bit lo up. -/
def bitsAt (v lo n : Nat) : Nat := v / 2 ^ lo % 2 ^ n

/-- The quantisation levels in ascending order: whether a value has bits alone (0), a trit (1) or a quint (2), and its bits. -/
def astcLevel (q : Nat) : Nat × Nat :=
  nth (0, 8) [(0, 1), (1, 0), (0, 2), (2, 0), (1, 1), (0, 3), (2, 1), (1, 2), (0, 4), (2, 2), (1, 3), (0, 5), (2, 3), (1, 4), (0, 6),
    (2, 4), (1, 5), (0, 7), (2, 5), (1, 6), (0, 8)] q

/-- The bits of a sequence of n values. -/
def iseBits (n q : Nat) : Nat :=
  let (kind, b) := astcLevel q
  n * b + (if kind = 1 then (8 * n + 4) / 5 else if kind = 2 then (7 * n + 2) / 3 else 0)

/-- The five trits of eight bits. -/
def astcTrits (t : Nat) : List Nat :=
  let (c, t3, t4) :=
    if bitsAt t 2 3 = 7 then (bitsAt t 5 3 * 4 + bitsAt t 0 2, 2, 2)
    else if bitsAt t 5 2 = 3 then (bitsAt t 0 5, bitsAt t 7 1, 2)
    else (bitsAt t 0 5, bitsAt t 5 2, bitsAt t 7 1)
  -- a two-bit field of which the low bit counts only where the high bit is 0
  let pair (hi lo : Nat) : Nat := 2 * hi + lo * (1 - hi)
  if bitsAt c 0 2 = 3 then [pair (bitsAt c 3 1) (bitsAt c 2 1), bitsAt c 4 1, 2, t3, t4]
  else if bitsAt c 2 2 = 3 then [bitsAt c 0 2, 2, 2, t3, t4]
  else [pair (bitsAt c 1 1) (bitsAt c 0 1), bitsAt c 2 2, bitsAt c 4 1, t3, t4]

/-- The three quints of seven bits. -/
def astcQuints (q : Nat) : List Nat :=
  if bitsAt q 1 2 = 3 ∧ bitsAt q 5 2 = 0 then
    let n := 1 - bitsAt q 0 1
    [4, 4, 4 * bitsAt q 0 1 + 2 * (bitsAt q 4 1 * n) + bitsAt q 3 1 * n]
  else
    let (c, q2) := if bitsAt q 1 2 = 3 then (bitsAt q 3 2 * 8 + (3 - bitsAt q 5 2) * 2 + bitsAt q 0 1, 4)
      else (bitsAt q 0 5, bitsAt q 5 2)
    if bitsAt c 0 3 = 5 then [bitsAt c 3 2, 4, q2] else [bitsAt c 0 3, bitsAt c 3 2, q2]

/-- The n values of a sequence at the low end of a number: the trit or quint, and the bits, of each. -/
def iseDecode (v n q : Nat) : List (Nat × Nat) :=
  let (kind, b) := astcLevel q
  let v := v % 2 ^ iseBits n q
  if kind = 0 then (List.range n).map (fun i => (0, bitsAt v (b * i) b))
  else if kind = 1 then
    ((List.range ((n + 4) / 5)).flatMap (fun j =>
      let w := v / 2 ^ (j * (5 * b + 8))
      let t := bitsAt w b 2 + bitsAt w (2 * b + 2) 2 * 4 + bitsAt w (3 * b + 4) 1 * 16 + bitsAt w (4 * b + 5) 2 * 32
        + bitsAt w (5 * b + 7) 1 * 128
      (astcTrits t).zip [bitsAt w 0 b, bitsAt w (b + 2) b, bitsAt w (2 * b + 4) b, bitsAt w (3 * b + 5) b, bitsAt w (4 * b + 7) b])).take n
  else
    ((List.range ((n + 2) / 3)).flatMap (fun j =>
      let w := v / 2 ^ (j * (3 * b + 7))
      let t := bitsAt w b 3 + bitsAt w (2 * b + 3) 2 * 8 + bitsAt w (3 * b + 5) 2 * 32
      (astcQuints t).zip [bitsAt w 0 b, bitsAt w (b + 3) b, bitsAt w (2 * b + 5) b])).take n

/-- b bits repeated from the top down to n bits. -/
def bitRepeat (m b n : Nat) : Nat := ((List.range n).foldl (fun x i => 2 * x + bitsAt m (b - 1 - i % b) 1) 0)

/-- Sum of powers of two. -/
def pows (l : List Nat) : Nat := l.foldl (fun n k => n + 2 ^ k) 0

/-- The spread of the bits above the lowest: for each of them, from bit 1 up, the powers of two it stands for. -/
def bitSpread (m : Nat) (l : List (List Nat)) : Nat :=
  ((List.range l.length).zip l).foldl (fun n e => n + bitsAt m (e.1 + 1) 1 * pows e.2) 0

/-- A quantised endpoint value on 0 to 255. -/
def astcColour (q : Nat) (e : Nat × Nat) : Nat :=
  let (kind, b) := astcLevel q
  let (d, m) := e
  if kind = 0 then bitRepeat m b 8
  else
    let (c, s) : Nat × List (List Nat) :=
      if kind = 1 then nth (0, []) [(0, []), (204, []), (93, [[8, 4, 2, 1]]), (44, [[7, 2, 0], [8, 3, 1]]), (22, [[6, 0], [7, 1], [8, 2]]),
        (11, [[5], [6], [7, 0], [8, 1]]), (5, [[4], [5], [6], [7], [8, 0]])] b
      else nth (0, []) [(0, []), (113, []), (54, [[8, 3, 2]]), (26, [[7, 1], [8, 2, 0]]), (13, [[6], [7, 0], [8, 1]]),
        (6, [[5], [6], [7], [8, 0]])] b
    let t := d * c + bitSpread m s
    if m % 2 = 1 then 128 + (511 - t) / 4 % 128 else t / 4

/-- A quantised weight on 0 to 64. -/
def astcWeight (q : Nat) (e : Nat × Nat) : Nat :=
  let (kind, b) := astcLevel q
  let (d, m) := e
  let w :=
    if kind = 0 then bitRepeat m b 6
    else if b = 0 then (if kind = 1 then nth 0 [0, 32, 63] d else nth 0 [0, 16, 32, 47, 63] d)
    else
      let (c, s) : Nat × List (List Nat) :=
        if kind = 1 then nth (0, []) [(0, []), (50, []), (23, [[6, 2, 0]]), (11, [[5, 0], [6, 1]])] b
        else nth (0, []) [(0, []), (28, []), (13, [[6, 1]])] b
      let t := d * c + bitSpread m s
      if m % 2 = 1 then 32 + (127 - t) / 4 % 32 else t / 4
  if 32 < w then w + 1 else w

/- Block modes. -/

/-- The weight grid of a block: its size, its quantisation level, and whether it holds two planes. -/
structure AstcGrid where
  w : Nat
  h : Nat
  level : Nat
  dual : Bool

/-- How many weights a grid holds. -/
def AstcGrid.count (g : AstcGrid) : Nat := g.w * g.h * (1 + natOf g.dual)

/-- The grid that the 11 bits of a block mode name; none for a reserved mode. -/
def astcMode (m : Nat) : Option AstcGrid :=
  let a := bitsAt m 5 2
  let b := bitsAt m 7 2
  let lo := bitsAt m 0 2
  let mid := bitsAt m 2 2
  let make (w h r hi : Nat) (dual : Bool) : Option AstcGrid :=
    some { w := w, h := h, level := 2 * r + bitsAt m 4 1 - 2 + 6 * hi, dual := dual }
  let full (w h r : Nat) : Option AstcGrid := make w h r (bitsAt m 9 1) (bitOf m 10)
  if lo ≠ 0 then
    match mid with
    | 0 => full (b + 4) (a + 2) lo
    | 1 => full (b + 8) (a + 2) lo
    | 2 => full (a + 2) (b + 8) lo
    | _ => if b < 2 then full (a + 2) (b + 6) lo else full (b - 2 + 2) (a + 2) lo
  else if mid = 0 then none
  else match b with
    | 0 => full 12 (a + 2) mid
    | 1 => full (a + 2) 12 mid
    | 2 => make (a + 6) (bitsAt m 9 2 + 6) mid 0 false
    | _ => if a = 0 then full 6 10 mid else if a = 1 then full 10 6 mid else none

/-- Whether a grid is legal in a block of a footprint. -/
def AstcGrid.fits (g : AstcGrid) (bw bh : Nat) : Bool :=
  g.w ≤ bw && g.h ≤ bh && g.count ≤ 64 && 24 ≤ iseBits g.count g.level && iseBits g.count g.level ≤ 96

/-- The bits of a number of n bits in reverse order. -/
def bitsReversed (v n : Nat) : Nat := (List.range n).foldl (fun x i => 2 * x + bitsAt v i 1) 0

/-- A weight of a grid interpolated at a texel. -/
def AstcGrid.at (g : AstcGrid) (plane : List Nat) (bw bh x y : Nat) : Nat :=
  let place (size n k : Nat) : Nat := ((1024 + size / 2) / (size - 1) * k * (n - 1) + 32) / 64
  let gs := place bw g.w x
  let gt := place bh g.h y
  let fs := gs % 16
  let ft := gt % 16
  let v := gs / 16 + gt / 16 * g.w
  let w11 := (fs * ft + 8) / 16
  (nth 0 plane v * (16 + w11 - fs - ft) + nth 0 plane (v + 1) * (fs - w11) + nth 0 plane (v + g.w) * (ft - w11)
    + nth 0 plane (v + g.w + 1) * w11 + 8) / 16

/- Partitions. -/

/-- The hash of a partition seed. -/
def astcHash (seed : Nat) : BitVec 32 :=
  let p := BitVec.ofNat 32 seed
  let p := p ^^^ (p >>> 15)
  let p := p - (p <<< 17)
  let p := p + (p <<< 7)
  let p := p + (p <<< 4)
  let p := p ^^^ (p >>> 5)
  let p := p + (p <<< 16)
  let p := p ^^^ (p >>> 7)
  let p := p ^^^ (p >>> 3)
  let p := p ^^^ (p <<< 6)
  p ^^^ (p >>> 17)

/-- The partition of a texel among n. -/
def astcPartition (index n : Nat) (small : Bool) (x y : Nat) : Nat :=
  let x := if small then 2 * x else x
  let y := if small then 2 * y else y
  let r := (astcHash (index + 1024 * (n - 1))).toNat
  let one := if bitOf index 1 then 4 else 5
  let two := if n = 3 then 6 else 5
  let (sh1, sh2) := if bitOf index 0 then (one, two) else (two, one)
  let sq (k sh : Nat) : Nat := bitsAt r (4 * k) 4 * bitsAt r (4 * k) 4 / 2 ^ sh
  let side (k shift : Nat) : Nat := (sq k sh1 * x + sq (k + 1) sh2 * y + r / 2 ^ shift) % 64
  let a := side 0 14
  let b := side 2 10
  let c := if n < 3 then 0 else side 4 6
  let d := if n < 4 then 0 else side 6 2
  if b ≤ a ∧ c ≤ a ∧ d ≤ a then 0 else if c ≤ b ∧ d ≤ b then 1 else if d ≤ c then 2 else 3

/- Endpoints. -/

/-- The transfer of a bit from an offset to its base: (offset, base). -/
def bitTransfer (a b : Nat) : Int × Int :=
  let o : Int := bitsAt a 1 6
  (if 32 ≤ o then o - 64 else o, (b / 2 + bitsAt a 7 1 * 128 : Nat))

/-- Blue contraction of a colour. -/
def blueContract (c : List Int) : List Int :=
  let b := nth 0 c 2
  [(nth 0 c 0 + b) / 2, (nth 0 c 1 + b) / 2, b, nth 0 c 3]

/-- The two endpoint colours of a mode from its values; none for an HDR mode. -/
def astcEndpoints (mode : Nat) (v : List Nat) : Option (List Nat × List Nat) :=
  let i (k : Nat) : Int := (nth 0 v k : Nat)
  let t (k : Nat) : Int × Int := bitTransfer (nth 0 v (k + 1)) (nth 0 v k)
  let off (k : Nat) : Int := (t k).1
  let base (k : Nat) : Int := (t k).2
  let done (a b : List Int) : Option (List Nat × List Nat) :=
    let c (l : List Int) : List Nat := l.map (fun x => (max 0 (min x 255)).toNat)
    some (c a, c b)
  let grey (l a : Int) : List Int := [l, l, l, a]
  let scaled (k : Nat) : Int := (i k * i 3) / 256
  let offsets (a b : List Int) : Option (List Nat × List Nat) :=
    if 0 ≤ off 0 + off 2 + off 4 then done a b else done (blueContract b) (blueContract a)
  let direct (a b : List Int) : Option (List Nat × List Nat) :=
    if i 0 + i 2 + i 4 ≤ i 1 + i 3 + i 5 then done a b else done (blueContract b) (blueContract a)
  match mode with
  | 0 => done (grey (i 0) 255) (grey (i 1) 255)
  | 1 =>
    let l : Int := (nth 0 v 0 / 4 + bitsAt (nth 0 v 1) 6 2 * 64 : Nat)
    done (grey l 255) (grey (l + bitsAt (nth 0 v 1) 0 6) 255)
  | 4 => done (grey (i 0) (i 2)) (grey (i 1) (i 3))
  | 5 => done (grey (base 0) (base 2)) (grey (base 0 + off 0) (base 2 + off 2))
  | 6 => done [scaled 0, scaled 1, scaled 2, 255] [i 0, i 1, i 2, 255]
  | 8 => direct [i 0, i 2, i 4, 255] [i 1, i 3, i 5, 255]
  | 9 => offsets [base 0, base 2, base 4, 255] [base 0 + off 0, base 2 + off 2, base 4 + off 4, 255]
  | 10 => done [scaled 0, scaled 1, scaled 2, i 4] [i 0, i 1, i 2, i 5]
  | 12 => direct [i 0, i 2, i 4, i 6] [i 1, i 3, i 5, i 7]
  | 13 => offsets [base 0, base 2, base 4, base 6] [base 0 + off 0, base 2 + off 2, base 4 + off 4, base 6 + off 6]
  | _ => none

/- Blocks. -/

/-- What a block gives at a texel: the error colour, or four codes of 16 bits. -/
abbrev AstcOut := Option (List Nat)

/-- A void-extent block: one colour; an error with a reserved bit clear, with HDR colours, or with an empty extent. -/
def astcVoid (v : Nat) : AstcOut :=
  let c (k : Nat) : Nat := bitsAt v (12 + 13 * k) 13
  let unbounded : Bool := (List.range 4).all (fun k => c k = 0x1FFF)
  if bitsAt v 10 2 ≠ 3 ∨ bitsAt v 9 1 = 1 ∨ (!unbounded ∧ (c 1 ≤ c 0 ∨ c 3 ≤ c 2)) then none
  else some ((List.range 4).map (fun k => bitsAt v (64 + 16 * k) 16))

/-- The endpoint modes of n partitions, the bit at which the endpoint values begin, and how many bits below the weights hold modes. -/
def astcModes (v n below : Nat) : List Nat × Nat × Nat :=
  if n = 1 then ([bitsAt v 13 4], 17, 0)
  else
    let extra := 3 * n - 4
    let e := bitsAt v 23 6 + bitsAt v (below - extra) extra * 64
    if e % 4 = 0 then (List.replicate n (bitsAt e 2 4), 29, 0)
    else ((List.range n).map (fun k => (bitsAt e (2 + k) 1 + e % 4 - 1) * 4 + bitsAt e (2 + n + 2 * k) 2), 29, extra)

/-- A channel between two endpoints. -/
def astcBlend (srgb : Bool) (a b w : Nat) : Nat :=
  let wide (c : Nat) : Nat := c * 256 + (if srgb then 128 else c)
  (wide a * (64 - w) + wide b * w + 32) / 64

/-- The texel at a column and row of a block of a footprint. -/
def astcTexel (v bw bh : Nat) (srgb : Bool) (x y : Nat) : AstcOut :=
  if bitsAt v 0 9 = 0x1FC then astcVoid v
  else match astcMode (bitsAt v 0 11) with
    | none => none
    | some g =>
      let n := bitsAt v 11 2 + 1
      if !g.fits bw bh ∨ (g.dual ∧ n = 4) then none
      else
        let below := 128 - iseBits g.count g.level
        let (modes, start, extra) := astcModes v n below
        let counts := modes.map (fun m => 2 * (m / 4) + 2)
        let total := counts.foldl (· + ·) 0
        let room := below - extra - 2 * natOf g.dual - start
        -- levels 4 (0 to 5) and up
        match ((List.range 17).map (20 - ·)).find? (fun q => iseBits total q ≤ room) with
        | none => none
        | some q =>
          if 18 < total then none
          else
            let values := (iseDecode (v / 2 ^ start) total q).map (astcColour q)
            let part := if n = 1 then 0 else astcPartition (bitsAt v 13 10) n (bw * bh < 31) x y
            let first := (counts.take part).foldl (· + ·) 0
            match astcEndpoints (nth 0 modes part) ((values.drop first).take (nth 0 counts part)) with
            | none => none
            | some (a, b) =>
              let weights := (iseDecode (bitsReversed v 128) g.count g.level).map (astcWeight g.level)
              let plane (k : Nat) : List Nat :=
                if g.dual then (List.range (g.w * g.h)).map (fun i => nth 0 weights (2 * i + k)) else weights
              let w0 := g.at (plane 0) bw bh x y
              let w1 := if g.dual then g.at (plane 1) bw bh x y else w0
              let second := bitsAt v (below - extra - 2) 2
              some ((List.range 4).map (fun k =>
                astcBlend (srgb && k < 3) (nth 0 a k) (nth 0 b k) (if g.dual ∧ k = second then w1 else w0)))

/-- A code of 16 bits as the FP16 value it decodes to: 65,535 is 1, and any other code is divided by 65,536 and rounded towards zero;
the answer is in units of 2^−16. -/
def astcHalf (c : Nat) : Nat := if c = 65535 then 65536 else c / 2 ^ (bitLen c - 11) * 2 ^ (bitLen c - 11)

end Sys2Proof.Machine
end

