-- ==== Sys2Proof/Machine/Texture.lean ====
section
/-! DEFINITION. The texture unit: descriptors, texels, sampling and level selection (06 R136–R140), VTEX and VTEXLOD (17 R435,
R436). -/

namespace Sys2Proof.Machine

/- Descriptors (06 R136, R137). -/

/-- A texture descriptor that keeps every limit. -/
structure TexDesc where
  base : Nat
  width : Nat
  height : Nat
  levels : Nat
  fmt : Nat
  addrU : Nat
  addrV : Nat
  filter : Nat
  aniso : Nat
  pitch : Nat
deriving DecidableEq, Repr

/-- Whether a format is an ASTC format. -/
def isAstc (fmt : Nat) : Bool := (16 ≤ fmt && fmt ≤ 29) || (48 ≤ fmt && fmt ≤ 61)

/-- The footprint of an ASTC format. -/
def astcFootprint (fmt : Nat) : Nat × Nat :=
  nth (4, 4) [(4, 4), (5, 4), (5, 5), (6, 5), (6, 6), (8, 5), (8, 6), (8, 8), (10, 5), (10, 6), (10, 8), (10, 10), (12, 10), (12, 12)]
    ((fmt - 16) % 32)

/-- The texels of a unit of a format: one, or a block; and its bytes. -/
def texUnit (fmt : Nat) : Nat × Nat × Nat :=
  if isAstc fmt then ((astcFootprint fmt).1, (astcFootprint fmt).2, 16) else (1, 1, if fmt = 2 then 8 else 4)

/-- A descriptor from its 32 bytes; none where it breaks a limit. -/
def texDesc (v : Nat) : Option TexDesc :=
  let w := byteFld v 8 8
  let fmt := fld w 37 32
  let d : TexDesc := { base := byteFld v 0 8, width := fld w 13 0 + 1, height := fld w 27 14 + 1, levels := fld w 31 28 + 1, fmt := fmt
                       addrU := fld w 39 38, addrV := fld w 41 40, filter := fld w 43 42, aniso := fld w 48 44, pitch := byteFld v 16 4 }
  if d.base % 256 = 0 ∧ d.levels ≤ 15 ∧ (fmt ≤ 4 ∨ isAstc fmt) ∧ d.addrU ≤ 2 ∧ d.addrV ≤ 2 ∧ 1 ≤ d.aniso ∧ d.aniso ≤ 16
      ∧ fld w 63 49 = 0 ∧ d.pitch % 256 = 0 ∧ byteFld v 20 12 = 0 then some d else none

/-- The width and height of a level. -/
def TexDesc.size (d : TexDesc) (l : Nat) : Nat × Nat := (max 1 (d.width >>> l), max 1 (d.height >>> l))

/-- n rounded up to a multiple of 256. -/
def up256 (n : Nat) : Nat := (n + 255) / 256 * 256

/-- The pitch of a level and its rows of texels or blocks. -/
def TexDesc.rows (d : TexDesc) (l : Nat) : Nat × Nat :=
  let (w, h) := d.size l
  let (bw, bh, n) := texUnit d.fmt
  (if l = 0 then d.pitch else up256 ((w + bw - 1) / bw * n), (h + bh - 1) / bh)

/-- The address of a level. -/
def TexDesc.level (d : TexDesc) : Nat → Nat
  | 0 => d.base
  | l + 1 => d.level l + up256 ((d.rows l).1 * (d.rows l).2)

/- Texels (06 R137). -/

/-- A channel of a texel as an exact value: rational, (n / d)^(12/5) for a decoded sRGB code, or not finite. -/
inductive TexVal where
  | nan
  | inf (neg : Bool)
  | rat (q : Q)
  | root (n d : Nat)
deriving DecidableEq, Repr

/-- A floating channel. -/
def texFloat (c v : Nat) : TexVal :=
  match decodeF c v with
  | .nan _ => .nan
  | .inf n => .inf n
  | .fin n m e => .rat (Q.ofFin n m e)

/-- An unorm channel of a greatest code. -/
def texUnorm (v top : Nat) : TexVal := .rat { n := v, d := top }

/-- A decoded sRGB code of 8 bits by the transfer function of IEC 61966-2-1: c / 12.92 up to 0.04045, and ((c + 0.055) / 1.055)^2.4
above. -/
def texSrgb (v : Nat) : TexVal :=
  if v ≤ 10 then .rat { n := 100 * v, d := 255 * 1292 }
  else if v = 255 then .rat { n := 1, d := 1 }
  else .root (1000 * v + 55 * 255) (1055 * 255)

/-- The four channels of a texel from the bytes of its unit; x and y give its place in an ASTC block. -/
def texelOf (fmt v x y : Nat) : List TexVal :=
  match fmt with
  | 0 => (List.range 4).map (fun k => texUnorm (byteFld v k 1) 255)
  | 1 => (List.range 3).map (fun k => texSrgb (byteFld v k 1)) ++ [texUnorm (byteFld v 3 1) 255]
  | 2 => (List.range 4).map (fun k => texFloat 4 (byteFld v (2 * k) 2))
  | 3 => (List.range 3).map (fun k => texUnorm (fld v (10 * k + 9) (10 * k)) 1023) ++ [texUnorm (fld v 31 30) 3]
  | 4 => [texFloat 6 (v % 2 ^ 32), .rat (Q.ofInt 0), .rat (Q.ofInt 0), .rat (Q.ofInt 1)]
  | _ =>
    let (bw, bh) := astcFootprint fmt
    let srgb : Bool := 32 ≤ fmt
    match astcTexel v bw bh srgb x y with
    | none => [1, 0, 1, 1].map (fun (n : Int) => .rat (Q.ofInt n))
    | some c =>
      if srgb then (List.range 3).map (fun k => texSrgb (nth 0 c k / 256)) ++ [texUnorm (nth 0 c 3 / 256) 255]
      else c.map (fun n => texUnorm (astcHalf n) 65536)

/-- Read the texel at a column and row of a level. -/
def readTexel (d : TexDesc) (l x y : Nat) : GM (List TexVal) := do
  let (bw, bh, n) := texUnit d.fmt
  let v ← gNum ((d.level l + y / bh * (d.rows l).1 + x / bw * n) % 2 ^ 64) n
  pure (texelOf d.fmt v (x % bw) (y % bh))

/-- A coordinate mapped onto n texels by an address mode. -/
def addrMode (mode : Nat) (i : Int) (n : Nat) : Nat :=
  match mode with
  | 0 => (i % (n : Int)).toNat
  | 1 => (max 0 (min i ((n : Int) - 1))).toNat
  | _ =>
    let m := (i % (2 * n : Int)).toNat
    if m < n then m else 2 * n - 1 - m

/- Sampling (06 R138, R139). -/

/-- A weighted texel. -/
abbrev TexTerm := Nat × List TexVal

/-- The position of a coordinate on a level: the texel and the weight of the next one in 1/256. -/
def texPosition (u : Q) (n : Nat) : Int × Nat :=
  let x := (u.mul (Q.ofInt n)).sub { n := 1, d := 2 }
  let i := x.floor
  let f := ((x.sub (Q.ofInt i)).mul (Q.ofInt 256)).round
  if f = 256 then (i + 1, 0) else (i, f.toNat)

/-- The terms of a bilinear sample of a level; a texel of weight 0 is not read. -/
def bilinear (d : TexDesc) (l : Nat) (u v : Q) (scale : Nat) : GM (List TexTerm) := do
  let (w, h) := d.size l
  let (i, fx) := texPosition u w
  let (j, fy) := texPosition v h
  let term (dx dy : Int) (weight : Nat) : GM (List TexTerm) :=
    if weight = 0 then pure []
    else do
      let t ← readTexel d l (addrMode d.addrU (i + dx) w) (addrMode d.addrV (j + dy) h)
      pure [(weight * scale, t)]
  let a ← term 0 0 ((256 - fx) * (256 - fy))
  let b ← term 1 0 (fx * (256 - fy))
  let c ← term 0 1 ((256 - fx) * fy)
  let e ← term 1 1 (fx * fy)
  pure (a ++ b ++ c ++ e)

/-- The terms of a trilinear sample at λ in 1/256. -/
def trilinear (d : TexDesc) (lam : Nat) (u v : Q) : GM (List TexTerm) := do
  let g := lam % 256
  let a ← bilinear d (lam / 256) u v (256 - g)
  let b ← if g = 0 then pure [] else bilinear d (lam / 256 + 1) u v g
  pure (a ++ b)

/-- The weighted sum of a channel divided by the total weight, rounded once into f32 (06 R138). -/
def texSum (terms : List TexTerm) (total k : Nat) : Nat :=
  let vs := (terms.filter (fun t => t.1 ≠ 0)).map (fun t => (t.1, nth .nan t.2 k))
  let isInf (n : Bool) : Bool := vs.any (fun e => e.2 = .inf n)
  if vs.any (fun e => e.2 = .nan) ∨ (isInf true ∧ isInf false) then canonNaN 6
  else if isInf true then (infRes 6 true).bits
  else if isInf false then (infRes 6 false).bits
  else
    let rat := vs.foldl (fun (q : Q) e => match e.2 with
      | .rat x => q.add { n := e.1 * x.n, d := x.d }
      | _ => q) (Q.ofInt 0)
    let roots := vs.filterMap (fun e => match e.2 with
      | .root n d => some (e.1, n, d)
      | _ => none)
    if roots = [] then (roundQ 6 0 { n := rat.n, d := rat.d * total }).bits
    else
      -- positive irrational terms: an enclosure of the sum, at growing precision
      (tryWidths 6 0 false false (total + k) (fun w =>
        let base := rat.n.toNat * 2 ^ (w + 64) / rat.d
        let s := roots.foldl (fun (p : Nat × Nat) e =>
          let r := pow24 (w + 64) e.2.1 e.2.2
          (p.1 + e.1 * r, p.2 + e.1 * (r + 1))) (base, base + 1)
        ({ lo := s.1 / total, hi := s.2 / total + 1 }, -((w : Int) + 64))) widths).bits

/-- The four channels of a sum of terms. -/
def texColour (terms : List TexTerm) (total : Nat) : List Nat := (List.range 4).map (texSum terms total)

/-- ⌊log2 (n / d)^256⌋ for positive n and d. -/
def log256 (n d : Nat) : Int :=
  let a := n ^ 256
  let b := d ^ 256
  let k : Int := (bitLen a : Int) - (bitLen b : Int)
  if a * 2 ^ (-k).toNat < b * 2 ^ k.toNat then k - 1 else k

/-- ROUND(256 log2 ρ) for ρ² = q: half of 256 log2 q, whose odd values do not arise. -/
def lodOf (q : Q) : Int := (log256 q.n.toNat q.d + 1) / 2

/-- λ in 1/256, clamped to the levels. -/
def TexDesc.clampLod (d : TexDesc) (lam : Int) : Nat := (max 0 (min lam (256 * ((d.levels : Int) - 1)))).toNat

/-- A sample at λ with the filter of the descriptor, anisotropic as trilinear. -/
def sampleAt (d : TexDesc) (lam : Int) (u v : Q) : GM (List Nat) := do
  let c := d.clampLod lam
  if d.filter < 2 then
    let l := (Q.round { n := c, d := 256 }).toNat
    if d.filter = 0 then do
      let (w, h) := d.size l
      let t ← readTexel d l (addrMode d.addrU (u.mul (Q.ofInt w)).floor w) (addrMode d.addrV (v.mul (Q.ofInt h)).floor h)
      pure (texColour [(1, t)] 1)
    else do
      let ts ← bilinear d l u v 1
      pure (texColour ts 65536)
  else do
    let ts ← trilinear d c u v
    pure (texColour ts (65536 * 256))

/-- A derivative vector: the differences of u and v. -/
structure Deriv where
  du : Q
  dv : Q

/-- The square of its length in texels of level 0. -/
def Deriv.square (x : Deriv) (d : TexDesc) : Q :=
  let a := x.du.mul (Q.ofInt d.width)
  let b := x.dv.mul (Q.ofInt d.height)
  (a.mul a).add (b.mul b)

/-- The taps of an anisotropic sample: the least N with N ρmin ≥ ρmax, at most MAXANISO. -/
def anisoTaps (d : TexDesc) (big small : Q) : Nat :=
  ((List.range d.aniso).find? (fun (k : Nat) => big.le (small.mul (Q.ofInt (((k + 1) * (k + 1) : Nat) : Int))))).map (· + 1) |>.getD d.aniso

/-- A sample of VTEX with its two derivatives. -/
def sampleDeriv (d : TexDesc) (x y : Deriv) (u v : Q) : GM (List Nat) := do
  let qx := x.square d
  let qy := y.square d
  let (big, small, major) := if qy.le qx then (qx, qy, x) else (qy, qx, y)
  if d.filter = 3 then do
    let n := anisoTaps d big small
    let lam : Int := if big.n = 0 then 0 else lodOf { n := big.n, d := big.d * n * n }
    let c := d.clampLod lam
    let ts ← (List.range n).foldlM (fun acc (k : Nat) => do
      let t : Q := { n := ((2 * k + 1 : Nat) : Int) - n, d := 2 * n }
      let s ← trilinear d c (u.add (t.mul major.du)) (v.add (t.mul major.dv))
      pure (acc ++ s)) []
    pure (texColour ts (65536 * 256 * n))
  else sampleAt d (if big.n = 0 then 0 else lodOf big) u v

/- VTEX and VTEXLOD. -/

/-- The finite value of an f32 element. -/
def f32At (reg i : Nat) : Option Q := Q.ofBits 6 (elemAt reg 4 i)

/-- The slots of the quad of an element (17 R436): left and right in its own pixel row, and top and bottom in its own column. -/
def quadSlots (i : Nat) : Nat × Nat × Nat × Nat :=
  let row := i / 32 * 32
  let c := i % 32
  let x := c % 8 / 2 * 2
  let y := c / 8 / 2 * 2
  (row + c / 8 * 8 + x, row + c / 8 * 8 + x + 1, row + y * 8 + c % 8, row + (y + 1) * 8 + c % 8)

/-- The derivatives of an element; none where they read a value that is not finite. -/
def derivsOf (ru rv i : Nat) : Option (Deriv × Deriv) :=
  let (l, r, t, b) := quadSlots i
  match f32At ru l, f32At rv l, f32At ru r, f32At rv r with
  | some ul, some vl, some ur, some vr =>
    match f32At ru t, f32At rv t, f32At ru b, f32At rv b with
    | some ut, some vt, some ub, some vb =>
      some ({ du := ur.sub ul, dv := vr.sub vl }, { du := ub.sub ut, dv := vb.sub vt })
    | _, _, _, _ => none
  | _, _, _, _ => none

/-- What an element samples: its coordinates with λ in 1/256 or its derivatives; none for an element that is invalid. -/
def texInput (lod : Bool) (ru rv rl i : Nat) : Option (Q × Q × (Int ⊕ (Deriv × Deriv))) :=
  match f32At ru i, f32At rv i with
  | some u, some v =>
    if lod then (f32At rl i).map (fun l => (u, v, .inl (l.mul (Q.ofInt 256)).round))
    else (derivsOf ru rv i).map (fun e => (u, v, .inr e))
  | _, _ => none

/-- One element: its four channels. -/
def texElem (d : TexDesc) (x : Q × Q × (Int ⊕ (Deriv × Deriv))) : GM (List Nat) :=
  match x.2.2 with
  | .inl lam => sampleAt d lam x.1 x.2.1
  | .inr e => sampleDeriv d e.1 e.2 x.1 x.2.1

/-- Run a computation for each element of a list. -/
def eachElem {α : Type} (f : Nat → GM α) : List Nat → StateM Reads (List (Nat × Except Ended α))
  | [] => pure []
  | i :: rest => do
    let a ← (f i).run
    let l ← eachElem f rest
    pure ((i, a) :: l)

/-- The faults of a list of element results. -/
def endedFaults {α : Type} (l : List (Nat × Except Ended α)) : List (List Nat × Nat × Nat) :=
  l.filterMap (fun e => match e.2 with
    | .error (.fault c a) => some ([e.1], c, a)
    | _ => none)

/-- A wait among a list of element results. -/
def endedWait {α : Type} (l : List (Nat × Except Ended α)) : Option Wait :=
  l.findSome? (fun e => match e.2 with
    | .error (.wait w) => some w
    | _ => none)

/- Groups of four results (17 R435). -/

/-- Room for the four entries of the queue that d names. -/
def groupRoomM (d : Nat) : M Unit := fun s =>
  let g := s.hart s.cur
  if d < 16 ∨ (g.resuming ∧ (g.vec.getQ (d - 16)).any (fun e => !e.complete)) then .ok ((), s)
  else if (g.vec.getQ (d - 16)).length + 4 ≤ queueDepth (d - 16) then .ok ((), s)
  else .error (.wait (.queueRoom (d - 16) 4))

/-- The earlier contents of result k: the register, an incomplete entry, or zeros. -/
def oldResult (g : Hart) (d k : Nat) : Nat :=
  if d < 16 then (g.vec.getV (d + k)).toNat
  else if g.resuming then (nth { data := 0, complete := false } ((g.vec.getQ (d - 16)).filter (fun e => !e.complete)) k).data.toNat
  else 0

/-- Write the four results. -/
def putResults (h d : Nat) (vals : List Nat) (w : Written) (complete : Bool) (s : State) : State :=
  if d < 16 then (List.range 4).foldl (fun t k => setVReg h (d + k) (BitVec.ofNat 8192 (nth 0 vals k)) w t) s
  else s.modHart h (fun g =>
    let q := g.vec.getQ (d - 16)
    let es : List QEntry := vals.map (fun v => { data := BitVec.ofNat 8192 v, complete := complete, visible := w.last + 1 })
    { g with vec := g.vec.setQ (d - 16) ((if g.resuming then q.filter (fun e => e.complete) else q) ++ es) })

/-- Merge the results of elements into result k. -/
def mergeResults (old k : Nat) (l : List (Nat × List Nat)) : Nat :=
  l.foldl (fun v e => setElem v 4 e.1 (nth 0 e.2 k)) old

/-- Issue a rendering instruction: its checks, waits and elements (17 R435). -/
def renderIssue (i : Instr) (f : LongFields) : M (XArgs × List Nat) := do
  requireM (← askS (fun s => isVector s.cur && i.wellFormed && ((s.hart s.cur).resuming || rowsFit (s.hart s.cur).vec.vlr 4))) i
  let x ← operandsM i
  memTurnM i f x
  heldSourceM i
  waitRehoming 0
  groupRoomM f.d.toNat
  let g ← me
  pure (x, if g.resuming then (List.range 1024).filter (fun k => g.vec.vflt.getLsbD k)
    else g.vec.actives f.pg.toNat g.vec.vlr g.vec.vlc)

/-- The end of a rendering instruction: the results of the elements that did not fault are written. -/
def renderEnd (i : Instr) (f : LongFields) (l : List (Nat × List Nat)) (faults : List (List Nat × Nat × Nat)) (cycles : Nat) : M Unit := do
  let g ← me
  let vals := (List.range 4).map (fun k => mergeResults (oldResult g f.d.toNat k) k l)
  modS (fun s => putResults s.cur f.d.toNat vals { whole := l.length = 256, first := s.now + cycles, last := s.now + cycles } (faults = []) s)
  endMem i faults

/-- The cycles until the reads of a list of sectors of the executing context return (00 R4). -/
def readCycles (sectors : List Nat) : M Nat := askS (fun s =>
  sectors.foldl (fun n sec =>
    let a := sec * 128
    max n (loadCycles s (unitOf s.cur) (partOfHart s s.cur) { pa := if isHostNum a then a - hostBase else a, host := isHostNum a })) 0)

/-- The cycles of the texture unit for an element: by the filter, and by the taps of an anisotropic sample (17 R436). -/
def texCost (d : TexDesc) : Q × Q × (Int ⊕ (Deriv × Deriv)) → Nat
  | (_, _, .inl _) => nth 8 [1, 4, 8] d.filter
  | (_, _, .inr (x, y)) =>
    let qx := x.square d
    let qy := y.square d
    if d.filter = 3 then 8 * (if qy.le qx then anisoTaps d qx qy else anisoTaps d qy qx) else nth 8 [1, 4, 8] d.filter

/-- The cycles of the texture unit for a strip: row by row, each as its costliest element. -/
def texCycles (d : TexDesc) (inputs : List (Nat × (Q × Q × (Int ⊕ (Deriv × Deriv))))) : Nat :=
  ((inputs.map (fun e => e.1 / 32)).eraseDups).foldl (fun n r =>
    n + ((inputs.filter (fun e => e.1 / 32 = r)).map (fun e => texCost d e.2)).foldl max 0) 0

/-- A request takes its turn at the texture unit of the core's cluster, which adds 40 cycles to the latency of the texels (17 R436): the cycles until
its results. -/
def texTurnM (cycles latency : Nat) : M Nat := fun s =>
  let c := unitOf s.cur / 8
  let start := max s.now (s.cluster c).texUntil
  .ok (start + cycles + 40 + latency - s.now, s.modCluster c (fun k => { k with texUntil := start + cycles }))

/-- The descriptor at a VA: none where it breaks a limit, the fault of its read otherwise. -/
def readDesc (va : Nat) : GM (Option TexDesc) := do
  if va % 32 ≠ 0 then pure none
  else do
    let v ← gNum va 32
    pure (texDesc v)

/-- What the elements of VTEX or VTEXLOD give: the slots that are invalid, the samples or faults of the others, the cycles of the texture unit and the
sectors read. -/
def texElems (lod : Bool) (va ru rv rl : Nat) (slots : List Nat) :
    StateM Reads (List Nat × List (Nat × Except Ended (List Nat)) × Nat × List Nat) := do
  match (← (readDesc va).run) with
  | .error e => pure ([], slots.map (fun i => (i, .error e)), 0, [])
  | .ok none => pure (slots, [], 0, [])
  | .ok (some d) => do
    let l ← eachElem (fun i => match texInput lod ru rv rl i with
      | some x => texElem d x
      | none => pure []) (slots.filter (fun i => (texInput lod ru rv rl i).isSome))
    let inputs := slots.filterMap (fun i => (texInput lod ru rv rl i).map (fun x => (i, x)))
    fun r => ((slots.filter (fun i => (texInput lod ru rv rl i).isNone), l, texCycles d inputs, r.sectors), r)

/-- VTEX and VTEXLOD (17 R436): an element that is invalid gives zeros and NV. -/
def vtexM (i : Instr) (lod : Bool) (f : LongFields) : M Unit := do
  let (x, slots) ← renderIssue i f
  let v ← askS (fun s => (s.hart s.cur).vec)
  let ru := (v.getV f.b.toNat).toNat
  let rv := (v.getV (f.b.toNat + 1)).toNat
  let rl := if lod then sourceValue v f.c.toNat f.c.toNat 0 else 0
  if slots = [] then renderEnd i f [] [] 0
  else do
    let (bad, l, cycles, sectors) ← readsM (texElems lod x.a.toNat ru rv rl slots)
    let latency ← readCycles sectors
    let n ← texTurnM cycles latency
    raiseM (bad.map (fun k => (k, flagNV)))
    let good := l.filterMap (fun e => match e.2 with
      | .ok c => some (e.1, c)
      | .error _ => none)
    renderEnd i f (bad.map (fun k => (k, [0, 0, 0, 0])) ++ good) (endedFaults l) n

/-- VTEX (17 R436). -/
def execVtex (f : LongFields) (s : State) : Host.Outcome State Fault Refusal := runM (vtexM (.vtex f) false f) s

/-- VTEXLOD (17 R436). -/
def execVtexlod (f : LongFields) (s : State) : Host.Outcome State Fault Refusal := runM (vtexM (.vtexlod f) true f) s

end Sys2Proof.Machine
end

