-- ==== Sys2Proof/Machine/Gallery.lean ====
section
/-! DEFINITION. The Gallery: hierarchies (06 R141–R144, R147), ray traversal (R148–R151), RQ and RQANY (17 R437), pair traversal
(06 R154–R157) and XPAIR (17 R438, R439). -/

namespace Sys2Proof.Machine

/- Hierarchies. -/

/-- A root header (06 R141). -/
structure RootHeader where
  root : Nat
  epoch : Nat
  holds : Nat
  box : List Nat
  pos : Nat
  frozen : Bool

/-- Six FP32 patterns at a byte offset. -/
def sixAt (v off : Nat) : List Nat := (List.range 6).map (fun k => byteFld v (off + 4 * k) 4)

/-- The root header at a VA, with its global address. -/
def readRoot (va : Nat) : GM RootHeader := do
  if va % 64 ≠ 0 then endG .malformed
  else do
    let p ← gReach .load va 64
    let v ← gNum va 64
    let s ← gState
    let frozen := match regionOf s p with
      | some k => !isHostNum p && (s.region k).freeze
      | none => false
    pure { root := byteFld v 0 8, epoch := byteFld v 8 4, holds := byteFld v 12 2, box := sixAt v 0x10, pos := p, frozen := frozen }

/-- The header of a query, once its EPOCH is even (06 R150); no check is made in a frozen region (R147). -/
def readRootEven (va : Nat) : GM RootHeader := do
  let h ← readRoot va
  if !h.frozen ∧ h.epoch % 2 = 1 then endG (.wait (.epoch h.pos)) else pure h

/-- A child slot (06 R142): a node or a primitive, its address, its depth below ROOT, MULTI, and the six bounds of its box. -/
structure SlotRef where
  node : Bool
  addr : Nat
  depth : Nat
  multi : Bool
  box : List Nat

/-- The slot that stands for the top of a hierarchy. -/
def RootHeader.top (h : RootHeader) : SlotRef := { node := true, addr := h.root, depth := 0, multi := false, box := h.box }

/-- The target of a REF, sign-extended from bit 47 as every Sv48 address is. -/
def refAddr (r : Nat) : Nat := (sextW 48 (r / 64 % 2 ^ 42 * 64)).toNat

/-- The child slots of a node, in order; a node that R144 names is malformed. -/
def nodeChildren (v depth : Nat) : Option (List SlotRef) :=
  let n := byteFld v 4 1
  (if n ≤ 4 then some () else none).bind (fun _ =>
    (List.range 4).foldl (fun acc k => acc.bind (fun l =>
      let r := byteFld v (0x40 + 32 * k + 24) 8
      let kind := r % 4
      if fld r 5 3 ≠ 0 ∨ fld r 63 48 ≠ 0 ∨ kind = 3 ∨ (kind = 0 ∧ k < n) ∨ (kind ≠ 0 ∧ n ≤ k) then none
      else if kind = 0 then some l
      else some (l ++ [{ node := kind = 1, addr := refAddr r, depth := depth + 1, multi := bitOf r 2, box := sixAt v (0x40 + 32 * k) }])))
      (some []))

/-- Read the node at a VA, depth levels below ROOT (06 R142, R144, R147): it waits while the node is locked. -/
def readNode (va depth : Nat) : GM (List SlotRef) := do
  if va % 64 ≠ 0 ∨ 32 < depth then endG .malformed
  else do
    let p ← gReach .load va 64
    let v ← gNum va 192
    if bitOf v 0 then endG (.wait (.nodeLock p))
    else match nodeChildren v depth with
      | some l => pure l
      | none => endG .malformed

/-- A primitive record (06 R143). -/
structure Prim where
  key : Nat
  kind : Nat
  words : List Nat

/-- Read the primitive record at a VA. -/
def readPrim (va : Nat) : GM Prim := do
  if va % 64 ≠ 0 then endG .malformed
  else do
    let v ← gNum va 64
    if 1 < byteFld v 8 1 then endG .malformed
    else pure { key := byteFld v 0 8, kind := byteFld v 8 1, words := (List.range 9).map (fun k => byteFld v (0x10 + 4 * k) 4) }

/- Rays (06 R148, R149). -/

/-- An order of FP32 patterns by value: the two zeros are equal. -/
def f32Order (v : Nat) : Int := if v < 2 ^ 31 then (v : Int) else -((v - 2 ^ 31 : Nat) : Int)

/-- A ray: its origin and direction as multiples of 2^−149, and its interval. -/
structure Ray where
  o : List Int
  d : List Int
  tmin : Ext
  tmax : Ext

/-- A finite FP32 value as a multiple of 2^−149. -/
def f32Grid (v : Nat) : Option Int :=
  match decodeF 6 v with
  | .fin n m e => some (asQuanta 6 n m e)
  | _ => none

/-- A ray from its eight FP32 patterns; none for one that hits nothing: a NaN or an infinity among its origin and direction, a NaN in
its interval, or d = 0. -/
def rayOf (w : List Nat) : Option Ray :=
  match (w.take 6).mapM f32Grid, Ext.ofBits 6 (nth 0 w 6), Ext.ofBits 6 (nth 0 w 7) with
  | some g, some a, some b => if (g.drop 3).all (· = 0) then none else some { o := g.take 3, d := g.drop 3, tmin := a, tmax := b }
  | _, _, _ => none

/-- The t at which a coordinate of a ray reaches a bound, where d is not 0. -/
def reachBound (o d : Int) (b : Nat) : Option Ext :=
  match decodeF 6 b with
  | .nan _ => none
  | .inf n => some (if n = (d > 0 : Bool) then .ninf else .pinf)
  | .fin n m e => some (.fin (Q.div (Q.ofInt (asQuanta 6 n m e - o)) (Q.ofInt d)))

/-- The interval of t inside the closed bounds of one axis; none where the ray never lies inside. -/
def axisInterval (o d : Int) (lo hi : Nat) : Option (Ext × Ext) :=
  if d = 0 then
    match Ext.ofBits 6 lo, Ext.ofBits 6 hi with
    | some a, some b =>
      let x : Ext := .fin { n := o, d := 2 ^ 149 }
      if a.le x ∧ x.le b then some (.ninf, .pinf) else none
    | _, _ => none
  else
    match reachBound o d lo, reachBound o d hi with
    | some a, some b => some (if d > 0 then (a, b) else (b, a))
    | _, _ => none

/-- The interval of t inside a box and the ray's own interval; none where the ray does not enter. -/
def boxEntry (r : Ray) (box : List Nat) : Option Ext :=
  let axes := (List.range 3).mapM (fun k => axisInterval (nth 0 r.o k) (nth 0 r.d k) (nth 0 box k) (nth 0 box (k + 3)))
  match axes with
  | none => none
  | some l =>
    let entry := l.foldl (fun m i => m.max i.1) r.tmin
    let leave := l.foldl (fun m i => m.min i.2) r.tmax
    if entry.le leave ∧ entry ≠ .pinf ∧ leave ≠ .ninf then some entry else none

/-- Vectors of integers. -/
def cross (a b : List Int) : List Int :=
  let x (l : List Int) (k : Nat) : Int := nth 0 l k
  [x a 1 * x b 2 - x a 2 * x b 1, x a 2 * x b 0 - x a 0 * x b 2, x a 0 * x b 1 - x a 1 * x b 0]
def dot (a b : List Int) : Int := (List.zipWith (· * ·) a b).foldl (· + ·) 0
def minus (a b : List Int) : List Int := List.zipWith (· - ·) a b

/-- The t at which a ray hits a triangle of nine FP32 patterns. One with a NaN vertex coordinate is never hit (06 R148), and in this model neither is one with
an infinite one (notes/assumptions/53.md). -/
def triangleHit (r : Ray) (w : List Nat) : Option Ext :=
  match w.mapM f32Grid with
  | none => none
  | some g =>
    let v0 := g.take 3
    let e1 := minus ((g.drop 3).take 3) v0
    let e2 := minus ((g.drop 6).take 3) v0
    let p := cross r.d e2
    let det := dot e1 p
    if det = 0 then none
    else
      let sg (x : Int) : Int := if det < 0 then -x else x
      let q := minus r.o v0
      let c := cross q e1
      let u := sg (dot q p)
      let v := sg (dot r.d c)
      let t : Ext := .fin { n := sg (dot e2 c), d := det.natAbs }
      if 0 ≤ u ∧ 0 ≤ v ∧ u + v ≤ (det.natAbs : Int) ∧ r.tmin.le t ∧ t.le r.tmax then some t else none

/-- The reported t of a hit on a primitive. -/
def primHit (r : Ray) (p : Prim) : Option Nat :=
  ((if p.kind = 0 then triangleHit r p.words else boxEntry r (p.words.take 6))).map (roundExt 6)

/-- A hit. -/
structure Hit where
  t : Nat
  key : Nat
  addr : Nat
deriving DecidableEq, Repr

/-- The better of two hits: the lesser reported t, then the lesser key (06 R149). -/
def betterHit (best : Option Hit) (h : Hit) : Option Hit :=
  match best with
  | none => some h
  | some b =>
    if f32Order h.t < f32Order b.t ∨ (f32Order h.t = f32Order b.t ∧ h.key < b.key) then some h else some b

/-- Depth-first traversal: the slots still to visit, with the boxes entered. -/
def rayWalk (r : Ray) (anyHit : Bool) : Nat → List SlotRef → Option Hit → GM (Option Hit)
  | 0, _, best => pure best
  | _ + 1, [], best => pure best
  | k + 1, x :: rest, best => do
    if (boxEntry r x.box).isNone then rayWalk r anyHit k rest best
    else if x.node then do
      let l ← readNode x.addr x.depth
      rayWalk r anyHit k (l ++ rest) best
    else do
      let p ← readPrim x.addr
      match primHit r p with
      | none => rayWalk r anyHit k rest best
      | some t =>
        let h : Hit := { t := t, key := p.key, addr := x.addr }
        if anyHit then pure (some h) else rayWalk r anyHit k rest (betterHit best h)

/-- More steps than any traversal of 33 levels of four children takes. -/
def walkFuel : Nat := 2 ^ 80

/-- The traversals of a query (06 R150): EPOCH is even before each and is read again after it, and one under which EPOCH has changed is made again from the
root. The third, the last, is made with HOLDS raised by 1 and lowered again at its end: both fall in the step that makes it, so memory keeps
the value, and only the wait for a free hold shows. -/
def rayTries (root : Nat) (r : Ray) (anyHit : Bool) : Nat → GM (Option Hit)
  | 0 => do
    let h ← readRoot root
    if !h.frozen ∧ h.holds = 0xFFFF then endG (.wait (.holds h.pos))
    else do
      let h ← readRootEven root
      rayWalk r anyHit walkFuel [h.top] none
  | k + 1 => do
    let h ← readRootEven root
    let best ← rayWalk r anyHit walkFuel [h.top] none
    let after ← readRoot root
    if h.frozen ∨ after.epoch = h.epoch then pure best else rayTries root r anyHit k

/-- One query: none where the traversal ends without a hit. -/
def rayQuery (root : Nat) (w : List Nat) (anyHit : Bool) : GM (Option Hit) := do
  let _ ← readRootEven root
  match rayOf w with
  | none => pure none
  | some r => rayTries root r anyHit 2

/- RQ and RQANY (17 R437). -/

/-- The four results of a status. -/
def rqStatus (status : Nat) : List Nat := [0x7F800000, 0, 0, status]

/-- RQ and RQANY. -/
def rqM (i : Instr) (anyHit : Bool) (f : LongFields) : M Unit := do
  let (x, slots) ← renderIssue i f
  let v ← askS (fun s => (s.hart s.cur).vec)
  let depth := wfld v.vrqctl 4 0
  if wfld v.vrqctl 9 5 ≤ depth then
    if v.vrqctl.getLsbD 10 then trapM 28 (BitVec.ofNat 64 depth)
    else renderEnd i f (slots.map (fun k => (k, rqStatus 3))) [] 1
  else do
    let regs := (List.range 8).map (fun j => (v.getV (f.b.toNat + j)).toNat)
    let l ← readsM (eachElem (fun k => rayQuery x.a.toNat (regs.map (fun r => elemAt r 4 k)) anyHit) slots)
    match endedWait l with
    | some w => waitM w
    | none =>
      let good := l.filterMap (fun e => match e.2 with
        | .ok (some h) => some (e.1, [h.t, h.key % 2 ^ 32, h.key / 2 ^ 32, 1])
        | .ok none => some (e.1, rqStatus 0)
        | .error .malformed => some (e.1, rqStatus 4)
        | .error _ => none)
      renderEnd i f good (endedFaults l) 60

/-- RQ (17 R437). -/
def execRq (f : LongFields) (s : State) : Host.Outcome State Fault Refusal := runM (rqM (.rq f) false f) s

/-- RQANY (17 R437). -/
def execRqany (f : LongFields) (s : State) : Host.Outcome State Fault Refusal := runM (rqM (.rqany f) true f) s

/- Pair traversal (06 R154–R156). -/

/-- Whether two closed boxes overlap; a NaN bound makes every comparison false. -/
def boxesOverlap (a b : List Nat) : Bool :=
  let le (x y : Nat) : Bool := match Ext.ofBits 6 x, Ext.ofBits 6 y with
    | some p, some q => p.le q
    | _, _ => false
  (List.range 3).all (fun k => le (nth 0 a k) (nth 0 b (k + 3)) && le (nth 0 b k) (nth 0 a (k + 3)))

/-- The box of a primitive (06 R143); a NaN vertex coordinate gives a NaN bound on its axis. -/
def primBox (p : Prim) : List Nat :=
  if p.kind = 1 then p.words.take 6
  else
    let axis (k : Nat) : List Nat := [nth 0 p.words k, nth 0 p.words (k + 3), nth 0 p.words (k + 6)]
    let pick (best : List Nat → Nat) (k : Nat) : Nat :=
      if (axis k).any (fun v => (decodeF 6 v).isNaN) then canonNaN 6 else best (axis k)
    let least (l : List Nat) : Nat := l.foldl (fun m v => if f32Order v < f32Order m then v else m) (l.headD 0)
    let greatest (l : List Nat) : Nat := l.foldl (fun m v => if f32Order m < f32Order v then v else m) (l.headD 0)
    (List.range 3).map (pick least) ++ (List.range 3).map (pick greatest)

/-- The overlapping pairs of two lists of slots, in ascending order of their number 4i + j; with the diagonal and above alone for a node with itself. -/
def slotPairs (upper : Bool) (a b : List SlotRef) : List (Nat × SlotRef × SlotRef) :=
  (List.range a.length).flatMap (fun i => (List.range b.length).filterMap (fun j =>
    match a[i]?, b[j]? with
    | some x, some y => if (!upper || i ≤ j) && boxesOverlap x.box y.box then some (4 * i + j, x, y) else none
    | _, _ => none))

/-- A PAIR record (06 R129). -/
def pairRecord (dup : Bool) (k1 k2 a1 a2 : Nat) : BitVec 512 :=
  BitVec.ofNat 512 (0x20 + natOf dup * 2 ^ 8 + k1 * 2 ^ 64 + k2 * 2 ^ 128 + a1 * 2 ^ 192 + a2 * 2 ^ 256)

/-- A pair that a descent expands, and the number from which its child pairs are still to come. -/
structure Frame where
  x : SlotRef
  y : SlotRef
  next : Nat

/-- What is left of a descent: whether both roots are one, the pairs on the way down, the deepest first, and the record that stopped it. -/
structure Walk where
  same : Bool
  frames : List Frame
  ready : Option (BitVec 512)

/-- The children that a side of a pair expands into; a primitive stands for itself. -/
def sideSlots (x : SlotRef) : GM (List SlotRef) := if x.node then readNode x.addr x.depth else pure [x]

/-- One step of a descent from its deepest pair (06 R154, R155): the next of its child pairs, or the end of it; the record of a pair of primitives. -/
def pairStep (same : Bool) (f : Frame) (rest : List Frame) : GM (List Frame × Option (BitVec 512)) := do
  if f.x.node ∨ f.y.node then do
    let one := same && f.x.node && f.y.node && f.x.addr = f.y.addr
    let a ← sideSlots f.x
    let b ← if one then pure a else sideSlots f.y
    match (slotPairs one a b).find? (fun e => f.next ≤ e.1) with
    | none => pure (rest, none)
    | some (k, x, y) => pure ({ x := x, y := y, next := 0 } :: { f with next := k + 1 } :: rest, none)
  else do
    let p ← readPrim f.x.addr
    let q ← readPrim f.y.addr
    if !boxesOverlap (primBox p) (primBox q) ∨ (same ∧ p.key = q.key) then pure (rest, none)
    else
      let dup := f.x.multi || f.y.multi
      pure (rest, some (if same ∧ q.key < p.key then pairRecord dup q.key p.key f.y.addr f.x.addr
        else pairRecord dup p.key q.key f.x.addr f.y.addr))

/- The continuation block (17 R438), in the layout of this model (notes/assumptions/56.md): its mark, the flags and the number of frames, the two roots,
the record, and the frames. -/

/-- A slot in 40 bytes. -/
def SlotRef.bytes (x : SlotRef) : List Byte :=
  leBytes 8 x.addr ++ leBytes 8 (natOf x.node + 2 * natOf x.multi + 4 * x.depth) ++ (List.range 6).flatMap (fun k => leBytes 4 (nth 0 x.box k))
def slotOfBytes (v : Nat) : SlotRef :=
  { node := bitOf (byteFld v 8 8) 0, addr := byteFld v 0 8, depth := byteFld v 8 8 / 4, multi := bitOf (byteFld v 8 8) 1, box := sixAt v 16 }

/-- A frame in 88 bytes. -/
def Frame.bytes (f : Frame) : List Byte := f.x.bytes ++ f.y.bytes ++ leBytes 8 f.next
def frameOfBytes (v : Nat) : Frame := { x := slotOfBytes v, y := slotOfBytes (v >>> 320), next := byteFld v 80 8 }

/-- The bytes of a block behind its mark. -/
def Walk.bytes (w : Walk) (roots : Nat × Nat) : List Byte :=
  leBytes 8 (natOf w.same + 2 * natOf w.ready.isSome + 4 * w.frames.length) ++ leBytes 8 roots.1 ++ leBytes 8 roots.2
    ++ leBytes 64 ((w.ready.getD 0).toNat) ++ w.frames.flatMap Frame.bytes
def walkOfBytes (v : Nat) : Walk :=
  let n := byteFld v 0 8
  { same := bitOf n 0, ready := if bitOf n 1 then some (BitVec.ofNat 512 (byteFld v 24 64)) else none
    frames := (List.range (min 90 (n / 4))).map (fun k => frameOfBytes (v >>> (8 * (88 + 88 * k)))) }

/-- The global addresses of the 8 KiB of a block: the VA at which each page of it begins, and the address there. -/
abbrev Block := List (Nat × Nat)

/-- The global address of a byte of a block. -/
def Block.at_ (b : Block) (va : Nat) : Nat :=
  match b.reverse.find? (fun e => e.1 ≤ va) with
  | some (v, a) => a + (va - v)
  | none => 0

/-- The bytes of a block at an offset, and the cells of bytes there. -/
def Block.read (b : Block) (s : State) (off n : Nat) : Nat :=
  let va := (b.headD (0, 0)).1 + off
  leNat ((List.range n).map (fun k => (gBytes s (b.at_ (va + k)) 1).headD 0))
def Block.cells (b : Block) (off : Nat) (l : List Byte) : List Host.Cell :=
  let va := (b.headD (0, 0)).1 + off
  ((List.range l.length).zip l).map (fun (k, x) => (b.at_ (va + k), x))

/- XPAIR (17 R438, R439). -/

/-- The pair control block. -/
structure PairBlock where
  va : Nat
  ring : Nat
  log : Nat
  wp : Nat
  cont : Nat
  live : Bool

/-- The block from its 64 bytes; none where it breaks a limit. -/
def pairBlock (va v : Nat) : Option PairBlock :=
  let b : PairBlock := { va := va, ring := byteFld v 0 8, log := byteFld v 8 8 % 32, wp := byteFld v 0x10 4, cont := byteFld v 0x20 8
                         live := bitOf (byteFld v 0x28 8) 0 }
  if b.ring % 64 = 0 ∧ byteFld v 8 8 < 32 ∧ 1 ≤ b.log ∧ b.log ≤ 20 ∧ b.cont % 64 = 0 ∧ byteFld v 0x38 8 = 0 then some b else none

/-- What an issue of XPAIR has come to: the status, FKIND and FADDR of a fault, what is left of the descent, and the records to write
with their places. -/
structure PairRun where
  status : Nat
  fault : Option (Nat × Nat)
  left : Option Walk
  records : List (Nat × BitVec 512)

/-- FKIND of a fault. -/
def pairKind (cause : Nat) (write : Bool) : Nat :=
  if cause = 29 then 3 else if cause = 13 ∨ cause = 15 then natOf write else 2

/-- The loop of an issue: it steps the descent until the ring is full, a fault stops it, or it ends. RP and the ring's addresses are
read as the issue finds them. -/
def pairLoop (b : PairBlock) : Nat → Walk → List (Nat × BitVec 512) → GM PairRun
  | 0, d, out => pure { status := 2, fault := none, left := some d, records := out }
  | k + 1, d, out => do
    match d.ready with
    | some rec => do
      let stop (e : Ended) (write : Bool) : GM PairRun := match e with
        | .fault c a => pure { status := 2, fault := some (pairKind c write, a), left := some d, records := out }
        | e => endG e
      match (← tryG (gNum (b.va + 0x18) 4)) with
      | .error e => stop e false
      | .ok rp =>
        if (b.wp + out.length + 2 ^ 32 - rp) % 2 ^ 32 = 2 ^ b.log then pure { status := 2, fault := none, left := some d, records := out }
        else do
          let va := (b.ring + 64 * ((b.wp + out.length) % 2 ^ b.log)) % 2 ^ 64
          match (← tryG (gReach .store va 64)) with
          | .error e => stop e true
          | .ok p => do
            let s ← gState
            match heldByte s p 64 with
            | some h => stop (.fault 29 (va + (h - p))) true
            | none => pairLoop b k { d with ready := none } (out ++ [(p, rec)])
    | none =>
      match d.frames with
      | [] => pure { status := 0, fault := none, left := none, records := out }
      | f :: rest => do
        match (← tryG (pairStep d.same f rest)) with
        | .error .malformed => pure { status := 4, fault := none, left := none, records := out }
        | .error (.fault c a) => pure { status := 2, fault := some (pairKind c false, a), left := some d, records := out }
        | .error e => endG e
        | .ok (l, rec) => pairLoop b k { d with frames := l, ready := rec } out

/-- More steps than any descent takes. -/
def pairFuel : Nat := 2 ^ 160

/-- The descent that a continuation block at a global address holds: its first word, the mark, names it. -/
def heldDescent (s : State) (cont : Nat) : Option Descent :=
  s.descents.find? (fun d => d.begun && d.cont = cont && gRead s cont 8 = d.id + 1)

/-- The descent of the executing context whose holds are taken and which waits for an even EPOCH. -/
def waitingDescent (s : State) (cont : Nat) (roots : Nat × Nat) : Option Descent :=
  s.descents.find? (fun d => !d.begun && d.hart = s.cur && d.cont = cont && d.roots = roots)

/-- A new descent on two root headers, with its holds still to take: one hold where both are the same, and none in a frozen region (06 R147, R157). -/
def newDescent (s : State) (cont : Nat) (roots : Nat × Nat) (a b : RootHeader) : Descent :=
  let l := if a.pos = b.pos then [a] else [a, b]
  { id := s.nextId, cont := cont, hart := s.cur, roots := roots, holds := (l.filter (fun r => !r.frozen)).map (·.pos), begun := false }

/-- Where a descent from two root headers begins (06 R154). -/
def newWalk (a b : RootHeader) : Walk :=
  { same := a.pos = b.pos, ready := none, frames := if boxesOverlap a.box b.box then [{ x := a.top, y := b.top, next := 0 }] else [] }

/-- The reads that begin a descent: both root headers, writable for their holds. -/
def readRoots (xa xb : Nat) : GM (RootHeader × RootHeader) := do
  let root (va : Nat) : GM RootHeader := do
    let h ← readRoot va
    if h.frozen then pure h
    else do
      let _ ← gReach .store va 64
      pure h
  let a ← root xa
  let b ← root xb
  pure (a, b)

/-- Plain stores of the executing context into its pair control block, and the store of WP as a device-scope release behind them. -/
def writePair (pos : Nat) (wp : Nat) (n : Nat) (live : Bool) (fault : Option (Nat × Nat)) (s : State) : State :=
  let flags := natOf live + (match fault with
    | some (k, _) => 2 + 4 * k
    | none => 0)
  let cells := cellsAt (pos + 0x28) [BitVec.ofNat 8 flags] ++ (match fault with
    | some (_, a) => cellsAt (pos + 0x30) (leBytes 8 a)
    | none => [])
  let s := storeSector s.cur (sectorOf pos) cells s
  let u := unitOf s.cur
  let cls := spotClass s s.cur { core := 0, space := 0, pos := pos }
  let s := dropLoads u 0 [sectorOf pos] s
  let s := if isHostNum pos ∨ isRemote pos then s else l1Invalidate u (lineOf pos) (sectorMask pos 1) s
  let e := { newPosted s s.cur (sectorOf pos) cls (.bytes (cellsAt (pos + 0x10) (leBytes 4 ((wp + n) % 2 ^ 32)))) with
             release := true, scope := 3 }
  progressCheck u (addPosted u e s)

/-- The end of an issue that touched its block: the records, the holds, the continuation block, and xd. -/
def endPair (f : LongFields) (pos : Nat) (b : PairBlock) (cont : Block) (d : Option Descent) (r : PairRun) : M Unit := do
  let reader ← askS (fun s => partOfHart s s.cur)
  modS (fun s => r.records.foldl (fun t e => storeSector t.cur (sectorOf e.1) (cellsAt e.1 (leBytes 64 e.2.toNat)) t) s)
  modS (fun s => match d, r.left with
    | some x, some w =>
      let s := { s with descents := s.descents.filter (fun y => y.id ≠ x.id) ++ [{ x with hart := s.cur, begun := true }] }
      deviceWrite reader (cont.cells 0 (leBytes 8 (x.id + 1) ++ w.bytes x.roots)) s
    | some x, none => endDescent reader x s
    | none, _ => s)
  modS (fun s => writePair pos b.wp r.records.length r.left.isSome r.fault s)
  loadReturns f.d (BitVec.ofNat 64 (r.status + natOf r.fault.isSome * 8 + r.records.length * 2 ^ 32)) 40
  retireM 8

/-- XPAIR answers a status and touches nothing else. -/
def answerPair (f : LongFields) (status : Nat) : M Unit := do
  loadReturns f.d (BitVec.ofNat 64 status) 20
  retireM 8

/-- The continuation block, every page of it translated for writing and for reading. -/
def contBlock (va : Nat) : GM Block :=
  let starts := va :: ((List.range 2).map (fun k => (va / 4096 + 1 + k) * 4096)).filter (· < va + 8192)
  starts.mapM (fun v => do
    let _ ← gReach .store v 64
    let p ← gReach .load v 64
    let s ← gState
    match heldByte s p (min (4096 - v % 4096) (va + 8192 - v)) with
    | some h => endG (.fault 29 (v + (h - p)))
    | none => pure (v, p))

/-- A fault of the continuation block or of the root headers ends the issue with PARTIAL and FAULT; LIVE stays as it is. -/
def faultPair (f : LongFields) (pos : Nat) (b : PairBlock) (kind addr : Nat) : M Unit := do
  modS (fun s => writePair pos b.wp 0 b.live (some (kind, addr)) s)
  loadReturns f.d (BitVec.ofNat 64 10) 40
  retireM 8

/-- The descent that two roots begin (06 R157): its holds are taken, once, and then it waits until EPOCH is even. -/
def beginPair (cont : Block) (roots : Nat × Nat) (a b : RootHeader) : M Descent := do
  let reader ← askS (fun s => partOfHart s s.cur)
  let pos := (cont.headD (0, 0)).2
  let d ← (do
    match (← askS (fun s => waitingDescent s pos roots)) with
    | some d => pure d
    | none => do
      match ([a, b].find? (fun r => !r.frozen && r.holds = 0xFFFF)) with
      | some r => waitKeepM (.holds r.pos)
      | none => do
        let d ← askS (fun s => newDescent s pos roots a b)
        modS (fun s => d.holds.foldl (fun t p => holdsAdd reader p true t)
          { s with nextId := s.nextId + 1, descents := s.descents ++ [d] })
        pure d)
  match [a, b].find? (fun r => !r.frozen && r.epoch % 2 = 1) with
  | some r => waitKeepM (.epoch r.pos)
  | none => pure d

/-- Step a descent until it stops, and end the issue. -/
def runPair (f : LongFields) (pos : Nat) (b : PairBlock) (cont : Block) (d : Descent) (w : Walk) : M Unit := do
  match (← readsM (pairLoop b pairFuel w []).run) with
  | .ok r => endPair f pos b cont (some d) r
  | .error (.wait w) => waitKeepM w
  | .error _ => answerPair f 4

/-- An issue that would end with the release of WP stops in strict mode where that release would miss (10 R258). -/
def strictPair (strict : Bool) (va : Nat) (x : M Unit) : M Unit :=
  if strict then trapKeepM 26 (BitVec.ofNat 64 (va + 0x10)) else x

/-- The issue of an XPAIR whose block is legal. -/
def pairIssue (f : LongFields) (pos : Nat) (strict : Bool) (b : PairBlock) (xa xb : Nat) : M Unit := do
  let h ← askS (fun s => s.cur)
  let reader ← askS (fun s => partOfHart s h)
  match (← readsM (contBlock b.cont).run) with
  | .error (.fault c a) => strictPair strict b.va (faultPair f pos b (pairKind c (c = 15 || c = 7)) a)
  | .error _ => answerPair f 4
  | .ok cont => do
    let held ← askS (fun s => heldDescent s (cont.headD (0, 0)).2)
    if b.live then
      if xa = 0 then do
        (match held with
          | some d => modS (fun s => endDescent reader d s)
          | none => pure ())
        modS (fun s => storeSector h (sectorOf pos) (cellsAt (pos + 0x28) [0]) s)
        answerPair f 0
      else match held with
        | none => answerPair f 4
        | some d => strictPair strict b.va (do
          let w ← askS (fun s => walkOfBytes (cont.read s 8 (8 + 16 + 64 + 88 * 70)))
          runPair f pos b cont d w)
    else strictPair (strict && xa ≠ 0) b.va (do
      (match held with
        | some d => modS (fun s => endDescent reader d s)
        | none => pure ())
      modS (fun s => (s.descents.filter (fun d => !d.begun && d.hart = h && (d.cont ≠ (cont.headD (0, 0)).2 || d.roots ≠ (xa, xb)))).foldl (fun t d => endDescent reader d t) s)
      if xa = 0 then answerPair f 0
      else match (← readsM (readRoots xa xb).run) with
        | .ok (x, y) => do
          let d ← beginPair cont (xa, xb) x y
          runPair f pos b cont d (newWalk x y)
        | .error .malformed => endPair f pos b cont none { status := 4, fault := none, left := none, records := [] }
        | .error (.fault c a) => faultPair f pos b (pairKind c (c = 15 || c = 7)) a
        | .error (.wait w) => waitKeepM w)

/-- XPAIR: the block is translated for reading and writing and read whole before any other effect. -/
def xpairM (i : Instr) (f : LongFields) : M Unit := do
  requireM (← askS (fun s => isVector s.cur && i.wellFormed)) i
  let x ← operandsM i
  let va := x.c.toNat
  let h ← askS (fun s => s.cur)
  waitRehoming 0
  if va % 64 ≠ 0 then answerPair f 4
  else if inWindow h va then trapM 5 x.c
  else match (← readsM (gNum va 64).run) with
    | .error (.fault c a) => trapKeepM c (BitVec.ofNat 64 a)
    | .error _ => answerPair f 4
    | .ok v => do
      let p ← translateM .store va 64
      let pos := p.num
      let strict ← askS (fun s => strictCtx s h && (spotClass s h { core := 0, space := 0, pos := pos } = 3 || postedCount s h 3 ≠ 0))
      match pairBlock va v with
      | none => answerPair f 4
      | some b => pairIssue f pos strict b x.a.toNat x.b.toNat

/-- XPAIR (17 R438, R439). -/
def execXpair (f : LongFields) (s : State) : Host.Outcome State Fault Refusal := runM (xpairM (.xpair f) f) s

end Sys2Proof.Machine
end

