-- ==== Sys2Proof/Machine/LoadStore.lean ====
section
/-! DEFINITION. The scalar loads and stores and the A extension (14 R343, R345). -/

namespace Sys2Proof.Machine

/-- A load of n bytes at rs1 + imm. -/
def loadOp (rd rs1 : Reg) (imm : BitVec 12) (n : Nat) (signed : Bool) : M Unit := do
  let a ← readX rs1.toNat
  loadM rd (a + imm.signExtend 64) n signed
  retireM 4

/-- A store of n bytes of rs2 at rs1 + imm. -/
def storeOp (rs1 rs2 : Reg) (imm : BitVec 12) (n : Nat) : M Unit := do
  let a ← readX rs1.toNat
  let v ← readX rs2.toNat
  storeM (a + imm.signExtend 64) n v
  retireM 4

/-- The width in bytes of an A-extension access. -/
def amoWidth (wide : Bool) : Nat := if wide then 8 else 4

/-- An AMO: aq and rl have device scope (14 R345). -/
def amoOp (kind : Nat) (wide aq rl : Bool) (rd rs1 rs2 : Reg) : M Unit := do
  let a ← readX rs1.toNat
  let v ← readX rs2.toNat
  destX rd.toNat
  let w := amoWidth wide
  let p ← resolve .store a.toNat w true
  let way ← if rl then releaseFor p 3 a else pure .plain
  amoPlace p a.toNat kind w v 0 rd way 3 (if aq then some 3 else none)
  if aq then acquire 3 else pure ()
  retireM 4

/-- LR (14 R345): in the window, in host memory and in another device's memory it takes cause 5. -/
def lrOp (wide aq : Bool) (rd rs1 : Reg) : M Unit := do
  let a ← readX rs1.toNat
  destX rd.toNat
  let w := amoWidth wide
  let h ← askS (fun s => s.cur)
  if a.toNat % w ≠ 0 then trapM 4 a
  else if inWindow h a.toNat then trapM 5 a
  else do
    let p ← resolve .load a.toNat w true
    match p with
    | .global r => do
      if r.host || isRemote r.pa then trapM 5 a
      else do
        waitOwnSector r.pa
        modS (fun s => sendOwn s.cur s)
        let (x, lat) ← loadPlace p a.toNat w rd
        modMe (fun g => { g with reservation := some (sectorOf r.pa) })
        loadReturns rd (sextW (8 * w) x) lat
    | _ => trapM 5 a
    if aq then acquire 3 else pure ()
    retireM 4

/-- SC (14 R345): in the window, in host memory and in another device's memory it takes cause 7. -/
def scOp (wide rl : Bool) (rd rs1 rs2 : Reg) : M Unit := do
  let a ← readX rs1.toNat
  let v ← readX rs2.toNat
  destX rd.toNat
  let w := amoWidth wide
  let h ← askS (fun s => s.cur)
  if a.toNat % w ≠ 0 then trapM 6 a
  else if inWindow h a.toNat then trapM 7 a
  else do
    let p ← resolve .store a.toNat w true
    let way ← if rl then releaseFor p 3 a else pure .plain
    amoPlace p a.toNat 12 w v 0 rd way 3 none
    retireM 4

/-- LB (14 R343). -/
def execLb (rd rs1 : Reg) (imm : BitVec 12) (s : State) : Host.Outcome State Fault Refusal :=
  runM (loadOp rd rs1 imm 1 true) s

/-- LH (14 R343). -/
def execLh (rd rs1 : Reg) (imm : BitVec 12) (s : State) : Host.Outcome State Fault Refusal :=
  runM (loadOp rd rs1 imm 2 true) s

/-- LW (14 R343). -/
def execLw (rd rs1 : Reg) (imm : BitVec 12) (s : State) : Host.Outcome State Fault Refusal :=
  runM (loadOp rd rs1 imm 4 true) s

/-- LD (14 R343). -/
def execLd (rd rs1 : Reg) (imm : BitVec 12) (s : State) : Host.Outcome State Fault Refusal :=
  runM (loadOp rd rs1 imm 8 true) s

/-- LBU (14 R343). -/
def execLbu (rd rs1 : Reg) (imm : BitVec 12) (s : State) : Host.Outcome State Fault Refusal :=
  runM (loadOp rd rs1 imm 1 false) s

/-- LHU (14 R343). -/
def execLhu (rd rs1 : Reg) (imm : BitVec 12) (s : State) : Host.Outcome State Fault Refusal :=
  runM (loadOp rd rs1 imm 2 false) s

/-- LWU (14 R343). -/
def execLwu (rd rs1 : Reg) (imm : BitVec 12) (s : State) : Host.Outcome State Fault Refusal :=
  runM (loadOp rd rs1 imm 4 false) s

/-- SB (14 R343). -/
def execSb (rs1 rs2 : Reg) (imm : BitVec 12) (s : State) : Host.Outcome State Fault Refusal :=
  runM (storeOp rs1 rs2 imm 1) s

/-- SH (14 R343). -/
def execSh (rs1 rs2 : Reg) (imm : BitVec 12) (s : State) : Host.Outcome State Fault Refusal :=
  runM (storeOp rs1 rs2 imm 2) s

/-- SW (14 R343). -/
def execSw (rs1 rs2 : Reg) (imm : BitVec 12) (s : State) : Host.Outcome State Fault Refusal :=
  runM (storeOp rs1 rs2 imm 4) s

/-- SD (14 R343). -/
def execSd (rs1 rs2 : Reg) (imm : BitVec 12) (s : State) : Host.Outcome State Fault Refusal :=
  runM (storeOp rs1 rs2 imm 8) s

/-- LR (14 R345). An rl bit on LR names no release (10 R248). -/
def execLr (wide aq _rl : Bool) (rd rs1 : Reg) (s : State) : Host.Outcome State Fault Refusal :=
  runM (lrOp wide aq rd rs1) s

/-- SC (14 R345). An aq bit on SC names no acquire (10 R249). -/
def execSc (wide _aq rl : Bool) (rd rs1 rs2 : Reg) (s : State) : Host.Outcome State Fault Refusal :=
  runM (scOp wide rl rd rs1 rs2) s

/-- AMOSWAP (14 R345). -/
def execAmoswap (wide aq rl : Bool) (rd rs1 rs2 : Reg) (s : State) : Host.Outcome State Fault Refusal :=
  runM (amoOp 3 wide aq rl rd rs1 rs2) s

/-- AMOADD (14 R345). -/
def execAmoadd (wide aq rl : Bool) (rd rs1 rs2 : Reg) (s : State) : Host.Outcome State Fault Refusal :=
  runM (amoOp 2 wide aq rl rd rs1 rs2) s

/-- AMOXOR (14 R345). -/
def execAmoxor (wide aq rl : Bool) (rd rs1 rs2 : Reg) (s : State) : Host.Outcome State Fault Refusal :=
  runM (amoOp 6 wide aq rl rd rs1 rs2) s

/-- AMOAND (14 R345). -/
def execAmoand (wide aq rl : Bool) (rd rs1 rs2 : Reg) (s : State) : Host.Outcome State Fault Refusal :=
  runM (amoOp 4 wide aq rl rd rs1 rs2) s

/-- AMOOR (14 R345). -/
def execAmoor (wide aq rl : Bool) (rd rs1 rs2 : Reg) (s : State) : Host.Outcome State Fault Refusal :=
  runM (amoOp 5 wide aq rl rd rs1 rs2) s

/-- AMOMIN (14 R345). -/
def execAmomin (wide aq rl : Bool) (rd rs1 rs2 : Reg) (s : State) : Host.Outcome State Fault Refusal :=
  runM (amoOp 7 wide aq rl rd rs1 rs2) s

/-- AMOMAX (14 R345). -/
def execAmomax (wide aq rl : Bool) (rd rs1 rs2 : Reg) (s : State) : Host.Outcome State Fault Refusal :=
  runM (amoOp 8 wide aq rl rd rs1 rs2) s

/-- AMOMINU (14 R345). -/
def execAmominu (wide aq rl : Bool) (rd rs1 rs2 : Reg) (s : State) : Host.Outcome State Fault Refusal :=
  runM (amoOp 9 wide aq rl rd rs1 rs2) s

/-- AMOMAXU (14 R345). -/
def execAmomaxu (wide aq rl : Bool) (rd rs1 rs2 : Reg) (s : State) : Host.Outcome State Fault Refusal :=
  runM (amoOp 10 wide aq rl rd rs1 rs2) s

end Sys2Proof.Machine
end

