-- ==== Sys2Proof/Machine/Scalar.lean ====
section
/-! DEFINITION. The scalar base: RV64I registers, immediates, jumps and branches, and the M extension (14 R342, R344). -/

namespace Sys2Proof.Machine

/-- A 12-bit immediate, sign-extended. -/
def sext12 (imm : BitVec 12) : Word := imm.signExtend 64

/-- A W result: bits [31:0], sign-extended. -/
def wordOf (v : Word) : Word := (v.truncate 32).signExtend 64

/-- The high half of a product of integers. -/
def highHalf (v : Int) : Word := BitVec.ofInt 64 (v / (2 ^ 64 : Int))

/-- DIV on b-bit signed values: division by zero gives all ones; the overflow gives the dividend. -/
def divS (x y : Int) : Int := if y = 0 then -1 else x.tdiv y

/-- REM: division by zero gives the dividend. -/
def remS (x y : Int) : Int := if y = 0 then x else x.tmod y

/-- DIVU on numbers below 2^b. -/
def divU (b x y : Nat) : Nat := if y = 0 then 2 ^ b - 1 else x / y

/-- REMU. -/
def remU (x y : Nat) : Nat := if y = 0 then x else x % y

/-- An R-format operation whose result the next slot may read. -/
def aluR (rd rs1 rs2 : Reg) (f : Word → Word → Word) : M Unit := do
  let a ← readX rs1.toNat
  let b ← readX rs2.toNat
  destX rd.toNat
  writeX rd.toNat (f a b)
  retireM 4

/-- An operation on one register whose result the next slot may read. -/
def aluI (rd rs1 : Reg) (f : Word → Word) : M Unit := do
  let a ← readX rs1.toNat
  destX rd.toNat
  writeX rd.toNat (f a)
  retireM 4

/-- An operation without a source register. -/
def aluU (rd : Reg) (f : Word → Word) : M Unit := do
  destX rd.toNat
  let h ← me
  writeX rd.toNat (f h.pc)
  retireM 4

/-- A multiply or divide: its destination is empty for a number of cycles (07 R168). -/
def aluSlow (rd rs1 rs2 : Reg) (cycles : Nat) (f : Word → Word → Word) : M Unit := do
  let a ← readX rs1.toNat
  let b ← readX rs2.toNat
  destX rd.toNat
  writeXAfter rd.toNat (f a b) cycles
  retireM 4

/-- Go to a target: cause 0 where it is not a multiple of 4 (13 R319). -/
def goTo (target : Word) : M Unit := if wfld target 1 0 ≠ 0 then trapM 0 target else jumpM target

/-- A branch by imm[12:1]. -/
def branch (rs1 rs2 : Reg) (imm : BitVec 12) (c : Word → Word → Bool) : M Unit := do
  let a ← readX rs1.toNat
  let b ← readX rs2.toNat
  let h ← me
  if c a b then goTo (h.pc + (imm.signExtend 64 <<< 1)) else retireM 4

/-- A jump that links. -/
def link (rd : Reg) (target : Word) : M Unit := do
  destX rd.toNat
  if wfld target 1 0 ≠ 0 then trapM 0 target
  else do
    let h ← me
    writeX rd.toNat (h.pc + 4)
    jumpM target

/-- 1 for true, as a word. -/
def boolW (b : Bool) : Word := if b then 1 else 0

/-- ADD (14 R342). -/
def execAdd (rd rs1 rs2 : Reg) (s : State) : Host.Outcome State Fault Refusal :=
  runM (aluR rd rs1 rs2 (fun a b => a + b)) s

/-- SUB (14 R342). -/
def execSub (rd rs1 rs2 : Reg) (s : State) : Host.Outcome State Fault Refusal :=
  runM (aluR rd rs1 rs2 (fun a b => a - b)) s

/-- SLL (14 R342). -/
def execSll (rd rs1 rs2 : Reg) (s : State) : Host.Outcome State Fault Refusal :=
  runM (aluR rd rs1 rs2 (fun a b => a <<< (b.toNat % 64))) s

/-- SLT (14 R342). -/
def execSlt (rd rs1 rs2 : Reg) (s : State) : Host.Outcome State Fault Refusal :=
  runM (aluR rd rs1 rs2 (fun a b => boolW (a.slt b))) s

/-- SLTU (14 R342). -/
def execSltu (rd rs1 rs2 : Reg) (s : State) : Host.Outcome State Fault Refusal :=
  runM (aluR rd rs1 rs2 (fun a b => boolW (a.ult b))) s

/-- XOR (14 R342). -/
def execXor (rd rs1 rs2 : Reg) (s : State) : Host.Outcome State Fault Refusal :=
  runM (aluR rd rs1 rs2 (fun a b => a ^^^ b)) s

/-- SRL (14 R342). -/
def execSrl (rd rs1 rs2 : Reg) (s : State) : Host.Outcome State Fault Refusal :=
  runM (aluR rd rs1 rs2 (fun a b => a >>> (b.toNat % 64))) s

/-- SRA (14 R342). -/
def execSra (rd rs1 rs2 : Reg) (s : State) : Host.Outcome State Fault Refusal :=
  runM (aluR rd rs1 rs2 (fun a b => a.sshiftRight (b.toNat % 64))) s

/-- OR (14 R342). -/
def execOr (rd rs1 rs2 : Reg) (s : State) : Host.Outcome State Fault Refusal :=
  runM (aluR rd rs1 rs2 (fun a b => a ||| b)) s

/-- AND (14 R342). -/
def execAnd (rd rs1 rs2 : Reg) (s : State) : Host.Outcome State Fault Refusal :=
  runM (aluR rd rs1 rs2 (fun a b => a &&& b)) s

/-- ADDW (14 R342). -/
def execAddw (rd rs1 rs2 : Reg) (s : State) : Host.Outcome State Fault Refusal :=
  runM (aluR rd rs1 rs2 (fun a b => wordOf (a + b))) s

/-- SUBW (14 R342). -/
def execSubw (rd rs1 rs2 : Reg) (s : State) : Host.Outcome State Fault Refusal :=
  runM (aluR rd rs1 rs2 (fun a b => wordOf (a - b))) s

/-- SLLW (14 R342). -/
def execSllw (rd rs1 rs2 : Reg) (s : State) : Host.Outcome State Fault Refusal :=
  runM (aluR rd rs1 rs2 (fun a b => wordOf (a <<< (b.toNat % 32)))) s

/-- SRLW (14 R342). -/
def execSrlw (rd rs1 rs2 : Reg) (s : State) : Host.Outcome State Fault Refusal :=
  runM (aluR rd rs1 rs2 (fun a b => ((a.truncate 32 >>> (b.toNat % 32) : BitVec 32)).signExtend 64)) s

/-- SRAW (14 R342). -/
def execSraw (rd rs1 rs2 : Reg) (s : State) : Host.Outcome State Fault Refusal :=
  runM (aluR rd rs1 rs2 (fun a b => (((a.truncate 32 : BitVec 32)).sshiftRight (b.toNat % 32)).signExtend 64)) s

/-- MUL (14 R344). -/
def execMul (rd rs1 rs2 : Reg) (s : State) : Host.Outcome State Fault Refusal :=
  runM (aluSlow rd rs1 rs2 8 (fun a b => a * b)) s

/-- MULH (14 R344). -/
def execMulh (rd rs1 rs2 : Reg) (s : State) : Host.Outcome State Fault Refusal :=
  runM (aluSlow rd rs1 rs2 8 (fun a b => highHalf (a.toInt * b.toInt))) s

/-- MULHSU (14 R344). -/
def execMulhsu (rd rs1 rs2 : Reg) (s : State) : Host.Outcome State Fault Refusal :=
  runM (aluSlow rd rs1 rs2 8 (fun a b => highHalf (a.toInt * (b.toNat : Int)))) s

/-- MULHU (14 R344). -/
def execMulhu (rd rs1 rs2 : Reg) (s : State) : Host.Outcome State Fault Refusal :=
  runM (aluSlow rd rs1 rs2 8 (fun a b => BitVec.ofNat 64 (a.toNat * b.toNat / 2 ^ 64))) s

/-- DIV (14 R344). -/
def execDiv (rd rs1 rs2 : Reg) (s : State) : Host.Outcome State Fault Refusal :=
  runM (aluSlow rd rs1 rs2 36 (fun a b => BitVec.ofInt 64 (divS a.toInt b.toInt))) s

/-- DIVU (14 R344). -/
def execDivu (rd rs1 rs2 : Reg) (s : State) : Host.Outcome State Fault Refusal :=
  runM (aluSlow rd rs1 rs2 36 (fun a b => BitVec.ofNat 64 (divU 64 a.toNat b.toNat))) s

/-- REM (14 R344). -/
def execRem (rd rs1 rs2 : Reg) (s : State) : Host.Outcome State Fault Refusal :=
  runM (aluSlow rd rs1 rs2 36 (fun a b => BitVec.ofInt 64 (remS a.toInt b.toInt))) s

/-- REMU (14 R344). -/
def execRemu (rd rs1 rs2 : Reg) (s : State) : Host.Outcome State Fault Refusal :=
  runM (aluSlow rd rs1 rs2 36 (fun a b => BitVec.ofNat 64 (remU a.toNat b.toNat))) s

/-- MULW (14 R344). -/
def execMulw (rd rs1 rs2 : Reg) (s : State) : Host.Outcome State Fault Refusal :=
  runM (aluSlow rd rs1 rs2 8 (fun a b => wordOf (a * b))) s

/-- DIVW (14 R344). -/
def execDivw (rd rs1 rs2 : Reg) (s : State) : Host.Outcome State Fault Refusal :=
  runM (aluSlow rd rs1 rs2 20 (fun a b => wordOf (BitVec.ofInt 64 (divS (sintOf 32 a.toNat) (sintOf 32 b.toNat))))) s

/-- DIVUW (14 R344). -/
def execDivuw (rd rs1 rs2 : Reg) (s : State) : Host.Outcome State Fault Refusal :=
  runM (aluSlow rd rs1 rs2 20 (fun a b => wordOf (BitVec.ofNat 64 (divU 32 (a.toNat % 2 ^ 32) (b.toNat % 2 ^ 32))))) s

/-- REMW (14 R344). -/
def execRemw (rd rs1 rs2 : Reg) (s : State) : Host.Outcome State Fault Refusal :=
  runM (aluSlow rd rs1 rs2 20 (fun a b => wordOf (BitVec.ofInt 64 (remS (sintOf 32 a.toNat) (sintOf 32 b.toNat))))) s

/-- REMUW (14 R344). -/
def execRemuw (rd rs1 rs2 : Reg) (s : State) : Host.Outcome State Fault Refusal :=
  runM (aluSlow rd rs1 rs2 20 (fun a b => wordOf (BitVec.ofNat 64 (remU (a.toNat % 2 ^ 32) (b.toNat % 2 ^ 32))))) s

/-- ADDI (14 R342). -/
def execAddi (rd rs1 : Reg) (imm : BitVec 12) (s : State) : Host.Outcome State Fault Refusal :=
  runM (aluI rd rs1 (fun a => a + sext12 imm)) s

/-- SLTI (14 R342). -/
def execSlti (rd rs1 : Reg) (imm : BitVec 12) (s : State) : Host.Outcome State Fault Refusal :=
  runM (aluI rd rs1 (fun a => boolW (a.slt (sext12 imm)))) s

/-- SLTIU (14 R342). -/
def execSltiu (rd rs1 : Reg) (imm : BitVec 12) (s : State) : Host.Outcome State Fault Refusal :=
  runM (aluI rd rs1 (fun a => boolW (a.ult (sext12 imm)))) s

/-- XORI (14 R342). -/
def execXori (rd rs1 : Reg) (imm : BitVec 12) (s : State) : Host.Outcome State Fault Refusal :=
  runM (aluI rd rs1 (fun a => a ^^^ sext12 imm)) s

/-- ORI (14 R342). -/
def execOri (rd rs1 : Reg) (imm : BitVec 12) (s : State) : Host.Outcome State Fault Refusal :=
  runM (aluI rd rs1 (fun a => a ||| sext12 imm)) s

/-- ANDI (14 R342). -/
def execAndi (rd rs1 : Reg) (imm : BitVec 12) (s : State) : Host.Outcome State Fault Refusal :=
  runM (aluI rd rs1 (fun a => a &&& sext12 imm)) s

/-- ADDIW (14 R342). -/
def execAddiw (rd rs1 : Reg) (imm : BitVec 12) (s : State) : Host.Outcome State Fault Refusal :=
  runM (aluI rd rs1 (fun a => wordOf (a + sext12 imm))) s

/-- SLLI (14 R342). -/
def execSlli (rd rs1 : Reg) (shamt : BitVec 6) (s : State) : Host.Outcome State Fault Refusal :=
  runM (aluI rd rs1 (fun a => a <<< shamt.toNat)) s

/-- SRLI (14 R342). -/
def execSrli (rd rs1 : Reg) (shamt : BitVec 6) (s : State) : Host.Outcome State Fault Refusal :=
  runM (aluI rd rs1 (fun a => a >>> shamt.toNat)) s

/-- SRAI (14 R342). -/
def execSrai (rd rs1 : Reg) (shamt : BitVec 6) (s : State) : Host.Outcome State Fault Refusal :=
  runM (aluI rd rs1 (fun a => a.sshiftRight shamt.toNat)) s

/-- SLLIW (14 R342). -/
def execSlliw (rd rs1 : Reg) (shamt : BitVec 5) (s : State) : Host.Outcome State Fault Refusal :=
  runM (aluI rd rs1 (fun a => wordOf (a <<< shamt.toNat))) s

/-- SRLIW (14 R342). -/
def execSrliw (rd rs1 : Reg) (shamt : BitVec 5) (s : State) : Host.Outcome State Fault Refusal :=
  runM (aluI rd rs1 (fun a => ((a.truncate 32 >>> shamt.toNat : BitVec 32)).signExtend 64)) s

/-- SRAIW (14 R342). -/
def execSraiw (rd rs1 : Reg) (shamt : BitVec 5) (s : State) : Host.Outcome State Fault Refusal :=
  runM (aluI rd rs1 (fun a => (((a.truncate 32 : BitVec 32)).sshiftRight shamt.toNat).signExtend 64)) s

/-- LUI (14 R342). -/
def execLui (rd : Reg) (imm : BitVec 20) (s : State) : Host.Outcome State Fault Refusal :=
  runM (aluU rd (fun _ => imm.signExtend 64 <<< 12)) s

/-- AUIPC (14 R342). -/
def execAuipc (rd : Reg) (imm : BitVec 20) (s : State) : Host.Outcome State Fault Refusal :=
  runM (aluU rd (fun pc => pc + (imm.signExtend 64 <<< 12))) s

/-- JAL (14 R342); the operand is imm[20:1]. -/
def execJal (rd : Reg) (imm : BitVec 20) (s : State) : Host.Outcome State Fault Refusal :=
  runM (do
    let h ← me
    link rd (h.pc + (imm.signExtend 64 <<< 1))) s

/-- JALR (14 R342). -/
def execJalr (rd rs1 : Reg) (imm : BitVec 12) (s : State) : Host.Outcome State Fault Refusal :=
  runM (do
    let a ← readX rs1.toNat
    link rd (setWfld (a + sext12 imm) 0 0 0)) s

/-- BEQ (14 R342). -/
def execBeq (rs1 rs2 : Reg) (imm : BitVec 12) (s : State) : Host.Outcome State Fault Refusal :=
  runM (branch rs1 rs2 imm (fun a b => a == b)) s

/-- BNE (14 R342). -/
def execBne (rs1 rs2 : Reg) (imm : BitVec 12) (s : State) : Host.Outcome State Fault Refusal :=
  runM (branch rs1 rs2 imm (fun a b => a != b)) s

/-- BLT (14 R342). -/
def execBlt (rs1 rs2 : Reg) (imm : BitVec 12) (s : State) : Host.Outcome State Fault Refusal :=
  runM (branch rs1 rs2 imm (fun a b => a.slt b)) s

/-- BGE (14 R342). -/
def execBge (rs1 rs2 : Reg) (imm : BitVec 12) (s : State) : Host.Outcome State Fault Refusal :=
  runM (branch rs1 rs2 imm (fun a b => !a.slt b)) s

/-- BLTU (14 R342). -/
def execBltu (rs1 rs2 : Reg) (imm : BitVec 12) (s : State) : Host.Outcome State Fault Refusal :=
  runM (branch rs1 rs2 imm (fun a b => a.ult b)) s

/-- BGEU (14 R342). -/
def execBgeu (rs1 rs2 : Reg) (imm : BitVec 12) (s : State) : Host.Outcome State Fault Refusal :=
  runM (branch rs1 rs2 imm (fun a b => !a.ult b)) s

end Sys2Proof.Machine
end

