-- ==== Sys2Proof/Machine/Units.lean ====
section
/-! DEFINITION. The units of a work graph: the mesh distributor, the rasterisers, the blend units and the Gallery's RAY records (06
R128–R135, R148–R151), the optimiser engine (06 R145, R146), and the end of a graph (03 R82, R474). -/

namespace Sys2Proof.Machine

/- What every unit does (06 R128). -/

/-- Whether a record has a type and no bit outside named fields, and keeps a limit; a unit stops at any other. -/
def recordOk (type : Nat) (layout : List (Nat × Nat × Nat)) (limit : Bool) (r : BitVec 512) : GM Unit :=
  if pFld r 0 1 = type ∧ onlyNamed ((0, 0, 8) :: layout) r ∧ limit then pure () else endG .malformed

/-- Replace a unit. -/
def unitPut (u : AgentUnit) (s : State) : State :=
  { s with units := s.units.map (fun x => if x.graph = u.graph ∧ x.node = u.node then u else x) }

/-- Pop the head record of a bin of the unit's input: HEAD advances. -/
def unitPop (u : AgentUnit) (bin : Nat) : GM (Option (Nat × BitVec 512)) :=
  match u.held with
  | some e => pure (some e)
  | none => do
    match ← lqPeek u.input bin with
    | none => pure none
    | some r => do
      lqClaim u.input bin 1
      pure (some (bin, r))

/-- One step of a unit on a bin: it pops a record where it holds none, and pushes the record's next output; after the last, FREED
advances. work answers output number k of a record, as its bin and bytes. -/
def unitWork (u : AgentUnit) (bin : Nat) (work : BitVec 512 → Nat → GM (Option (Nat × BitVec 512))) : GM Unit := do
  match ← unitPop u bin with
  | none => endG (.wait .readyTask)
  | some (b, r) => do
    match ← work r u.carry with
    | none => do
      lqFree u.input b 1
      gMod (unitPut { u with held := none, carry := 0 })
    | some (ob, out) => do
      let s ← gState
      if lqBins (lqDesc s u.output) ≤ ob then endG .malformed
      else do
        lqPush u.output ob out
        gMod (unitPut { u with held := some (b, r), carry := u.carry + 1 })

/-- A step of a unit: none where it waits. At a bad record or a fault the unit stops and the graph holds the failure. -/
def unitTry (u : AgentUnit) (bin : Nat) (work : AgentUnit → BitVec 512 → Nat → GM (Option (Nat × BitVec 512))) (s : State) : Option State :=
  match graphFind s u.graph with
  | none => none
  | some g =>
    if u.stopped ∨ graphStopped s g ∨ partitionBusy s g.fn then none
    else match runG g.fn (unitWork u bin (work u)) s with
      | (.ok _, t) => some (commitAll t)
      | (.error (.wait _), _) => none
      | (.error e, t) => some (failGraph u.graph e.err (unitPut { u with stopped := true } t))

/-- The unit that an AGENT node of a kind owns. -/
def unitOfNode (s : State) (graph node kind : Nat) : Option AgentUnit :=
  s.units.find? (fun u => u.graph = graph && u.node = node && u.kind = kind)

/- The mesh distributor (06 R131). -/

/-- MESHLET number k of a DRAW. -/
def meshlet (u : AgentUnit) (r : BitVec 512) (k : Nat) : GM (Option (Nat × BitVec 512)) := do
  let n := pFld r 0x10 4
  recordOk 0x10 [(8, 0, 64), (0x10, 0, 32), (0x14, 0, 32), (0x18, 0, 64)] (pFld r 8 8 % 4 = 0 && 1 ≤ n && n < 2 ^ 31) r
  let top := pBits u.config 0 6 0
  let first := k * top
  if n ≤ first then pure none
  else pure (some (0, BitVec.ofNat 512 (0x11 + (pFld r 8 8 + 12 * first) % 2 ^ 64 * 2 ^ 64 + min top (n - first) * 2 ^ 128
    + pFld r 0x14 4 * 2 ^ 160 + pFld r 0x18 8 * 2 ^ 192 + first * 2 ^ 256)))

/-- The lowest bin of a unit's input with a pending record. -/
def pendingBin (s : State) (u : AgentUnit) : Nat :=
  match lqFind s u.input with
  | none => 0
  | some q =>
    let v := lqDesc s u.input
    ((List.range (lqBins v)).find? (fun b => match (runFn q.fn (binAt v b) s).1 with
      | .ok x => x.pending ≠ 0
      | .error _ => true)).getD 0

/-- MESH_DISTRIBUTE (06 R131). -/
def execMeshDistribute (graph node : Nat) (s : State) : Host.Outcome State Fault Refusal :=
  match unitOfNode s graph node 1 with
  | none => .next s
  | some u => .next ((unitTry u (pendingBin s u) meshlet s).getD s)

/- The rasteriser (06 R132, R133). -/

/-- A triangle on the grid of 1/256 pixel, wound so that its area is positive. -/
structure Tri where
  x : List Int
  y : List Int

/-- The edge function of edge i at a point. -/
def Tri.edge (t : Tri) (i : Nat) (px py : Int) : Int :=
  let ax := nth 0 t.x i
  let ay := nth 0 t.y i
  let bx := nth 0 t.x ((i + 1) % 3)
  let by_ := nth 0 t.y ((i + 1) % 3)
  (bx - ax) * (py - ay) - (by_ - ay) * (px - ax)

/-- Whether an edge is a top edge or a left edge. -/
def Tri.inclusive (t : Tri) (i : Nat) : Bool :=
  let dx := nth 0 t.x ((i + 1) % 3) - nth 0 t.x i
  let dy := nth 0 t.y ((i + 1) % 3) - nth 0 t.y i
  (dy = 0 && 0 < dx) || dy < 0

/-- Whether the centre of a pixel is covered. -/
def Tri.covers (t : Tri) (x y : Nat) : Bool :=
  (List.range 3).all (fun i =>
    let e := t.edge i (256 * x + 128) (256 * y + 128)
    0 < e || (e = 0 && t.inclusive i))

/-- The coverage of the block at column bx and row by of a target. -/
def Tri.block (t : Tri) (w h bx by_ : Nat) : Nat :=
  ((List.range 32).filter (fun c =>
    let x := 8 * bx + c % 8
    let y := 4 * by_ + c / 8
    decide (x < w) && decide (y < h) && t.covers x y)).foldl (fun m c => m + 2 ^ c) 0

/-- Twice the signed area of three vertices. -/
def area2 (x y : List Int) : Int :=
  (nth 0 x 1 - nth 0 x 0) * (nth 0 y 2 - nth 0 y 0) - (nth 0 x 2 - nth 0 x 0) * (nth 0 y 1 - nth 0 y 0)

/-- The vertices of a TRI record: x, y, and the patterns of z. -/
def triVertices (r : BitVec 512) : List Int × List Int × List Nat :=
  let c (k : Nat) : Int := sintOf 32 (pFld r (4 + 4 * k) 4)
  ([c 0, c 2, c 4], [c 1, c 3, c 5], [pFld r 0x1C 4, pFld r 0x20 4, pFld r 0x24 4])

/-- The blocks with coverage of a triangle, in ascending row and column: (bx, by, coverage). -/
def triBlocks (t : Tri) (w h : Nat) : List (Nat × Nat × Nat) :=
  let lo (l : List Int) : Nat := (l.foldl min (l.headD 0) / 256).toNat
  let hi (l : List Int) (n : Nat) : Nat := min (n - 1) (l.foldl max (l.headD 0) / 256).toNat
  let rows := (List.range (hi t.y h / 4 + 1)).drop (lo t.y / 4)
  let cols := (List.range (hi t.x w / 8 + 1)).drop (lo t.x / 8)
  rows.flatMap (fun by_ => cols.filterMap (fun bx =>
    let m := t.block w h bx by_
    if m = 0 then none else some (bx, by_, m)))

/-- z at the block origin and its two slopes per pixel, each rounded once; the canonical NaN where a vertex z is not finite. -/
def triDepth (x y : List Int) (z : List Nat) (bx by_ : Nat) : List Nat :=
  match z.mapM (Q.ofBits 6) with
  | none => [canonNaN 6, canonNaN 6, canonNaN 6]
  | some q =>
    let zero := Q.ofInt 0
    let z0 := nth zero q 0
    let d1 := (nth zero q 1).sub z0
    let d2 := (nth zero q 2).sub z0
    let a := Q.ofInt (area2 x y)
    let i (v : List Int) (k : Nat) : Q := Q.ofInt (nth 0 v k - nth 0 v 0)
    let gx := ((d1.mul (i y 2)).sub (d2.mul (i y 1))).div a
    let gy := ((d2.mul (i x 1)).sub (d1.mul (i x 2))).div a
    let px := Q.ofInt (256 * 8 * bx - nth 0 x 0)
    let py := Q.ofInt (256 * 4 * by_ - nth 0 y 0)
    [(roundQ 6 0 ((z0.add (gx.mul px)).add (gy.mul py))).bits, (roundQ 6 0 (gx.mul (Q.ofInt 256))).bits,
     (roundQ 6 0 (gy.mul (Q.ofInt 256))).bits]

/-- BLOCK number k of a TRI, with its tile bin. -/
def triBlock (u : AgentUnit) (r : BitVec 512) (k : Nat) : GM (Option (Nat × BitVec 512)) := do
  recordOk 0x12 [(4, 0, 256), (0x24, 0, 32), (0x28, 0, 32), (0x2C, 0, 32), (0x30, 0, 64)] true r
  let (x, y, z) := triVertices r
  let a := area2 x y
  let cull := pBits u.config 4 1 0
  if a = 0 ∨ (cull = 1 ∧ a < 0) ∨ (cull = 2 ∧ 0 < a) then pure none
  else
    let swap (l : List Int) : List Int := if a < 0 then [nth 0 l 0, nth 0 l 2, nth 0 l 1] else l
    match (triBlocks { x := swap x, y := swap y } (pFld u.config 0 2) (pFld u.config 2 2))[k]? with
    | none => pure none
    | some (bx, by_, m) =>
      let d := triDepth x y z bx by_
      pure (some (4 * by_ / 32 * pFld u.config 5 1 + 8 * bx / 32,
        BitVec.ofNat 512 (0x13 + bx * 2 ^ 32 + by_ * 2 ^ 48 + m * 2 ^ 64 + nth 0 d 0 * 2 ^ 96 + nth 0 d 1 * 2 ^ 128 + nth 0 d 2 * 2 ^ 160
          + pFld r 0x28 4 * 2 ^ 192 + pFld r 0x2C 4 * 2 ^ 224 + pFld r 0x30 8 * 2 ^ 256)))

/-- RASTERISE (06 R132, R133). -/
def execRasterise (graph node bin : Nat) (s : State) : Host.Outcome State Fault Refusal :=
  match unitOfNode s graph node 2 with
  | none => .next s
  | some u => .next ((unitTry u bin triBlock s).getD s)

/- The blend unit (06 R134). -/

/-- An exact value, or the result of an operation that has none. -/
abbrev XVal := Option Ext

/-- Sum and product of extended reals; none where they have no value. -/
def xAdd (a b : XVal) : XVal :=
  match a, b with
  | some (.fin p), some (.fin q) => some (.fin (p.add q))
  | some .pinf, some .ninf => none
  | some .ninf, some .pinf => none
  | some (.fin _), some e => some e
  | some e, some _ => some e
  | _, _ => none
def xMul (a b : XVal) : XVal :=
  let sign (e : Ext) : Int := match e with
    | .ninf => -1
    | .pinf => 1
    | .fin q => if q.n < 0 then -1 else if q.n = 0 then 0 else 1
  match a, b with
  | some (.fin p), some (.fin q) => some (.fin (p.mul q))
  | some x, some y =>
    let g := sign x * sign y
    if g = 0 then none else some (if g < 0 then .ninf else .pinf)
  | _, _ => none

/-- 1 − a. -/
def xOneMinus (a : XVal) : XVal := xAdd (some (.fin (Q.ofInt 1))) (xMul (some (.fin (Q.ofInt (-1)))) a)

/-- The result of an operation: 0 replace, 1 source-over, 2 additive. -/
def blendOp (op : Nat) (s a d : XVal) : XVal :=
  match op with
  | 0 => s
  | 1 => xAdd (xMul s a) (xMul d (xOneMinus a))
  | _ => xAdd s d

/-- A value clamped into [0, 1]; NaN becomes 0. -/
def clamp01 (v : XVal) : XVal :=
  match v with
  | none => some (.fin (Q.ofInt 0))
  | some e => some ((e.max (.fin (Q.ofInt 0))).min (.fin (Q.ofInt 1)))

/-- The nearest code of an unorm channel, ties to even. -/
def toUnorm (top : Nat) (v : XVal) : Nat :=
  match v with
  | some (.fin q) => min top (((q.mul (Q.ofInt top)).round).toNat)
  | _ => 0

/-- The bits to which irrational sRGB values are enclosed; two values that agree to these bits are taken as equal. -/
def srgbBits : Nat := 256

/-- A decoded sRGB code in units of 2^−256: its floor. -/
def srgbUnits (c : Nat) : Nat :=
  match texSrgb c with
  | .rat q => (q.n.toNat * 2 ^ srgbBits) / q.d
  | .root n d => pow24 srgbBits n d
  | _ => 0

/-- The code whose decoded value is nearest to x in units of 2^−256, ties to the even code. -/
def nearestSrgb (x : Nat) : Nat :=
  (List.range 255).foldl (fun c k =>
    let m := srgbUnits k + srgbUnits (k + 1)
    if m < 2 * x ∨ (m = 2 * x ∧ k % 2 = 1) then k + 1 else c) 0

/-- An sRGB channel blended: the result is linear in the decoded target, s·p + d·q, with rational s, p and q. -/
def blendSrgb (op : Nat) (s a : XVal) (code : Nat) : Nat :=
  let q (v : XVal) : Q := match v with
    | some (.fin x) => x
    | _ => Q.ofInt 0
  let one := Q.ofInt 1
  let (c, k) := match op with
    | 0 => (q s, Q.ofInt 0)
    | 1 => ((q s).mul (q a), one.sub (q a))
    | _ => (q s, one)
  let units := ((c.mul (Q.ofInt (2 ^ srgbBits : Nat))).add (k.mul (Q.ofInt (srgbUnits code)))).floor
  nearestSrgb units.toNat

/-- A pixel of a target blended with four source channels. -/
def blendPixel (fmt op old : Nat) (src : List XVal) : Nat :=
  let get (k : Nat) : XVal := nth none src k
  let c (k : Nat) : XVal := if fmt = 3 then get k else clamp01 (get k)
  let un (top v : Nat) : XVal := some (.fin { n := v, d := top })
  let unorm (top hi lo k : Nat) : Nat := toUnorm top (blendOp op (c k) (c 3) (un top (fld old hi lo))) * 2 ^ lo
  match fmt with
  | 0 => ((List.range 3).map (fun k => blendSrgb op (c k) (c 3) (byteFld old k 1) * 2 ^ (8 * k))).foldl (· + ·) (unorm 255 31 24 3)
  | 1 => ((List.range 4).map (fun k => unorm 255 (8 * k + 7) (8 * k) k)).foldl (· + ·) 0
  | 2 => ((List.range 3).map (fun k => unorm 1023 (10 * k + 9) (10 * k) k)).foldl (· + ·) (unorm 3 31 30 3)
  | _ => ((List.range 4).map (fun k => (match blendOp op (c k) (c 3) (Ext.ofBits 4 (byteFld old (2 * k) 2)) with
      | none => canonNaN 4
      | some e => roundExt 4 e) * 2 ^ (16 * k))).foldl (· + ·) 0

/-- The depth test: 0 off, 1 less, 2 less or equal; a NaN fails. -/
def depthPasses (test src dst : Nat) : Bool :=
  test = 0 || (match Ext.ofBits 6 src, Ext.ofBits 6 dst with
    | some a, some b => a.le b && (test = 2 || !b.le a)
    | _, _ => false)

/-- One covered pixel of a COLOUR record. -/
def blendAt (cfg : BitVec 512) (block bx by_ c : Nat) : GM Unit := do
  let x := 8 * bx + c % 8
  let y := 4 * by_ + c / 8
  let fmt := pBits cfg 8 19 16
  let test := pBits cfg 8 23 22
  let n := if fmt = 3 then 8 else 4
  let va := (pFld cfg 0 8 + y * (64 * pBits cfg 8 15 0) + x * n) % 2 ^ 64
  let za := (pFld cfg 0x10 8 + y * (64 * pFld cfg 0x18 2) + 4 * x) % 2 ^ 64
  let z := byteFld block (512 + 4 * c) 4
  let old ← (if test = 0 then pure 0 else gNum za 4)
  if !depthPasses test z old then pure ()
  else do
    let t ← gNum va n
    let src := (List.range 4).map (fun k => Ext.ofBits 6 (byteFld block (16 * c + 4 * k) 4))
    gEngineWrite va (leBytes n (blendPixel fmt (pBits cfg 8 21 20) t src)) 2
    if test = 0 then pure () else gEngineWrite za (leBytes 4 z) 2

/-- A COLOUR record: the covered pixels in ascending order. -/
def blendRecord (u : AgentUnit) (r : BitVec 512) (_ : Nat) : GM (Option (Nat × BitVec 512)) := do
  recordOk 0x14 [(4, 0, 32), (8, 0, 32), (0x10, 0, 64)] (pFld r 0x10 8 % 64 = 0) r
  let block ← gNum (pFld r 0x10 8) 640
  ((List.range 32).filter (fun c => bitOf (pFld r 8 4) c)).forM (fun c => blendAt u.config block (pFld r 4 2) (pFld r 6 2) c)
  pure none

/-- BLEND (06 R134). -/
def execBlend (graph node bin : Nat) (s : State) : Host.Outcome State Fault Refusal :=
  match unitOfNode s graph node 4 with
  | none => .next s
  | some u => .next ((unitTry u bin blendRecord s).getD s)

/- The Gallery's RAY records (06 R148–R151). -/

/-- The HIT record of a RAY. -/
def hitRecord (r : BitVec 512) (status : Nat) (h : Hit) : BitVec 512 :=
  BitVec.ofNat 512 (0x31 + status * 2 ^ 32 + h.key * 2 ^ 64 + h.t * 2 ^ 128 + h.addr * 2 ^ 192 + byteFld r.toNat 0x30 16 * 2 ^ 384)

/-- The output of a RAY: one HIT record. -/
def rayRecord (_ : AgentUnit) (r : BitVec 512) (k : Nat) : GM (Option (Nat × BitVec 512)) := do
  recordOk 0x30 [(4, 0, 1), (8, 0, 192), (0x20, 0, 64), (0x28, 0, 64), (0x30, 0, 128)] true r
  if k ≠ 0 then pure none
  else do
    let w := (List.range 8).map (fun j => pFld r (8 + 4 * j) 4)
    match ← tryG (rayQuery (pFld r 0x28 8) w (pBits r 4 0 0 = 1)) with
    | .ok (some h) => pure (some (0, hitRecord r 1 h))
    | .ok none => pure (some (0, hitRecord r 0 { t := 0, key := 0, addr := 0 }))
    | .error .malformed => pure (some (0, hitRecord r 4 { t := 0, key := 0, addr := 0 }))
    | .error e => endG e

/-- RAY_TRAVERSAL (06 R149). -/
def execRayTraversal (graph node bin : Nat) (s : State) : Host.Outcome State Fault Refusal :=
  match unitOfNode s graph node 3 with
  | none => .next s
  | some u => .next ((unitTry u bin rayRecord s).getD s)

/-- A record in the input of an AV1 encoder node: R129 lists no record type that it consumes, so the unit stops (06 R128). -/
def av1Record (_ : AgentUnit) (_ : BitVec 512) (_ : Nat) : GM (Option (Nat × BitVec 512)) := endG .malformed

/-- What a unit of a kind does with a record. -/
def unitKindWork (kind : Nat) : AgentUnit → BitVec 512 → Nat → GM (Option (Nat × BitVec 512)) :=
  match kind with
  | 1 => meshlet
  | 2 => triBlock
  | 3 => rayRecord
  | 4 => blendRecord
  | _ => av1Record

/-- The bin on which a unit can make a step now. -/
def unitReady (s : State) (u : AgentUnit) : Option Nat :=
  let v := lqDesc s u.input
  if u.stopped then none
  else (List.range (lqBins v)).find? (fun b => (unitTry u b (unitKindWork u.kind) s).isSome)

/- The optimiser engine (06 R145, R146). -/

/-- The six bounds that contain two boxes; a NaN bound takes no part. -/
def boxUnion (a b : List Nat) : List Nat :=
  let pick (less : Bool) (x y : Nat) : Nat :=
    if (decodeF 6 x).isNaN then y
    else if (decodeF 6 y).isNaN then x
    else if (f32Order x < f32Order y) = less then x else y
  (List.range 6).map (fun k => pick (k < 3) (nth 0 a k) (nth 0 b k))

/-- Child slot k of a node of 192 bytes. -/
def slotOf (v k : Nat) : Nat := byteFld v (0x40 + 32 * k) 32

/-- The REF of a slot, and its box. -/
def slotRef (x : Nat) : Nat := byteFld x 24 8
def slotBox (x : Nat) : List Nat := sixAt x 0

/-- Whether a slot names a node at a VA. -/
def slotNames (x va : Nat) : Bool := slotRef x % 4 = 1 && refAddr (slotRef x) = va

/-- The union of the boxes of a node's children. -/
def childrenBox (v : Nat) : Option (List Nat) :=
  (List.range (byteFld v 4 1)).foldl (fun acc k => match acc with
    | none => some (slotBox (slotOf v k))
    | some b => some (boxUnion b (slotBox (slotOf v k)))) none

/-- Half the surface of a box in units of 2^−298; a box with a NaN or an infinite bound counts nothing. -/
def boxSurface (b : List Nat) : Int :=
  match b.mapM f32Grid with
  | none => 0
  | some g =>
    let side (k : Nat) : Int := nth 0 g (k + 3) - nth 0 g k
    side 0 * side 1 + side 1 * side 2 + side 2 * side 0

/-- The nodes that a change concerns: the VA of each and its 192 bytes. -/
abbrev Nodes := List (Nat × Nat)

/-- A write of a change: VA, bytes, value. -/
abbrev Edit := Nat × Nat × Nat

/-- The bytes of a node. -/
def Nodes.at_ (m : Nodes) (va : Nat) : Nat := ((m.find? (fun e => e.1 = va)).map (·.2)).getD 0

/-- The nodes after writes. -/
def Nodes.edit (m : Nodes) (l : List Edit) : Nodes :=
  l.foldl (fun m (va, n, x) => m.map (fun e =>
    if e.1 ≤ va ∧ va < e.1 + 192 then (e.1, setFld e.2 (8 * (va - e.1 + n) - 1) (8 * (va - e.1)) x) else e)) m

/-- The summed half surface of the boxes of all slots of nodes. -/
def Nodes.surface (m : Nodes) : Int :=
  (m.flatMap (fun e => (List.range (byteFld e.2 4 1)).map (fun k => boxSurface (slotBox (slotOf e.2 k))))).foldl (· + ·) 0

/-- The writes that put a slot into the free place of a node, and those that take slot k out of one. -/
def Nodes.addSlot (m : Nodes) (va x : Nat) : List Edit :=
  let n := byteFld (m.at_ va) 4 1
  [(va + 0x40 + 32 * n, 32, x), (va + 4, 1, n + 1)] ++ (if slotRef x % 4 = 1 then [(refAddr (slotRef x) + 8, 8, va)] else [])
def Nodes.dropSlot (m : Nodes) (va k : Nat) : List Edit :=
  let v := m.at_ va
  let n := byteFld v 4 1
  (List.range (n - 1 - k)).map (fun i => (va + 0x40 + 32 * (k + i), 32, slotOf v (k + i + 1)))
    ++ [(va + 4, 1, n - 1), (va + 0x40 + 32 * (n - 1), 32, 0)]

/-- The write of the box of a node in its parent. -/
def Nodes.rebox (m : Nodes) (parent va : Nat) (f : List Nat → List Nat) : List Edit :=
  let v := m.at_ parent
  match (List.range (byteFld v 4 1)).find? (fun k => slotNames (slotOf v k) va) with
  | none => []
  | some k =>
    let b := f (slotBox (slotOf v k))
    [(parent + 0x40 + 32 * k, 24, (List.range 6).foldl (fun y j => y + nth 0 b j * 2 ^ (32 * j)) 0)]

/-- The writes that rebox the nodes of a chain, each in the next, from the bottom up. -/
def Nodes.reboxUp (m : Nodes) (f : Nodes → Nat → List Nat → List Nat) : List Nat → List Edit
  | a :: b :: rest =>
    let l := m.rebox b a (f m a)
    l ++ (m.edit l).reboxUp f (b :: rest)
  | _ => []

/-- The writes of a change in the order of R146, in six groups: locks, grown boxes, new references, old references, shrunk boxes, and
VERSION + 1 with LOCK clear. grow lists the chains whose boxes grow by a box, moves the slots that go to a node, drops the slots
that leave one. -/
def changeWrites (m : Nodes) (grow : List (List Nat × List Nat)) (moves drops : List (Nat × Nat)) (shrink : List (List Nat)) : Nodes × List (List Edit) :=
  let step (x : Nodes × List (List Edit)) (f : Nodes → List Edit) : Nodes × List (List Edit) := (x.1.edit (f x.1), x.2 ++ [f x.1])
  let vls (m : Nodes) (f : Nat → Nat) : List Edit := m.map (fun e => (e.1, 4, f (byteFld e.2 0 4)))
  let each {α : Type} (l : List α) (f : Nodes → α → List Edit) (m : Nodes) : List Edit :=
    (l.foldl (fun (x : Nodes × List Edit) a => (x.1.edit (f x.1 a), x.2 ++ f x.1 a)) (m, [])).2
  let x := step (m, []) (fun m => vls m (fun v => v / 2 * 2 + 1))
  let x := step x (each grow (fun m g => m.reboxUp (fun _ _ old => boxUnion old g.2) g.1))
  let x := step x (each moves (fun m e => m.addSlot e.1 e.2))
  let x := step x (each drops (fun m e => m.dropSlot e.1 e.2))
  let x := step x (each shrink (fun m l => m.reboxUp (fun m a old => (childrenBox (m.at_ a)).getD old) l))
  step x (fun m => vls m (fun v => (v / 2 * 2 + 2) % 2 ^ 32))

/-- Numbers in ascending order. -/
def sortedNats (l : List Nat) : List Nat := l.foldl (fun acc x => acc.takeWhile (· ≤ x) ++ x :: acc.dropWhile (· ≤ x)) []

/-- Read nodes in ascending address order; a locked one is none that this engine may change. -/
def readNodes (l : List Nat) : GM Nodes :=
  (sortedNats l.eraseDups).mapM (fun va => do
    if va % 64 ≠ 0 then endG .malformed
    else do
      let v ← gNum va 192
      if bitOf v 0 ∨ 4 < byteFld v 4 1 then endG .malformed else pure (va, v))

/-- The ancestors of a node by its parent addresses, itself first, at most 33. -/
def ancestors (va : Nat) : Nat → GM (List Nat)
  | 0 => pure []
  | k + 1 => do
    let v ← gNum va 192
    let up := byteFld v 8 8
    if up = 0 then pure [va] else do
      let l ← ancestors up k
      pure (va :: l)

/-- The nodes that slots name. -/
def namedNodes (l : List Nat) : List Nat := l.filterMap (fun x => if slotRef x % 4 = 1 then some (refAddr (slotRef x)) else none)

/-- A rotation: child ps of a node changes places with child cs of its child node. -/
def rotatePlan (parent child ps cs : Nat) : GM (Nodes × Nodes × List (List Edit)) := do
  let m ← readNodes [parent, child]
  let a := slotOf (m.at_ parent) ps
  let b := slotOf (m.at_ child) cs
  let np := byteFld (m.at_ parent) 4 1
  let nc := byteFld (m.at_ child) 4 1
  if parent = child ∨ np ≤ ps ∨ nc ≤ cs ∨ 3 < np ∨ 3 < nc ∨ slotNames a child
      ∨ !(List.range np).any (fun k => slotNames (slotOf (m.at_ parent) k) child) then endG .malformed
  else do
    let m ← readNodes ([parent, child] ++ namedNodes [a, b])
    let (after, w) := changeWrites m [([child, parent], slotBox a)] [(child, a), (parent, b)] [(child, cs), (parent, ps)] [[child, parent]]
    pure (m, after, w)

/-- A re-insertion: one primitive slot moves to the end of another node; boxes grow above the target and shrink above the source, up
to the common ancestor. -/
def reinsertPlan (source target slot : Nat) : GM (Nodes × Nodes × List (List Edit)) := do
  let up ← ancestors source 33
  let down ← ancestors target 33
  match up.find? (fun n => down.contains n) with
  | none => endG .malformed
  | some top => do
    let upto (l : List Nat) : List Nat := l.takeWhile (· ≠ top) ++ [top]
    let m ← readNodes (upto up ++ upto down)
    let x := slotOf (m.at_ source) slot
    if source = target ∨ byteFld (m.at_ source) 4 1 ≤ slot ∨ 3 < byteFld (m.at_ target) 4 1 ∨ slotRef x % 4 ≠ 2 then endG .malformed
    else do
      let (after, w) := changeWrites m [(upto down, slotBox x)] [(target, x)] [(source, slot)] [upto up]
      pure (m, after, w)

/-- A change from its claim (R145): the hierarchy is optimised by this cluster, is not frozen, and the change lowers the summed box surface; the word
of EPOCH, even, with HOLDS = 0, becomes EPOCH + 1. It answers the writes of the change. -/
def claimG (index root : Nat) (c : OptChange) : GM (Nat × List (List Edit)) := do
  let h ← readRoot root
  let e ← gNum ((root + 8) % 2 ^ 64) 8
  let o ← gNum ((root + 0x28) % 2 ^ 64) 8
  if h.frozen ∨ h.epoch % 2 = 1 ∨ e ≠ h.epoch ∨ !bitOf o 0 ∨ fld o 9 1 ≠ index then endG .malformed
  else do
    let (before, after, w) ← (match c with
      | .rotate p ch ps cs => rotatePlan p.toNat ch.toNat ps cs
      | .reinsert a b k => reinsertPlan a.toNat b.toNat k)
    if before.surface ≤ after.surface then endG .malformed
    else do
      gPut ((root + 8) % 2 ^ 64) 8 (h.epoch + 1)
      pure (h.pos, w)

/-- OPTIMISER_CHANGE (06 R145, R146): the claim of a change, whose writes then follow. A change that the hierarchy does not allow is not made, and one
engine makes one change at a time. After a RESIZE has taken the cluster that optimised a hierarchy, no other makes a change there while OPTCL
keeps its value (R158). -/
def execOptimiserChange (cluster : Nat) (root : Word) (change : OptChange) (s : State) : Host.Outcome State Fault Refusal :=
  let p := partOfCluster s cluster
  let index := clusterIndex s cluster
  if clusterOwner s cluster = none ∨ (s.part p).changes.any (fun r => r.cluster = cluster) then .next s
  else match runG p (claimG index root.toNat change) s with
  | (.error _, _) => .next s
  | (.ok (pos, w), t) =>
    if (s.part p).bound.any (fun b => b.1 = pos && b.2.1 = index && b.2.2 ≠ cluster) then .next s
    else .next (t.modPart p (fun q => { q with
      bound := q.bound.filter (fun b => b.1 ≠ pos) ++ [(pos, index, cluster)]
      changes := q.changes ++ [{ cluster := cluster, root := root.toNat, writes := w, since := s.now }] }))

/-- The cycles after its claim from which a change goes before everything else of the device: no node stays locked for more than 512 (06 R146). -/
def changeLate (s : State) (r : OptRun) : Bool := r.since + 384 ≤ s.now

/-- A running change goes on: the next group of its writes, all of them when it is late, and after the last the release of EPOCH. A write that faults
is not made. -/
def optimiserStep (p cluster : Nat) (s : State) : State :=
  match (s.part p).changes.find? (fun r => r.cluster = cluster) with
  | none => s
  | some r =>
    let now := if changeLate s r then r.writes else r.writes.take 1
    let rest := r.writes.drop now.length
    let work : GM Unit := do
      now.flatten.forM (fun (va, n, x) => do
        let _ ← tryG (gPut (va % 2 ^ 64) n x)
        pure ())
      if rest ≠ [] then pure ()
      else do
        let e ← gNum ((r.root + 8) % 2 ^ 64) 4
        gPut ((r.root + 8) % 2 ^ 64) 4 ((e + 1) % 2 ^ 32)
    (runG p work s).2.modPart p (fun q => { q with
      changes := q.changes.filterMap (fun x => if x.cluster ≠ cluster then some x else if rest = [] then none else some { x with writes := rest }) })

/- The end of a graph. -/

/-- Whether the work of a failed graph has ended: no population of it, no started WAIT, and no unit that can go on (03 R474). -/
def failedEnded (s : State) (g : Graph) : Bool :=
  !graphPopulated s g false && !graphStopped s g && !partitionBusy s g.fn
    && !(List.range g.nodes.length).any (fun n => nth .idle g.states n = .started && g.kind n = 4)
    && !s.units.any (fun u => u.graph = g.id && (unitReady s u).isSome)

/-- Whether a graph ends. -/
def graphEnds (s : State) (g : Graph) : Bool :=
  if g.failure.isSome then failedEnded s g
  else !g.rearm && g.states.all (· = .complete) && queuesQuiet s g

/-- GRAPH_END (03 R82, R474): the queues are detached, and a graph without a failure adds to its done_counter. -/
def execGraphEnd (graph : Nat) (s : State) : Host.Outcome State Fault Refusal :=
  match graphFind s graph with
  | none => .next s
  | some g =>
    if !graphEnds s g then .next s
    else
      let s := detachQueues graph s
      let s := { s with graphs := s.graphs.filter (fun x => x.id ≠ graph), units := s.units.filter (fun u => u.graph ≠ graph) }
      if g.failure.isSome then .next (dropStarted g.fn g.q g.seqNo s)
      else
        let done := match startedFind s g.fn g.q g.seqNo with
          | some e => pFld e.packet 0x18 8
          | none => 0
        .next (completeStarted g.fn g.q g.seqNo done s)

end Sys2Proof.Machine
end

