-- ==== Sys2Proof/Machine/VecFp.lean ====
section
/-! DEFINITION. Floating-point arithmetic and conversion (15 R383–R385). -/

namespace Sys2Proof.Machine

/-- A correctly rounded instruction: a function of the format, the rounding mode, sat and the elements. -/
def roundedOp (mult : Nat) (fn : LaneIn → Nat → Nat → Bool → Nat → Nat → Nat → FRes) : LaneOp :=
  elementwise (fun x => mult * laneCycles x) (fun x a b c => fn x x.f.ty.toNat x.rm x.f.sat a b c)

/-- VFADD. -/
def opVfadd : LaneOp := roundedOp 1 (fun _ t rm sat a b _ => fAdd t rm sat a b)
/-- VFSUB. -/
def opVfsub : LaneOp := roundedOp 1 (fun _ t rm sat a b _ => fSub t rm sat a b)
/-- VFMUL. -/
def opVfmul : LaneOp := roundedOp 1 (fun _ t rm sat a b _ => fMul t rm sat a b)
/-- VFMA: imm6[0] negates the product and imm6[1] the addend. -/
def opVfma : LaneOp := roundedOp 1 (fun x t rm sat a b c => fFma t rm sat (x.f.imm.getLsbD 0) (x.f.imm.getLsbD 1) a b c)
/-- VFDIV. -/
def opVfdiv : LaneOp := roundedOp 4 (fun _ t rm sat a b _ => fDiv t rm sat a b)
/-- VFSQRT. -/
def opVfsqrt : LaneOp := roundedOp 4 (fun _ t rm sat a _ _ => fSqrt t rm sat a)
/-- VFRCP. -/
def opVfrcp : LaneOp := roundedOp 4 (fun _ t rm sat a _ _ => fRcp t rm sat a)
/-- VFRSQRT. -/
def opVfrsqrt : LaneOp := roundedOp 4 (fun _ t rm sat a _ _ => fRsqrt t rm sat a)
/-- VFEXP2. -/
def opVfexp2 : LaneOp := roundedOp 6 (fun _ t rm sat a _ _ => fExp2 t rm sat a)
/-- VFLOG2. -/
def opVflog2 : LaneOp := roundedOp 6 (fun _ t rm sat a _ _ => fLog2 t rm sat a)
/-- VFSINPI. -/
def opVfsinpi : LaneOp := roundedOp 6 (fun _ t rm sat a _ _ => fSinCosPi t rm sat false a)
/-- VFCOSPI. -/
def opVfcospi : LaneOp := roundedOp 6 (fun _ t rm sat a _ _ => fSinCosPi t rm sat true a)
/-- VFTANH. -/
def opVftanh : LaneOp := roundedOp 6 (fun _ t rm sat a _ _ => fTanh t rm sat a)
/-- VFMIN. -/
def opVfmin : LaneOp := elementwise laneCycles (fun x a b _ => fMinMax x.f.ty.toNat false a b)
/-- VFMAX. -/
def opVfmax : LaneOp := elementwise laneCycles (fun x a b _ => fMinMax x.f.ty.toNat true a b)

/-- The sign bit of an element of a format. -/
def signBit (t a : Nat) : Nat := a / 2 ^ signPos t % 2

/-- An element with its sign bit replaced. -/
def withSign (t a sign : Nat) : Nat := a % 2 ^ signPos t + sign * 2 ^ signPos t

/-- VFABS. -/
def opVfabs : LaneOp := elementwise laneCycles (fun x a _ _ => { bits := withSign x.f.ty.toNat a 0 })
/-- VFNEG. -/
def opVfneg : LaneOp := elementwise laneCycles (fun x a _ _ =>
  { bits := withSign x.f.ty.toNat a (1 - signBit x.f.ty.toNat a) })
/-- VFCLASS. -/
def opVfclass : LaneOp := elementwise laneCycles (fun x a _ _ => { bits := fClass x.f.ty.toNat a })
/-- VFSGNJ with imm6 = 0. -/
def opVfsgnj : LaneOp := elementwise laneCycles (fun x a b _ =>
  { bits := withSign x.f.ty.toNat a (signBit x.f.ty.toNat b) })
/-- VFSGNJ with imm6 = 1. -/
def opVfsgnjn : LaneOp := elementwise laneCycles (fun x a b _ =>
  { bits := withSign x.f.ty.toNat a (1 - signBit x.f.ty.toNat b) })
/-- VFSGNJ with imm6 = 2. -/
def opVfsgnjx : LaneOp := elementwise laneCycles (fun x a b _ =>
  { bits := withSign x.f.ty.toNat a ((signBit x.f.ty.toNat a + signBit x.f.ty.toNat b) % 2) })

/-- The source and the target format of VCVT (13 R327). -/
def cvtFormats (f : LongFields) : Nat × Nat :=
  let k := f.imm.toNat % 16
  if f.imm.toNat < 32 then (f.ty.toNat, k) else (k, f.ty.toNat)

/-- VCVT (15 R385): element (r, col) is read in the source's width and written in the target's. -/
def opVcvt : LaneOp :=
  { width := fun f => max (fmtBytes (cvtFormats f).1) (fmtBytes (cvtFormats f).2)
    cycles := fun x => max (rowGroups x.vlr (cvtFormats x.f).1) (rowGroups x.vlr (cvtFormats x.f).2)
    step := fun x =>
      let (src, dst) := cvtFormats x.f
      mapElems x (fmtBytes src) (fmtBytes dst) (fun a _ _ => convert src dst x.rm x.f.sat (sintOf 8 x.xb.toNat) a) }

/-- VFADD (15 R383). -/
def execVfadd (f : LongFields) (s : State) : Host.Outcome State Fault Refusal := laneExec (.vfadd f) f opVfadd s

/-- VFSUB (15 R383). -/
def execVfsub (f : LongFields) (s : State) : Host.Outcome State Fault Refusal := laneExec (.vfsub f) f opVfsub s

/-- VFMUL (15 R383). -/
def execVfmul (f : LongFields) (s : State) : Host.Outcome State Fault Refusal := laneExec (.vfmul f) f opVfmul s

/-- VFMA (15 R383). -/
def execVfma (f : LongFields) (s : State) : Host.Outcome State Fault Refusal := laneExec (.vfma f) f opVfma s

/-- VFDIV (15 R383). -/
def execVfdiv (f : LongFields) (s : State) : Host.Outcome State Fault Refusal := laneExec (.vfdiv f) f opVfdiv s

/-- VFSQRT (15 R383). -/
def execVfsqrt (f : LongFields) (s : State) : Host.Outcome State Fault Refusal := laneExec (.vfsqrt f) f opVfsqrt s

/-- VFRCP (15 R383). -/
def execVfrcp (f : LongFields) (s : State) : Host.Outcome State Fault Refusal := laneExec (.vfrcp f) f opVfrcp s

/-- VFRSQRT (15 R383). -/
def execVfrsqrt (f : LongFields) (s : State) : Host.Outcome State Fault Refusal := laneExec (.vfrsqrt f) f opVfrsqrt s

/-- VFMIN (15 R384). -/
def execVfmin (f : LongFields) (s : State) : Host.Outcome State Fault Refusal := laneExec (.vfmin f) f opVfmin s

/-- VFMAX (15 R384). -/
def execVfmax (f : LongFields) (s : State) : Host.Outcome State Fault Refusal := laneExec (.vfmax f) f opVfmax s

/-- VFEXP2 (15 R383). -/
def execVfexp2 (f : LongFields) (s : State) : Host.Outcome State Fault Refusal := laneExec (.vfexp2 f) f opVfexp2 s

/-- VFLOG2 (15 R383). -/
def execVflog2 (f : LongFields) (s : State) : Host.Outcome State Fault Refusal := laneExec (.vflog2 f) f opVflog2 s

/-- VFSINPI (15 R383). -/
def execVfsinpi (f : LongFields) (s : State) : Host.Outcome State Fault Refusal := laneExec (.vfsinpi f) f opVfsinpi s

/-- VFCOSPI (15 R383). -/
def execVfcospi (f : LongFields) (s : State) : Host.Outcome State Fault Refusal := laneExec (.vfcospi f) f opVfcospi s

/-- VFTANH (15 R383). -/
def execVftanh (f : LongFields) (s : State) : Host.Outcome State Fault Refusal := laneExec (.vftanh f) f opVftanh s

/-- VFABS (15 R384). -/
def execVfabs (f : LongFields) (s : State) : Host.Outcome State Fault Refusal := laneExec (.vfabs f) f opVfabs s

/-- VFNEG (15 R384). -/
def execVfneg (f : LongFields) (s : State) : Host.Outcome State Fault Refusal := laneExec (.vfneg f) f opVfneg s

/-- VFCLASS (15 R384). -/
def execVfclass (f : LongFields) (s : State) : Host.Outcome State Fault Refusal := laneExec (.vfclass f) f opVfclass s

/-- VFSGNJ (15 R384). -/
def execVfsgnj (f : LongFields) (s : State) : Host.Outcome State Fault Refusal := laneExec (.vfsgnj f) f opVfsgnj s

/-- VFSGNJN (15 R384). -/
def execVfsgnjn (f : LongFields) (s : State) : Host.Outcome State Fault Refusal := laneExec (.vfsgnjn f) f opVfsgnjn s

/-- VFSGNJX (15 R384). -/
def execVfsgnjx (f : LongFields) (s : State) : Host.Outcome State Fault Refusal := laneExec (.vfsgnjx f) f opVfsgnjx s

/-- VCVT (15 R385). -/
def execVcvt (f : LongFields) (s : State) : Host.Outcome State Fault Refusal := laneExec (.vcvt f) f opVcvt s

end Sys2Proof.Machine
end

