-- ==== Sys2Proof/Machine/VecInt.lean ====
section
/-! DEFINITION. Integer arithmetic (15 R382). -/

namespace Sys2Proof.Machine

/-- An exact integer result: modulo 2^(8w), or saturated under sat (12 R293). -/
def intRes (f : LongFields) (v : Int) : FRes :=
  let w := fmtBytes f.ty.toNat
  if f.sat then
    let (b, k) := satInt w v
    { bits := b, sat := k }
  else { bits := wrapInt (8 * w) v }

/-- An instruction on signed elements. -/
def signedOp (fn : Nat → Int → Int → Int → Int) : LaneOp :=
  elementwise laneCycles (fun x a b c =>
    let n := 8 * fmtBytes x.f.ty.toNat
    intRes x.f (fn n (sintOf n a) (sintOf n b) (sintOf n c)))

/-- An instruction on unsigned elements. -/
def unsignedOp (fn : Nat → Nat → Nat → Nat) : LaneOp :=
  elementwise laneCycles (fun x a b _ =>
    let n := 8 * fmtBytes x.f.ty.toNat
    { bits := fn n a b % 2 ^ n })

/-- Divides take 8 times the cycles (15 R373). -/
def slowly (op : LaneOp) : LaneOp := { op with cycles := fun x => 8 * op.cycles x }

/-- The leading zeros of an n-bit value. -/
def leadingZeros (n a : Nat) : Nat := n - bitLen a

/-- A shift amount: the low log2(8w) bits of b. -/
def shiftBy (n b : Nat) : Nat := b % n

/-- VADD. -/
def opVadd : LaneOp := signedOp (fun _ a b _ => a + b)
/-- VSUB. -/
def opVsub : LaneOp := signedOp (fun _ a b _ => a - b)
/-- VMUL. -/
def opVmul : LaneOp := signedOp (fun _ a b _ => a * b)
/-- VMULH. -/
def opVmulh : LaneOp := signedOp (fun n a b _ => (a * b) / (2 ^ n : Nat))
/-- VMULHU. -/
def opVmulhu : LaneOp := unsignedOp (fun n a b => a * b / 2 ^ n)
/-- VMADD. -/
def opVmadd : LaneOp := signedOp (fun _ a b c => a * b + c)
/-- VDIV. -/
def opVdiv : LaneOp := slowly (signedOp (fun _ a b _ => if b = 0 then -1 else a.tdiv b))
/-- VDIVU. -/
def opVdivu : LaneOp := slowly (unsignedOp (fun n a b => if b = 0 then 2 ^ n - 1 else a / b))
/-- VREM. -/
def opVrem : LaneOp := slowly (signedOp (fun _ a b _ => if b = 0 then a else a.tmod b))
/-- VREMU. -/
def opVremu : LaneOp := slowly (unsignedOp (fun _ a b => if b = 0 then a else a % b))
/-- VMIN. -/
def opVmin : LaneOp := signedOp (fun _ a b _ => min a b)
/-- VMINU. -/
def opVminu : LaneOp := unsignedOp (fun _ a b => min a b)
/-- VMAX. -/
def opVmax : LaneOp := signedOp (fun _ a b _ => max a b)
/-- VMAXU. -/
def opVmaxu : LaneOp := unsignedOp (fun _ a b => max a b)
/-- VAND. -/
def opVand : LaneOp := unsignedOp (fun _ a b => a &&& b)
/-- VOR. -/
def opVor : LaneOp := unsignedOp (fun _ a b => a ||| b)
/-- VXOR. -/
def opVxor : LaneOp := unsignedOp (fun _ a b => a ^^^ b)
/-- VSLL: the shift amount is read unsigned. -/
def opVsll : LaneOp :=
  elementwise laneCycles (fun x a b _ =>
    let n := 8 * fmtBytes x.f.ty.toNat
    intRes x.f (sintOf n a * (2 ^ shiftBy n b : Nat)))
/-- VSRL. -/
def opVsrl : LaneOp := unsignedOp (fun n a b => a / 2 ^ shiftBy n b)
/-- VSRA. -/
def opVsra : LaneOp :=
  elementwise laneCycles (fun x a b _ =>
    let n := 8 * fmtBytes x.f.ty.toNat
    { bits := wrapInt n (sintOf n a / (2 ^ shiftBy n b : Nat)) })
/-- VABS. -/
def opVabs : LaneOp := signedOp (fun _ a _ _ => if a < 0 then -a else a)
/-- VCLZ. -/
def opVclz : LaneOp := unsignedOp (fun n a _ => leadingZeros n a)
/-- VPOPC. -/
def opVpopc : LaneOp := unsignedOp (fun n a _ => popCount a n)
/-- VADDI. -/
def opVaddi : LaneOp :=
  elementwise laneCycles (fun x a _ _ => intRes x.f (sintOf (8 * fmtBytes x.f.ty.toNat) a + x.f.imm.toInt))

/-- VADD (15 R382). -/
def execVadd (f : LongFields) (s : State) : Host.Outcome State Fault Refusal := laneExec (.vadd f) f opVadd s

/-- VSUB (15 R382). -/
def execVsub (f : LongFields) (s : State) : Host.Outcome State Fault Refusal := laneExec (.vsub f) f opVsub s

/-- VMUL (15 R382). -/
def execVmul (f : LongFields) (s : State) : Host.Outcome State Fault Refusal := laneExec (.vmul f) f opVmul s

/-- VMULH (15 R382). -/
def execVmulh (f : LongFields) (s : State) : Host.Outcome State Fault Refusal := laneExec (.vmulh f) f opVmulh s

/-- VMULHU (15 R382). -/
def execVmulhu (f : LongFields) (s : State) : Host.Outcome State Fault Refusal := laneExec (.vmulhu f) f opVmulhu s

/-- VMADD (15 R382). -/
def execVmadd (f : LongFields) (s : State) : Host.Outcome State Fault Refusal := laneExec (.vmadd f) f opVmadd s

/-- VDIV (15 R382). -/
def execVdiv (f : LongFields) (s : State) : Host.Outcome State Fault Refusal := laneExec (.vdiv f) f opVdiv s

/-- VDIVU (15 R382). -/
def execVdivu (f : LongFields) (s : State) : Host.Outcome State Fault Refusal := laneExec (.vdivu f) f opVdivu s

/-- VREM (15 R382). -/
def execVrem (f : LongFields) (s : State) : Host.Outcome State Fault Refusal := laneExec (.vrem f) f opVrem s

/-- VREMU (15 R382). -/
def execVremu (f : LongFields) (s : State) : Host.Outcome State Fault Refusal := laneExec (.vremu f) f opVremu s

/-- VMIN (15 R382). -/
def execVmin (f : LongFields) (s : State) : Host.Outcome State Fault Refusal := laneExec (.vmin f) f opVmin s

/-- VMINU (15 R382). -/
def execVminu (f : LongFields) (s : State) : Host.Outcome State Fault Refusal := laneExec (.vminu f) f opVminu s

/-- VMAX (15 R382). -/
def execVmax (f : LongFields) (s : State) : Host.Outcome State Fault Refusal := laneExec (.vmax f) f opVmax s

/-- VMAXU (15 R382). -/
def execVmaxu (f : LongFields) (s : State) : Host.Outcome State Fault Refusal := laneExec (.vmaxu f) f opVmaxu s

/-- VAND (15 R382). -/
def execVand (f : LongFields) (s : State) : Host.Outcome State Fault Refusal := laneExec (.vand f) f opVand s

/-- VOR (15 R382). -/
def execVor (f : LongFields) (s : State) : Host.Outcome State Fault Refusal := laneExec (.vor f) f opVor s

/-- VXOR (15 R382). -/
def execVxor (f : LongFields) (s : State) : Host.Outcome State Fault Refusal := laneExec (.vxor f) f opVxor s

/-- VSLL (15 R382). -/
def execVsll (f : LongFields) (s : State) : Host.Outcome State Fault Refusal := laneExec (.vsll f) f opVsll s

/-- VSRL (15 R382). -/
def execVsrl (f : LongFields) (s : State) : Host.Outcome State Fault Refusal := laneExec (.vsrl f) f opVsrl s

/-- VSRA (15 R382). -/
def execVsra (f : LongFields) (s : State) : Host.Outcome State Fault Refusal := laneExec (.vsra f) f opVsra s

/-- VABS (15 R382). -/
def execVabs (f : LongFields) (s : State) : Host.Outcome State Fault Refusal := laneExec (.vabs f) f opVabs s

/-- VCLZ (15 R382). -/
def execVclz (f : LongFields) (s : State) : Host.Outcome State Fault Refusal := laneExec (.vclz f) f opVclz s

/-- VPOPC (15 R382). -/
def execVpopc (f : LongFields) (s : State) : Host.Outcome State Fault Refusal := laneExec (.vpopc f) f opVpopc s

/-- VADDI (15 R382). -/
def execVaddi (f : LongFields) (s : State) : Host.Outcome State Fault Refusal := laneExec (.vaddi f) f opVaddi s

end Sys2Proof.Machine
end

