-- ==== Sys2Proof/Machine/VecMask.lean ====
section
/-! DEFINITION. Compares, predicate logic and the mask stack (15 R386–R389). -/

namespace Sys2Proof.Machine

/-- Run an instruction whose result is a predicate, a mask or a scalar: fn gives the new context and the scalar, or the cause and
value of a trap. It takes the lanes for a number of cycles (15 R373). -/
def runMask (i : Instr) (f : LongFields) (cycles : VecEntry → Nat)
    (fn : VecEntry → VecCtx → Except (Nat × Word × VecCtx) (VecCtx × Option Word)) (e : VecEntry) : M Unit := fun s =>
  let h := e.hart
  match heldSource s h i with
  | some m => .error (.trapWith 29 0 (s.modHart h (fun g => g.modVec (fun v => { v with vflt := v.vflt ||| m }))))
  | none =>
    match fn e (s.hart h).vec with
    | .error (c, t, v) => .error (.trapWith c t (s.modHart h (fun g => { g with vec := v })))
    | .ok (v, x) =>
      let n := cycles e
      let t := s.modHart h (fun g => { g with vec := popSources i v })
      let t := match x with
        | some w => setXLate h f.d.toNat w (t.now + n - 1) t
        | none => t
      .ok ((), holdLanes h n (t.now + n) [] t)

/-- Issue and execute a mask instruction. -/
def maskExec (i : Instr) (w : Nat) (run : VecEntry → M Unit) (s : State) : Host.Outcome State Fault Refusal :=
  runM (vecIssue i w run) s

/-- The condition of VCMP on two elements, and whether it raises NV (13 R328; 15 R386). -/
def compareElems (ty cond a b : Nat) : Bool × Bool :=
  let n := 8 * fmtBytes ty
  if ty < 4 then
    let x := sintOf n a
    let y := sintOf n b
    (match cond with
      | 0 => a = b
      | 1 => a ≠ b
      | 2 => x < y
      | 3 => x ≤ y
      | 4 => x > y
      | 5 => x ≥ y
      | 6 => a < b
      | 7 => a ≤ b
      | 8 => a > b
      | _ => a ≥ b, false)
  else
    let x := decodeF ty a
    let y := decodeF ty b
    let nan := x.isNaN || y.isNaN
    let s := x.snan || y.snan
    let c := cmpV x y
    -- zeros of either sign are equal
    let eq := !nan && (c = 0 || (a % 2 ^ (n - 1) = 0 && b % 2 ^ (n - 1) = 0))
    match cond with
    | 0 => (eq, s)
    | 1 => (!eq, s)
    | 2 => (!nan && !eq && c < 0, nan)
    | 3 => (!nan && (eq || c < 0), nan)
    | 4 => (!nan && !eq && c > 0, nan)
    | 5 => (!nan && (eq || c > 0), nan)
    | _ => (nan, s)

/-- VCMP. -/
def runVcmp (f : LongFields) : VecEntry → M Unit :=
  runMask (.vcmp f) f (fun _ => 1) (fun e v =>
    let ty := f.ty.toNat
    let w := fmtBytes ty
    let a := sourceValue v f.a.toNat f.a.toNat 0
    let b := sourceValue v f.b.toNat f.b.toNat 0
    let rs := (v.actives f.pg.toNat e.vlr e.vlc).map (fun i => (i, compareElems ty f.imm.toNat (elemAt a w i) (elemAt b w i)))
    let m := rs.foldl (fun m r => if r.2.1 then m ||| 2 ^ r.1 else m) 0
    let raised := (rs.filter (fun r => r.2.2)).map (fun r => (r.1, flagNV))
    let v' := v.raise (classMasks raised) (flagBits raised)
    match arithTrap v.enabled [raised] with
    | some (k, i) => .error (30, arithTval k i, v')
    | none => .ok (v'.setP f.d.toNat (BitVec.ofNat 1024 m), none))

/-- An instruction on predicates a and b, all 1,024 bits. -/
def runLogic (i : Instr) (f : LongFields) (fn : Mask → Mask → Mask) : VecEntry → M Unit :=
  runMask i f (fun _ => 1) (fun _ v => .ok (v.setP f.d.toNat (fn (v.getP f.a.toNat) (v.getP f.b.toNat)), none))

/-- VMAND. -/
def runVmand (f : LongFields) : VecEntry → M Unit := runLogic (.vmand f) f (fun a b => a &&& b)
/-- VMOR. -/
def runVmor (f : LongFields) : VecEntry → M Unit := runLogic (.vmor f) f (fun a b => a ||| b)
/-- VMXOR. -/
def runVmxor (f : LongFields) : VecEntry → M Unit := runLogic (.vmxor f) f (fun a b => a ^^^ b)
/-- VMANDN. -/
def runVmandn (f : LongFields) : VecEntry → M Unit := runLogic (.vmandn f) f (fun a b => a &&& ~~~ b)
/-- VMNOT. -/
def runVmnot (f : LongFields) : VecEntry → M Unit := runLogic (.vmnot f) f (fun a _ => ~~~ a)

/-- The first set bit of a mask among a list of slots. -/
def firstSet (m : Mask) (slots : List Nat) : Option Nat := slots.find? (fun i => m.getLsbD i)

/-- A mask of a list of slots. -/
def maskOf (slots : List Nat) : Mask := BitVec.ofNat 1024 (slots.foldl (fun m i => m ||| 2 ^ i) 0)

/-- VMSBF. -/
def runVmsbf (f : LongFields) : VecEntry → M Unit :=
  runMask (.vmsbf f) f (fun _ => 1) (fun e v =>
    let slots := slotsIn e.vlr e.vlc
    let pa := v.getP f.a.toNat
    let before := match firstSet pa slots with
      | some n => slots.filter (fun i => i < n)
      | none => slots
    .ok (v.setP f.d.toNat (maskOf before), none))

/-- VMPOPC. -/
def runVmpopc (f : LongFields) : VecEntry → M Unit :=
  runMask (.vmpopc f) f (fun _ => 1) (fun e v =>
    let pa := v.getP f.a.toNat
    .ok (v, some (BitVec.ofNat 64 ((slotsIn e.vlr e.vlc).filter (fun i => pa.getLsbD i)).length)))

/-- VMFIRST. -/
def runVmfirst (f : LongFields) : VecEntry → M Unit :=
  runMask (.vmfirst f) f (fun _ => 1) (fun e v =>
    .ok (v, some (match firstSet (v.getP f.a.toNat) (slotsIn e.vlr e.vlc) with
      | some i => BitVec.ofNat 64 i
      | none => BitVec.allOnes 64)))

/-- VMPUSH (11 R276). -/
def runVmpush (f : LongFields) : VecEntry → M Unit :=
  runMask (.vmpush f) f (fun _ => 1) (fun _ v =>
    if v.vmsp = 31 then .error (25, BitVec.ofNat 64 (31 * 2 ^ 8 + 1), v)
    else .ok ({ (v.setMask (17 + v.vmsp) (v.getP 0 &&& v.getP f.a.toNat)) with vmsp := v.vmsp + 1 }, none))

/-- VMELSE. -/
def runVmelse (f : LongFields) : VecEntry → M Unit :=
  runMask (.vmelse f) f (fun _ => 1) (fun _ v =>
    if v.vmsp = 0 then .error (25, 0, v)
    else .ok (v.setP 0 (tblGet 0 v.stack (v.vmsp - 1) &&& ~~~ (v.getP 0)), none))

/-- VMPOP. -/
def runVmpop (f : LongFields) : VecEntry → M Unit :=
  runMask (.vmpop f) f (fun _ => 1) (fun _ v =>
    if v.vmsp = 0 then .error (25, 0, v) else .ok ({ v with vmsp := v.vmsp - 1 }, none))

/-- VMMOV with ax = 0: a predicate from a mask. -/
def runVmmovToPredicate (f : LongFields) : VecEntry → M Unit :=
  runMask (.vmmovToPredicate f) f (fun _ => 1) (fun _ v => .ok (v.setP f.d.toNat (v.getMask f.imm.toNat), none))

/-- VMMOV with ax = 1: a mask from a predicate. -/
def runVmmovToMask (f : LongFields) : VecEntry → M Unit :=
  runMask (.vmmovToMask f) f (fun _ => 1) (fun _ v => .ok (v.setMask f.imm.toNat (v.getP f.a.toNat), none))

/-- VCMP (15 R386). -/
def execVcmp (f : LongFields) (s : State) : Host.Outcome State Fault Refusal :=
  maskExec (.vcmp f) (fmtBytes f.ty.toNat) (runVcmp f) s

/-- VMAND (15 R387). -/
def execVmand (f : LongFields) (s : State) : Host.Outcome State Fault Refusal :=
  maskExec (.vmand f) 1 (runVmand f) s

/-- VMOR (15 R387). -/
def execVmor (f : LongFields) (s : State) : Host.Outcome State Fault Refusal :=
  maskExec (.vmor f) 1 (runVmor f) s

/-- VMXOR (15 R387). -/
def execVmxor (f : LongFields) (s : State) : Host.Outcome State Fault Refusal :=
  maskExec (.vmxor f) 1 (runVmxor f) s

/-- VMANDN (15 R387). -/
def execVmandn (f : LongFields) (s : State) : Host.Outcome State Fault Refusal :=
  maskExec (.vmandn f) 1 (runVmandn f) s

/-- VMNOT (15 R387). -/
def execVmnot (f : LongFields) (s : State) : Host.Outcome State Fault Refusal :=
  maskExec (.vmnot f) 1 (runVmnot f) s

/-- VMSBF (15 R387). -/
def execVmsbf (f : LongFields) (s : State) : Host.Outcome State Fault Refusal :=
  maskExec (.vmsbf f) 1 (runVmsbf f) s

/-- VMPUSH (15 R388). -/
def execVmpush (f : LongFields) (s : State) : Host.Outcome State Fault Refusal :=
  maskExec (.vmpush f) 1 (runVmpush f) s

/-- VMELSE (15 R388). -/
def execVmelse (f : LongFields) (s : State) : Host.Outcome State Fault Refusal :=
  maskExec (.vmelse f) 1 (runVmelse f) s

/-- VMPOP (15 R388). -/
def execVmpop (f : LongFields) (s : State) : Host.Outcome State Fault Refusal :=
  maskExec (.vmpop f) 1 (runVmpop f) s

/-- VMPOPC (15 R387). -/
def execVmpopc (f : LongFields) (s : State) : Host.Outcome State Fault Refusal :=
  maskExec (.vmpopc f) 1 (runVmpopc f) s

/-- VMFIRST (15 R387). -/
def execVmfirst (f : LongFields) (s : State) : Host.Outcome State Fault Refusal :=
  maskExec (.vmfirst f) 1 (runVmfirst f) s

/-- VMMOV TO PREDICATE (15 R389). -/
def execVmmovToPredicate (f : LongFields) (s : State) : Host.Outcome State Fault Refusal :=
  maskExec (.vmmovToPredicate f) 1 (runVmmovToPredicate f) s

/-- VMMOV TO MASK (15 R389). -/
def execVmmovToMask (f : LongFields) (s : State) : Host.Outcome State Fault Refusal :=
  maskExec (.vmmovToMask f) 1 (runVmmovToMask f) s

end Sys2Proof.Machine
end

