-- ==== Sys2Proof/Machine/VecMove.lean ====
section
/-! DEFINITION. SETVL, the moves and permutes, and VHASH (15 R376–R380). -/

namespace Sys2Proof.Machine

/-- SETVL (15 R376): the pending pre-emption traps first, and then the lengths are granted. -/
def execSetvl (f : LongFields) (s : State) : Host.Outcome State Fault Refusal :=
  runM (do
    requireM (← askS (fun s => vecLegal s (.setvl f) 1)) (.setvl f)
    let x ← operandsM (.setvl f)
    let g ← me
    if g.kstat.pend && !g.kstat.hnd then trapM 31 0
    else do
      let w := fmtBytes f.ty.toNat
      let gc := min x.a.toNat 32
      let gr := min x.b.toNat (32 / w)
      (if gc = 0 ∨ gr = 0 then writeX f.d.toNat 0
      else do
        modMe (fun g => g.modVec (fun v => { v with vlc := gc, vlr := gr, vty := f.ty }))
        writeX f.d.toNat (BitVec.ofNat 64 (gr * 2 ^ 32 + gc)))
      retireM 8) s

/-- The slot of dense index n. -/
def denseSlot (vlc n : Nat) : Nat := n / vlc * 32 + n % vlc

/-- The slot that x[b] names, where it lies inside the lengths (15 R378). -/
def namedSlot (x : LaneIn) : Option Nat :=
  let i := x.xb.toNat
  if i < 1024 ∧ i / 32 < x.vlr ∧ i % 32 < x.vlc then some i else none

/-- The width of ty. -/
def LaneIn.w (x : LaneIn) : Nat := fmtBytes x.f.ty.toNat

/-- A register value with the element at each ACTIVE slot given by a function of the slot. -/
def fillActive (x : LaneIn) (fn : Nat → Nat) : LaneOut :=
  { value := x.act.foldl (fun v i => setElem v x.w i (fn i)) x.d }

/-- The cycles of VSLIDE, VSHUF and VTRN (15 R373). -/
def permuteCycles (x : LaneIn) : Nat := laneCycles x + 2

/-- VMV. -/
def opVmv : LaneOp := elementwise laneCycles (fun _ a _ _ => { bits := a })

/-- VBCAST. -/
def opVbcast : LaneOp :=
  { cycles := fun _ => 1, step := fun x => fillActive x (fun _ => x.xa.toNat) }

/-- VEXT: sign-extended for the integer types. -/
def opVext : LaneOp :=
  { scalar := true, cycles := fun _ => 1
    step := fun x => match namedSlot x with
      | some i =>
        let v := elemAt x.a x.w i
        { value := 0, scalar := if x.f.ty.toNat < 4 then sextW (8 * x.w) v else BitVec.ofNat 64 v }
      | none => { value := 0, scalar := 0 } }

/-- VINS. -/
def opVins : LaneOp :=
  { cycles := fun _ => 1
    step := fun x => match namedSlot x with
      | some i => { value := setElem x.d x.w i x.xa.toNat }
      | none => { value := x.d } }

/-- VSEL. -/
def opVsel : LaneOp :=
  { predC := true, cycles := laneCycles
    step := fun x => fillActive x (fun i => if x.pk.getLsbD i then elemAt x.a x.w i else elemAt x.b x.w i) }

/-- VIOTA (15 R379): the count of ACTIVE slots before this one, in the strip or in its column. -/
def opViota : LaneOp :=
  { cycles := fun x => laneCycles x + 1
    step := fun x => fillActive x (fun i =>
      (x.act.filter (fun k => if x.f.ax then k % 32 = i % 32 && k / 32 < i / 32 else k < i)).length) }

/-- The element that a permute takes from position k of the axis: of the strip in dense order, or of the column of a slot; 0 outside
the strip. -/
def axisElem (x : LaneIn) (i : Nat) (k : Int) : Nat :=
  if k < 0 then 0
  else if x.f.ax then (if k.toNat < x.vlr then elemAt x.a x.w (k.toNat * 32 + i % 32) else 0)
  else if k.toNat < x.vlr * x.vlc then elemAt x.a x.w (denseSlot x.vlc k.toNat) else 0

/-- The position of a slot on the axis. -/
def axisPos (x : LaneIn) (i : Nat) : Nat := if x.f.ax then i / 32 else i / 32 * x.vlc + i % 32

/-- VSLIDE. -/
def opVslide : LaneOp :=
  { cycles := permuteCycles, step := fun x => fillActive x (fun i => axisElem x i ((axisPos x i : Int) - x.xb.toInt)) }

/-- VSHUF. -/
def opVshuf : LaneOp :=
  { cycles := permuteCycles, step := fun x => fillActive x (fun i => axisElem x i (elemAt x.b x.w i)) }

/-- VTRN. -/
def opVtrn : LaneOp :=
  { cycles := permuteCycles
    step := fun x => fillActive x (fun i =>
      if i % 32 < x.vlr ∧ i / 32 < x.vlc then elemAt x.a x.w (i % 32 * 32 + i / 32) else 0) }

/-- One byte of the CRC-64 of 08 R205. -/
def crcByte (crc b : Nat) : Nat :=
  (List.range 8).foldl (fun c _ => if c % 2 = 1 then (c / 2) ^^^ 0xC96C5795D7870F42 else c / 2) (crc ^^^ b)

/-- The CRC-64 of a byte string. -/
def crc64 (bs : List Nat) : Nat := (bs.foldl crcByte (2 ^ 64 - 1)) ^^^ (2 ^ 64 - 1)

/-- The bytes that VHASH covers (08 R205). -/
def hashBytes (x : LaneIn) : List Nat :=
  [x.f.ty.toNat, x.vlr, x.vlc, 0] ++ (slotsIn x.vlr x.vlc).flatMap (fun i =>
    (List.range x.w).map (fun b => (elemAt x.a x.w i) / 2 ^ (8 * b) % 256))

/-- VHASH (15 R380). -/
def opVhash : LaneOp :=
  { scalar := true, cycles := fun x => (x.vlr * x.vlc * x.w + 63) / 64 + 4
    step := fun x => { value := 0, scalar := BitVec.ofNat 64 (crc64 (hashBytes x)) } }

/-- VMV (15 R378). -/
def execVmv (f : LongFields) (s : State) : Host.Outcome State Fault Refusal := laneExec (.vmv f) f opVmv s

/-- VBCAST (15 R378). -/
def execVbcast (f : LongFields) (s : State) : Host.Outcome State Fault Refusal := laneExec (.vbcast f) f opVbcast s

/-- VEXT (15 R378). -/
def execVext (f : LongFields) (s : State) : Host.Outcome State Fault Refusal := laneExec (.vext f) f opVext s

/-- VINS (15 R378). -/
def execVins (f : LongFields) (s : State) : Host.Outcome State Fault Refusal := laneExec (.vins f) f opVins s

/-- VSEL (15 R378). -/
def execVsel (f : LongFields) (s : State) : Host.Outcome State Fault Refusal := laneExec (.vsel f) f opVsel s

/-- VIOTA (15 R379). -/
def execViota (f : LongFields) (s : State) : Host.Outcome State Fault Refusal := laneExec (.viota f) f opViota s

/-- VSLIDE (15 R379). -/
def execVslide (f : LongFields) (s : State) : Host.Outcome State Fault Refusal := laneExec (.vslide f) f opVslide s

/-- VSHUF (15 R379). -/
def execVshuf (f : LongFields) (s : State) : Host.Outcome State Fault Refusal := laneExec (.vshuf f) f opVshuf s

/-- VTRN (15 R378). -/
def execVtrn (f : LongFields) (s : State) : Host.Outcome State Fault Refusal := laneExec (.vtrn f) f opVtrn s

/-- VHASH (15 R380). -/
def execVhash (f : LongFields) (s : State) : Host.Outcome State Fault Refusal := laneExec (.vhash f) f opVhash s

end Sys2Proof.Machine
end

