-- ==== Sys2Proof/Machine/VecReduce.lean ====
section
/-! DEFINITION. The reductions (15 R390). -/

namespace Sys2Proof.Machine

/-- The groups of a reduction: each destination slot with its ACTIVE elements. -/
def redGroups (x : LaneIn) : List (Nat × List Nat) :=
  let vals (p : Nat → Bool) : List Nat := (x.act.filter p).map (fun i => elemAt x.a (fmtBytes x.f.ty.toNat) i)
  if x.f.ax then (List.range x.vlr).map (fun r => (r * 32, vals (fun i => i / 32 = r))) else [(0, vals (fun _ => true))]

/-- A reduction by a function of the ACTIVE elements of a strip or row. -/
def reduction (fn : LaneIn → List Nat → FRes) : LaneOp :=
  { cycles := fun x => laneCycles x + 6
    step := fun x => (redGroups x).foldl (fun o g =>
      let r := fn x g.2
      { o with
        value := setElem o.value (fmtBytes x.f.ty.toNat) g.1 r.bits
        raised := if r.flags = 0 then o.raised else o.raised ++ [(g.1, r.flags)]
        sat := if r.sat then o.sat ||| 2 ^ g.1 else o.sat }) { value := x.d } }

/-- VREDSUM. -/
def opVredsum : LaneOp := reduction (fun x vs =>
  let t := x.f.ty.toNat
  let w := fmtBytes t
  if t < 4 then
    let total : Int := vs.foldl (fun n v => n + sintOf (8 * w) v) 0
    if x.f.sat then
      let (b, k) := satInt w total
      { bits := b, sat := k }
    else { bits := wrapInt (8 * w) total }
  else fSum t x.rm x.f.sat vs)

/-- The least or greatest element: NaN elements are ignored unless all are NaN; a signalling one raises NV. -/
def redMinMax (wantMax : Bool) (x : LaneIn) (vs : List Nat) : FRes :=
  let t := x.f.ty.toNat
  let w := fmtBytes t
  if t < 4 then
    { bits := wrapInt (8 * w) (vs.foldl (fun (m : Int) v =>
        if wantMax then max m (sintOf (8 * w) v) else min m (sintOf (8 * w) v)) (if wantMax then intMin w else intMax w)) }
  else
    let nv := if vs.any (fun v => (decodeF t v).snan) then flagNV else 0
    match vs.filter (fun v => !(decodeF t v).isNaN) with
    | [] => if vs = [] then { bits := (infRes t wantMax).bits } else { bits := canonNaN t, flags := nv }
    | v :: rest => { bits := rest.foldl (fun m v => (fMinMax t wantMax m v).bits) v, flags := nv }

/-- VREDMIN. -/
def opVredmin : LaneOp := reduction (redMinMax false)
/-- VREDMAX. -/
def opVredmax : LaneOp := reduction (redMinMax true)
/-- VREDAND. -/
def opVredand : LaneOp := reduction (fun x vs => { bits := vs.foldl (· &&& ·) (2 ^ (8 * fmtBytes x.f.ty.toNat) - 1) })
/-- VREDOR. -/
def opVredor : LaneOp := reduction (fun _ vs => { bits := vs.foldl (· ||| ·) 0 })
/-- VREDXOR. -/
def opVredxor : LaneOp := reduction (fun _ vs => { bits := vs.foldl (· ^^^ ·) 0 })

/-- VREDSUM (15 R390). -/
def execVredsum (f : LongFields) (s : State) : Host.Outcome State Fault Refusal := laneExec (.vredsum f) f opVredsum s

/-- VREDMIN (15 R390). -/
def execVredmin (f : LongFields) (s : State) : Host.Outcome State Fault Refusal := laneExec (.vredmin f) f opVredmin s

/-- VREDMAX (15 R390). -/
def execVredmax (f : LongFields) (s : State) : Host.Outcome State Fault Refusal := laneExec (.vredmax f) f opVredmax s

/-- VREDAND (15 R390). -/
def execVredand (f : LongFields) (s : State) : Host.Outcome State Fault Refusal := laneExec (.vredand f) f opVredand s

/-- VREDOR (15 R390). -/
def execVredor (f : LongFields) (s : State) : Host.Outcome State Fault Refusal := laneExec (.vredor f) f opVredor s

/-- VREDXOR (15 R390). -/
def execVredxor (f : LongFields) (s : State) : Host.Outcome State Fault Refusal := laneExec (.vredxor f) f opVredxor s

end Sys2Proof.Machine
end

