-- ==== Sys2Proof/Machine/VecQueue.lean ====
section
/-! DEFINITION. The vector instruction queue executes its head: VECTOR_EXECUTE (08 R195; 15 R371). -/

namespace Sys2Proof.Machine

/-- The lane operation of an instruction. -/
def laneOpOf : Instr → Option LaneOp
  | .vfadd _ => some opVfadd
  | .vfsub _ => some opVfsub
  | .vfmul _ => some opVfmul
  | .vfma _ => some opVfma
  | .vfdiv _ => some opVfdiv
  | .vfsqrt _ => some opVfsqrt
  | .vfrcp _ => some opVfrcp
  | .vfrsqrt _ => some opVfrsqrt
  | .vfmin _ => some opVfmin
  | .vfmax _ => some opVfmax
  | .vfexp2 _ => some opVfexp2
  | .vflog2 _ => some opVflog2
  | .vfsinpi _ => some opVfsinpi
  | .vfcospi _ => some opVfcospi
  | .vftanh _ => some opVftanh
  | .vfabs _ => some opVfabs
  | .vfneg _ => some opVfneg
  | .vfclass _ => some opVfclass
  | .vfsgnj _ => some opVfsgnj
  | .vfsgnjn _ => some opVfsgnjn
  | .vfsgnjx _ => some opVfsgnjx
  | .vcvt _ => some opVcvt
  | .vadd _ => some opVadd
  | .vsub _ => some opVsub
  | .vmul _ => some opVmul
  | .vmulh _ => some opVmulh
  | .vmulhu _ => some opVmulhu
  | .vmadd _ => some opVmadd
  | .vdiv _ => some opVdiv
  | .vdivu _ => some opVdivu
  | .vrem _ => some opVrem
  | .vremu _ => some opVremu
  | .vmin _ => some opVmin
  | .vminu _ => some opVminu
  | .vmax _ => some opVmax
  | .vmaxu _ => some opVmaxu
  | .vand _ => some opVand
  | .vor _ => some opVor
  | .vxor _ => some opVxor
  | .vsll _ => some opVsll
  | .vsrl _ => some opVsrl
  | .vsra _ => some opVsra
  | .vabs _ => some opVabs
  | .vclz _ => some opVclz
  | .vpopc _ => some opVpopc
  | .vaddi _ => some opVaddi
  | .vmv _ => some opVmv
  | .vbcast _ => some opVbcast
  | .vext _ => some opVext
  | .vins _ => some opVins
  | .vsel _ => some opVsel
  | .viota _ => some opViota
  | .vslide _ => some opVslide
  | .vshuf _ => some opVshuf
  | .vtrn _ => some opVtrn
  | .vhash _ => some opVhash
  | .vredsum _ => some opVredsum
  | .vredmin _ => some opVredmin
  | .vredmax _ => some opVredmax
  | .vredand _ => some opVredand
  | .vredor _ => some opVredor
  | .vredxor _ => some opVredxor
  | _ => none

/-- The execution of an instruction that the queue holds. -/
def queuedRun (i : Instr) : VecEntry → M Unit :=
  match laneOpOf i, i.long? with
  | some op, some (f, _) => runLane i f op
  | _, _ => match i with
    | .vcmp f => runVcmp f
    | .vmand f => runVmand f
    | .vmor f => runVmor f
    | .vmxor f => runVmxor f
    | .vmandn f => runVmandn f
    | .vmnot f => runVmnot f
    | .vmsbf f => runVmsbf f
    | .vmpush f => runVmpush f
    | .vmelse f => runVmelse f
    | .vmpop f => runVmpop f
    | .vmpopc f => runVmpopc f
    | .vmfirst f => runVmfirst f
    | .vmmovToPredicate f => runVmmovToPredicate f
    | .vmmovToMask f => runVmmovToMask f
    | _ => fun _ => pure ()

/-- What an entry does for which its context waits: the instruction from its checks on, and its retirement. -/
def heldRun (e : VecEntry) : M Unit :=
  match e.instr with
  | .vsave f => vsaveM f
  | .vrstr f => vrstrM f
  | .vld f => vloadM (.vld f) .load f
  | .vldff f => vldffM (.vldff f) f
  | .vgather f => vloadM (.vgather f) .gather f
  | .vst f => if f.nt then vstProgressM (.vst f) f else vstoreM (.vst f) .store f
  | .vscatter f => vstoreM (.vscatter f) .scatter f
  | .vrred f => vrredM (.vrred f) f
  | .vamoadd f => vamoaddM (.vamoadd f) f
  | .vldacc f => vldaccM (.vldacc f) f
  | .vtex f => vtexM (.vtex f) false f
  | .vtexlod f => vtexM (.vtexlod f) true f
  | .rq f => rqM (.rq f) false f
  | .rqany f => rqM (.rqany f) true f
  | i => do
    parityM e
    queuedRun i e
    retireM 8

/-- The context of an entry that has executed goes on. -/
def goOn (h : Nat) (s : State) : State :=
  stepDone h 8 (s.modHart h (fun g => { g with waiting := none, readyAt := max g.readyAt (s.now + 1) }))

/-- VECTOR_EXECUTE (08 R195; 15 R371): the head leaves the queue and executes, once it may start. An entry for which its context waits retires
or traps now (11 R271), or waits at the head for what it needs; every other has retired at its issue. -/
def execVectorExecute (core : Nat) (s : State) : Host.Outcome State Fault Refusal :=
  match (s.core core).vq with
  | [] => .next s
  | e :: rest =>
    let back (l : List VecEntry) (t : State) : Host.Outcome State Fault Refusal :=
      .next (nextQueued core ({ t with cur := s.cur }.modCore core (fun c => { c with
        vq := l ++ rest, slot := (s.core core).slot.filter (fun x => x.hart ≠ e.hart) })))
    let t := { s.modCore core (fun c => { c with vq := [] }) with cur := e.hart }
    if s.now < entryStart s e then .next (nextQueued core s)
    else if e.held then
      match heldRun e t with
      | .ok (_, t) => back [] (goOn e.hart t)
      | .error (.wait _) => back [e] t
      | .error (.waitWith .vecHeld t) => back (t.core core).vq t
      | .error (.waitWith _ t) => back [e] t
      | .error (.trap c v) => back [] (stepDone e.hart 8 (takeTrap c v t))
      | .error (.trapWith c v t) => back [] (stepDone e.hart 8 (takeTrap c v t))
      | .error (.illegal w) => back [] (stepDone e.hart 8 (takeIllegal w t))
    else match parityStep e.hart e.instr s with
    | some t => .next (nextQueued core t)
    | none =>
      match queuedRun e.instr e t with
      | .ok (_, t) => back [] t
      | .error (.trapWith c v t) => back [] (takeTrap c v t)
      | .error _ => back [] t

end Sys2Proof.Machine
end

