-- ==== Sys2Proof/Machine/Dispatch.lean ====
section
/-! DEFINITION. The one match from an instruction or event to its meaning. -/

namespace Sys2Proof.Machine

/-- What an instruction or an event does. -/
def exec (i : Instr) (s : State) : Host.Outcome State Fault Refusal :=
  match i with
  | .add rd rs1 rs2 => Sys2Proof.Machine.execAdd rd rs1 rs2 s
  | .sub rd rs1 rs2 => Sys2Proof.Machine.execSub rd rs1 rs2 s
  | .sll rd rs1 rs2 => Sys2Proof.Machine.execSll rd rs1 rs2 s
  | .slt rd rs1 rs2 => Sys2Proof.Machine.execSlt rd rs1 rs2 s
  | .sltu rd rs1 rs2 => Sys2Proof.Machine.execSltu rd rs1 rs2 s
  | .xor rd rs1 rs2 => Sys2Proof.Machine.execXor rd rs1 rs2 s
  | .srl rd rs1 rs2 => Sys2Proof.Machine.execSrl rd rs1 rs2 s
  | .sra rd rs1 rs2 => Sys2Proof.Machine.execSra rd rs1 rs2 s
  | .or rd rs1 rs2 => Sys2Proof.Machine.execOr rd rs1 rs2 s
  | .and rd rs1 rs2 => Sys2Proof.Machine.execAnd rd rs1 rs2 s
  | .addw rd rs1 rs2 => Sys2Proof.Machine.execAddw rd rs1 rs2 s
  | .subw rd rs1 rs2 => Sys2Proof.Machine.execSubw rd rs1 rs2 s
  | .sllw rd rs1 rs2 => Sys2Proof.Machine.execSllw rd rs1 rs2 s
  | .srlw rd rs1 rs2 => Sys2Proof.Machine.execSrlw rd rs1 rs2 s
  | .sraw rd rs1 rs2 => Sys2Proof.Machine.execSraw rd rs1 rs2 s
  | .addi rd rs1 imm => Sys2Proof.Machine.execAddi rd rs1 imm s
  | .slti rd rs1 imm => Sys2Proof.Machine.execSlti rd rs1 imm s
  | .sltiu rd rs1 imm => Sys2Proof.Machine.execSltiu rd rs1 imm s
  | .xori rd rs1 imm => Sys2Proof.Machine.execXori rd rs1 imm s
  | .ori rd rs1 imm => Sys2Proof.Machine.execOri rd rs1 imm s
  | .andi rd rs1 imm => Sys2Proof.Machine.execAndi rd rs1 imm s
  | .slli rd rs1 shamt => Sys2Proof.Machine.execSlli rd rs1 shamt s
  | .srli rd rs1 shamt => Sys2Proof.Machine.execSrli rd rs1 shamt s
  | .srai rd rs1 shamt => Sys2Proof.Machine.execSrai rd rs1 shamt s
  | .addiw rd rs1 imm => Sys2Proof.Machine.execAddiw rd rs1 imm s
  | .slliw rd rs1 shamt => Sys2Proof.Machine.execSlliw rd rs1 shamt s
  | .srliw rd rs1 shamt => Sys2Proof.Machine.execSrliw rd rs1 shamt s
  | .sraiw rd rs1 shamt => Sys2Proof.Machine.execSraiw rd rs1 shamt s
  | .lui rd imm => Sys2Proof.Machine.execLui rd imm s
  | .auipc rd imm => Sys2Proof.Machine.execAuipc rd imm s
  | .jal rd imm => Sys2Proof.Machine.execJal rd imm s
  | .jalr rd rs1 imm => Sys2Proof.Machine.execJalr rd rs1 imm s
  | .beq rs1 rs2 imm => Sys2Proof.Machine.execBeq rs1 rs2 imm s
  | .bne rs1 rs2 imm => Sys2Proof.Machine.execBne rs1 rs2 imm s
  | .blt rs1 rs2 imm => Sys2Proof.Machine.execBlt rs1 rs2 imm s
  | .bge rs1 rs2 imm => Sys2Proof.Machine.execBge rs1 rs2 imm s
  | .bltu rs1 rs2 imm => Sys2Proof.Machine.execBltu rs1 rs2 imm s
  | .bgeu rs1 rs2 imm => Sys2Proof.Machine.execBgeu rs1 rs2 imm s
  | .lb rd rs1 imm => Sys2Proof.Machine.execLb rd rs1 imm s
  | .lh rd rs1 imm => Sys2Proof.Machine.execLh rd rs1 imm s
  | .lw rd rs1 imm => Sys2Proof.Machine.execLw rd rs1 imm s
  | .ld rd rs1 imm => Sys2Proof.Machine.execLd rd rs1 imm s
  | .lbu rd rs1 imm => Sys2Proof.Machine.execLbu rd rs1 imm s
  | .lhu rd rs1 imm => Sys2Proof.Machine.execLhu rd rs1 imm s
  | .lwu rd rs1 imm => Sys2Proof.Machine.execLwu rd rs1 imm s
  | .sb rs1 rs2 imm => Sys2Proof.Machine.execSb rs1 rs2 imm s
  | .sh rs1 rs2 imm => Sys2Proof.Machine.execSh rs1 rs2 imm s
  | .sw rs1 rs2 imm => Sys2Proof.Machine.execSw rs1 rs2 imm s
  | .sd rs1 rs2 imm => Sys2Proof.Machine.execSd rs1 rs2 imm s
  | .mul rd rs1 rs2 => Sys2Proof.Machine.execMul rd rs1 rs2 s
  | .mulh rd rs1 rs2 => Sys2Proof.Machine.execMulh rd rs1 rs2 s
  | .mulhsu rd rs1 rs2 => Sys2Proof.Machine.execMulhsu rd rs1 rs2 s
  | .mulhu rd rs1 rs2 => Sys2Proof.Machine.execMulhu rd rs1 rs2 s
  | .div rd rs1 rs2 => Sys2Proof.Machine.execDiv rd rs1 rs2 s
  | .divu rd rs1 rs2 => Sys2Proof.Machine.execDivu rd rs1 rs2 s
  | .rem rd rs1 rs2 => Sys2Proof.Machine.execRem rd rs1 rs2 s
  | .remu rd rs1 rs2 => Sys2Proof.Machine.execRemu rd rs1 rs2 s
  | .mulw rd rs1 rs2 => Sys2Proof.Machine.execMulw rd rs1 rs2 s
  | .divw rd rs1 rs2 => Sys2Proof.Machine.execDivw rd rs1 rs2 s
  | .divuw rd rs1 rs2 => Sys2Proof.Machine.execDivuw rd rs1 rs2 s
  | .remw rd rs1 rs2 => Sys2Proof.Machine.execRemw rd rs1 rs2 s
  | .remuw rd rs1 rs2 => Sys2Proof.Machine.execRemuw rd rs1 rs2 s
  | .lr wide aq rl rd rs1 => Sys2Proof.Machine.execLr wide aq rl rd rs1 s
  | .sc wide aq rl rd rs1 rs2 => Sys2Proof.Machine.execSc wide aq rl rd rs1 rs2 s
  | .amoswap wide aq rl rd rs1 rs2 => Sys2Proof.Machine.execAmoswap wide aq rl rd rs1 rs2 s
  | .amoadd wide aq rl rd rs1 rs2 => Sys2Proof.Machine.execAmoadd wide aq rl rd rs1 rs2 s
  | .amoxor wide aq rl rd rs1 rs2 => Sys2Proof.Machine.execAmoxor wide aq rl rd rs1 rs2 s
  | .amoand wide aq rl rd rs1 rs2 => Sys2Proof.Machine.execAmoand wide aq rl rd rs1 rs2 s
  | .amoor wide aq rl rd rs1 rs2 => Sys2Proof.Machine.execAmoor wide aq rl rd rs1 rs2 s
  | .amomin wide aq rl rd rs1 rs2 => Sys2Proof.Machine.execAmomin wide aq rl rd rs1 rs2 s
  | .amomax wide aq rl rd rs1 rs2 => Sys2Proof.Machine.execAmomax wide aq rl rd rs1 rs2 s
  | .amominu wide aq rl rd rs1 rs2 => Sys2Proof.Machine.execAmominu wide aq rl rd rs1 rs2 s
  | .amomaxu wide aq rl rd rs1 rs2 => Sys2Proof.Machine.execAmomaxu wide aq rl rd rs1 rs2 s
  | .fence pred succ => Sys2Proof.Machine.execFence pred succ s
  | .csrrw rd rs1 csr => Sys2Proof.Machine.execCsrrw rd rs1 csr s
  | .csrrs rd rs1 csr => Sys2Proof.Machine.execCsrrs rd rs1 csr s
  | .csrrc rd rs1 csr => Sys2Proof.Machine.execCsrrc rd rs1 csr s
  | .csrrwi rd uimm csr => Sys2Proof.Machine.execCsrrwi rd uimm csr s
  | .csrrsi rd uimm csr => Sys2Proof.Machine.execCsrrsi rd uimm csr s
  | .csrrci rd uimm csr => Sys2Proof.Machine.execCsrrci rd uimm csr s
  | .sfenceVma rs1 rs2 => Sys2Proof.Machine.execSfenceVma rs1 rs2 s
  | .tspawn rd rs1 rs2 => Sys2Proof.Machine.execTspawn rd rs1 rs2 s
  | .treap rd rs1 => Sys2Proof.Machine.execTreap rd rs1 s
  | .tkill rs1 => Sys2Proof.Machine.execTkill rs1 s
  | .tstat rd rs1 => Sys2Proof.Machine.execTstat rd rs1 s
  | .tself rd => Sys2Proof.Machine.execTself rd s
  | .gjoin rd rs1 => Sys2Proof.Machine.execGjoin rd rs1 s
  | .gleave rd => Sys2Proof.Machine.execGleave rd s
  | .gbar rd => Sys2Proof.Machine.execGbar rd s
  | .gsize rd => Sys2Proof.Machine.execGsize rd s
  | .grank rd => Sys2Proof.Machine.execGrank rd s
  | .hpush rs1 => Sys2Proof.Machine.execHpush rs1 s
  | .hpusht rd rs1 => Sys2Proof.Machine.execHpusht rd rs1 s
  | .cwait rs1 rs2 => Sys2Proof.Machine.execCwait rs1 rs2 s
  | .drain mem => Sys2Proof.Machine.execDrain mem s
  | .hqlen rd => Sys2Proof.Machine.execHqlen rd s
  | .msend rs1 rs2 => Sys2Proof.Machine.execMsend rs1 rs2 s
  | .rqpush rs1 rs2 => Sys2Proof.Machine.execRqpush rs1 rs2 s
  | .rqpop rd => Sys2Proof.Machine.execRqpop rd s
  | .rqtry rd => Sys2Proof.Machine.execRqtry rd s
  | .qpop rd rt => Sys2Proof.Machine.execQpop rd rt s
  | .qpopt rd rt => Sys2Proof.Machine.execQpopt rd rt s
  | .feprobe rd reg bank => Sys2Proof.Machine.execFeprobe rd reg bank s
  | .femark reg bank => Sys2Proof.Machine.execFemark reg bank s
  | .fenceS kind scope => Sys2Proof.Machine.execFenceS kind scope s
  | .setvl f => Sys2Proof.Machine.execSetvl f s
  | .vmv f => Sys2Proof.Machine.execVmv f s
  | .vbcast f => Sys2Proof.Machine.execVbcast f s
  | .vext f => Sys2Proof.Machine.execVext f s
  | .vins f => Sys2Proof.Machine.execVins f s
  | .vsel f => Sys2Proof.Machine.execVsel f s
  | .viota f => Sys2Proof.Machine.execViota f s
  | .vslide f => Sys2Proof.Machine.execVslide f s
  | .vshuf f => Sys2Proof.Machine.execVshuf f s
  | .vtrn f => Sys2Proof.Machine.execVtrn f s
  | .vhash f => Sys2Proof.Machine.execVhash f s
  | .vsave f => Sys2Proof.Machine.execVsave f s
  | .vrstr f => Sys2Proof.Machine.execVrstr f s
  | .vadd f => Sys2Proof.Machine.execVadd f s
  | .vsub f => Sys2Proof.Machine.execVsub f s
  | .vmul f => Sys2Proof.Machine.execVmul f s
  | .vmulh f => Sys2Proof.Machine.execVmulh f s
  | .vmulhu f => Sys2Proof.Machine.execVmulhu f s
  | .vmadd f => Sys2Proof.Machine.execVmadd f s
  | .vdiv f => Sys2Proof.Machine.execVdiv f s
  | .vdivu f => Sys2Proof.Machine.execVdivu f s
  | .vrem f => Sys2Proof.Machine.execVrem f s
  | .vremu f => Sys2Proof.Machine.execVremu f s
  | .vmin f => Sys2Proof.Machine.execVmin f s
  | .vminu f => Sys2Proof.Machine.execVminu f s
  | .vmax f => Sys2Proof.Machine.execVmax f s
  | .vmaxu f => Sys2Proof.Machine.execVmaxu f s
  | .vand f => Sys2Proof.Machine.execVand f s
  | .vor f => Sys2Proof.Machine.execVor f s
  | .vxor f => Sys2Proof.Machine.execVxor f s
  | .vsll f => Sys2Proof.Machine.execVsll f s
  | .vsrl f => Sys2Proof.Machine.execVsrl f s
  | .vsra f => Sys2Proof.Machine.execVsra f s
  | .vabs f => Sys2Proof.Machine.execVabs f s
  | .vclz f => Sys2Proof.Machine.execVclz f s
  | .vpopc f => Sys2Proof.Machine.execVpopc f s
  | .vaddi f => Sys2Proof.Machine.execVaddi f s
  | .vfadd f => Sys2Proof.Machine.execVfadd f s
  | .vfsub f => Sys2Proof.Machine.execVfsub f s
  | .vfmul f => Sys2Proof.Machine.execVfmul f s
  | .vfma f => Sys2Proof.Machine.execVfma f s
  | .vfdiv f => Sys2Proof.Machine.execVfdiv f s
  | .vfsqrt f => Sys2Proof.Machine.execVfsqrt f s
  | .vfrcp f => Sys2Proof.Machine.execVfrcp f s
  | .vfrsqrt f => Sys2Proof.Machine.execVfrsqrt f s
  | .vfmin f => Sys2Proof.Machine.execVfmin f s
  | .vfmax f => Sys2Proof.Machine.execVfmax f s
  | .vfexp2 f => Sys2Proof.Machine.execVfexp2 f s
  | .vflog2 f => Sys2Proof.Machine.execVflog2 f s
  | .vfsinpi f => Sys2Proof.Machine.execVfsinpi f s
  | .vfcospi f => Sys2Proof.Machine.execVfcospi f s
  | .vftanh f => Sys2Proof.Machine.execVftanh f s
  | .vfabs f => Sys2Proof.Machine.execVfabs f s
  | .vfneg f => Sys2Proof.Machine.execVfneg f s
  | .vfclass f => Sys2Proof.Machine.execVfclass f s
  | .vfsgnj f => Sys2Proof.Machine.execVfsgnj f s
  | .vfsgnjn f => Sys2Proof.Machine.execVfsgnjn f s
  | .vfsgnjx f => Sys2Proof.Machine.execVfsgnjx f s
  | .vcvt f => Sys2Proof.Machine.execVcvt f s
  | .vcmp f => Sys2Proof.Machine.execVcmp f s
  | .vmand f => Sys2Proof.Machine.execVmand f s
  | .vmor f => Sys2Proof.Machine.execVmor f s
  | .vmxor f => Sys2Proof.Machine.execVmxor f s
  | .vmandn f => Sys2Proof.Machine.execVmandn f s
  | .vmnot f => Sys2Proof.Machine.execVmnot f s
  | .vmsbf f => Sys2Proof.Machine.execVmsbf f s
  | .vmpush f => Sys2Proof.Machine.execVmpush f s
  | .vmelse f => Sys2Proof.Machine.execVmelse f s
  | .vmpop f => Sys2Proof.Machine.execVmpop f s
  | .vmpopc f => Sys2Proof.Machine.execVmpopc f s
  | .vmfirst f => Sys2Proof.Machine.execVmfirst f s
  | .vmmovToPredicate f => Sys2Proof.Machine.execVmmovToPredicate f s
  | .vmmovToMask f => Sys2Proof.Machine.execVmmovToMask f s
  | .vredsum f => Sys2Proof.Machine.execVredsum f s
  | .vredmin f => Sys2Proof.Machine.execVredmin f s
  | .vredmax f => Sys2Proof.Machine.execVredmax f s
  | .vredand f => Sys2Proof.Machine.execVredand f s
  | .vredor f => Sys2Proof.Machine.execVredor f s
  | .vredxor f => Sys2Proof.Machine.execVredxor f s
  | .vld f => Sys2Proof.Machine.execVld f s
  | .vldff f => Sys2Proof.Machine.execVldff f s
  | .vgather f => Sys2Proof.Machine.execVgather f s
  | .vst f => Sys2Proof.Machine.execVst f s
  | .vscatter f => Sys2Proof.Machine.execVscatter f s
  | .vrred f => Sys2Proof.Machine.execVrred f s
  | .vamoadd f => Sys2Proof.Machine.execVamoadd f s
  | .vldacc f => Sys2Proof.Machine.execVldacc f s
  | .samoLoad f => Sys2Proof.Machine.execSamoLoad f s
  | .samoStore f => Sys2Proof.Machine.execSamoStore f s
  | .samoAdd f => Sys2Proof.Machine.execSamoAdd f s
  | .samoSwap f => Sys2Proof.Machine.execSamoSwap f s
  | .samoAnd f => Sys2Proof.Machine.execSamoAnd f s
  | .samoOr f => Sys2Proof.Machine.execSamoOr f s
  | .samoXor f => Sys2Proof.Machine.execSamoXor f s
  | .samoMin f => Sys2Proof.Machine.execSamoMin f s
  | .samoMax f => Sys2Proof.Machine.execSamoMax f s
  | .samoMinu f => Sys2Proof.Machine.execSamoMinu f s
  | .samoMaxu f => Sys2Proof.Machine.execSamoMaxu f s
  | .samoCas f => Sys2Proof.Machine.execSamoCas f s
  | .bfmtFormat f => Sys2Proof.Machine.execBfmtFormat f s
  | .bfmtRowScales f => Sys2Proof.Machine.execBfmtRowScales f s
  | .bfmtColumnScales f => Sys2Proof.Machine.execBfmtColumnScales f s
  | .bls f => Sys2Proof.Machine.execBls f s
  | .bswap f => Sys2Proof.Machine.execBswap f s
  | .bstream f => Sys2Proof.Machine.execBstream f s
  | .bclr f => Sys2Proof.Machine.execBclr f s
  | .bstat f => Sys2Proof.Machine.execBstat f s
  | .bsync f => Sys2Proof.Machine.execBsync f s
  | .bsave f => Sys2Proof.Machine.execBsave f s
  | .brstr f => Sys2Proof.Machine.execBrstr f s
  | .vtex f => Sys2Proof.Machine.execVtex f s
  | .vtexlod f => Sys2Proof.Machine.execVtexlod f s
  | .rq f => Sys2Proof.Machine.execRq f s
  | .rqany f => Sys2Proof.Machine.execRqany f s
  | .xpair f => Sys2Proof.Machine.execXpair f s
  | .agpush f => Sys2Proof.Machine.execAgpush f s
  | .agpop f => Sys2Proof.Machine.execAgpop f s
  | .loadDataReturn hart rd => Sys2Proof.Machine.execLoadDataReturn hart rd s
  | .postedEntryTimeout core entry => Sys2Proof.Machine.execPostedEntryTimeout core entry s
  | .postedStoreAck core entry => Sys2Proof.Machine.execPostedStoreAck core entry s
  | .vectorExecute core => Sys2Proof.Machine.execVectorExecute core s
  | .hoistRequestStart core request => Sys2Proof.Machine.execHoistRequestStart core request s
  | .hoistRequestComplete core request => Sys2Proof.Machine.execHoistRequestComplete core request s
  | .benchExecute cluster => Sys2Proof.Machine.execBenchExecute cluster s
  | .waitRelease hart => Sys2Proof.Machine.execWaitRelease hart s
  | .interruptEntry hart => Sys2Proof.Machine.execInterruptEntry hart s
  | .routerForward cluster entry => Sys2Proof.Machine.execRouterForward cluster entry s
  | .scratchLockLeaseExpiry core bank => Sys2Proof.Machine.execScratchLockLeaseExpiry core bank s
  | .coreTimerExpiry hart => Sys2Proof.Machine.execCoreTimerExpiry hart s
  | .waitSatisfied fn q => Sys2Proof.Machine.execWaitSatisfied fn q s
  | .admitPopulation partition => Sys2Proof.Machine.execAdmitPopulation partition s
  | .launchRecordWrite partition => Sys2Proof.Machine.execLaunchRecordWrite partition s
  | .populationComplete partition popid => Sys2Proof.Machine.execPopulationComplete partition popid s
  | .graphNodeStart graph node => Sys2Proof.Machine.execGraphNodeStart graph node s
  | .condNode graph node => Sys2Proof.Machine.execCondNode graph node s
  | .batchForm queue bin => Sys2Proof.Machine.execBatchForm queue bin s
  | .queueFinish queue => Sys2Proof.Machine.execQueueFinish queue s
  | .graphPassRearm graph => Sys2Proof.Machine.execGraphPassRearm graph s
  | .graphEnd graph => Sys2Proof.Machine.execGraphEnd graph s
  | .coldReset images => Sys2Proof.Machine.execColdReset images s
  | .recoveryImageUpload fn image => Sys2Proof.Machine.execRecoveryImageUpload fn image s
  | .attestationQuoteRequest fn nonce => Sys2Proof.Machine.execAttestationQuoteRequest fn nonce s
  | .identityCertificateRequest fn => Sys2Proof.Machine.execIdentityCertificateRequest fn s
  | .powerEvaluation die milliwatts tjC => Sys2Proof.Machine.execPowerEvaluation die milliwatts tjC s
  | .thermalShutdown die tjC => Sys2Proof.Machine.execThermalShutdown die tjC s
  | .linkCrcReplay die failures => Sys2Proof.Machine.execLinkCrcReplay die failures s
  | .haulLaneRetrain port => Sys2Proof.Machine.execHaulLaneRetrain port s
  | .hostBar4Read fn addr bytes tag => Sys2Proof.Machine.execHostBar4Read fn addr bytes tag s
  | .hostBar4Write fn addr data ecrcOk poisoned => Sys2Proof.Machine.execHostBar4Write fn addr data ecrcOk poisoned s
  | .hostCompletionTimeout hart => Sys2Proof.Machine.execHostCompletionTimeout hart s
  | .routeTableWrite fn dev port valid => Sys2Proof.Machine.execRouteTableWrite fn dev port valid s
  | .notifyWrite fn q value => Sys2Proof.Machine.execNotifyWrite fn q value s
  | .funcEnWrite fn value => Sys2Proof.Machine.execFuncEnWrite fn value s
  | .queueEnableWrite fn q value => Sys2Proof.Machine.execQueueEnableWrite fn q value s
  | .registerWrite fn addr bytes value => Sys2Proof.Machine.execRegisterWrite fn addr bytes value s
  | .pluginLoad fn => Sys2Proof.Machine.execPluginLoad fn s
  | .pluginCall partition a0 a1 => Sys2Proof.Machine.execPluginCall partition a0 a1 s
  | .pluginTimeout partition => Sys2Proof.Machine.execPluginTimeout partition s
  | .functionLevelReset fn => Sys2Proof.Machine.execFunctionLevelReset fn s
  | .flrKillTimeout fn => Sys2Proof.Machine.execFlrKillTimeout fn s
  | .flip fn head seq => Sys2Proof.Machine.execFlip fn head seq s
  | .encodeSlot engine => Sys2Proof.Machine.execEncodeSlot engine s
  | .freezeWrite fn region freeze => Sys2Proof.Machine.execFreezeWrite fn region freeze s
  | .tlbInvalidatePage fn => Sys2Proof.Machine.execTlbInvalidatePage fn s
  | .tlbInvalidateAll fn => Sys2Proof.Machine.execTlbInvalidateAll fn s
  | .tlbInvalidateStage2 fn psel => Sys2Proof.Machine.execTlbInvalidateStage2 fn psel s
  | .populate fn q => Sys2Proof.Machine.execPopulate fn q s
  | .graph fn q => Sys2Proof.Machine.execGraph fn q s
  | .copy fn q => Sys2Proof.Machine.execCopy fn q s
  | .wait fn q => Sys2Proof.Machine.execWait fn q s
  | .addPacket fn q => Sys2Proof.Machine.execAddPacket fn q s
  | .patch fn q => Sys2Proof.Machine.execPatch fn q s
  | .fencePacket fn q => Sys2Proof.Machine.execFencePacket fn q s
  | .kill fn q => Sys2Proof.Machine.execKill fn q s
  | .killTimeout fn q => Sys2Proof.Machine.execKillTimeout fn q s
  | .cutCheckpoint fn q => Sys2Proof.Machine.execCutCheckpoint fn q s
  | .cutStop fn q => Sys2Proof.Machine.execCutStop fn q s
  | .cutRestore fn q => Sys2Proof.Machine.execCutRestore fn q s
  | .hostint fn q => Sys2Proof.Machine.execHostint fn q s
  | .nop fn q => Sys2Proof.Machine.execNop fn q s
  | .resize fn q => Sys2Proof.Machine.execResize fn q s
  | .watchdogExpiry fn q seqNo => Sys2Proof.Machine.execWatchdogExpiry fn q seqNo s
  | .saveTimeout fn q seqNo => Sys2Proof.Machine.execSaveTimeout fn q seqNo s
  | .coalesceTimerExpiry fn vec => Sys2Proof.Machine.execCoalesceTimerExpiry fn vec s
  | .agentNode graph node => Sys2Proof.Machine.execAgentNode graph node s
  | .flushExpiry queue bin => Sys2Proof.Machine.execFlushExpiry queue bin s
  | .meshDistribute graph node => Sys2Proof.Machine.execMeshDistribute graph node s
  | .rasterise graph node bin => Sys2Proof.Machine.execRasterise graph node bin s
  | .blend graph node bin => Sys2Proof.Machine.execBlend graph node bin s
  | .rayTraversal graph node bin => Sys2Proof.Machine.execRayTraversal graph node bin s
  | .optimiserChange cluster root change => Sys2Proof.Machine.execOptimiserChange cluster root change s
  | .preemptRequest partition victims => Sys2Proof.Machine.execPreemptRequest partition victims s
  | .hardPreemptCut partition cluster => Sys2Proof.Machine.execHardPreemptCut partition cluster s
  | .preemptRestore partition slot hart => Sys2Proof.Machine.execPreemptRestore partition slot hart s
  | .cutArm unit => Sys2Proof.Machine.execCutArm unit s
  | .cutMarkerArrival core channel => Sys2Proof.Machine.execCutMarkerArrival core channel s
  | .cutResume partition => Sys2Proof.Machine.execCutResume partition s
  | .slacq hart bank rd => Sys2Proof.Machine.execSlacq hart bank rd s
  | .slrel hart bank rd => Sys2Proof.Machine.execSlrel hart bank rd s
  | .directoryRecordPop core rd => Sys2Proof.Machine.execDirectoryRecordPop core rd s
  | .directoryInvalidate core value => Sys2Proof.Machine.execDirectoryInvalidate core value s
  | .directoryDone core value => Sys2Proof.Machine.execDirectoryDone core value s
  | .routerRecordPop core rd => Sys2Proof.Machine.execRouterRecordPop core rd s
  | .routerWiden core value => Sys2Proof.Machine.execRouterWiden core value s
  | .debugHaltRequest core => Sys2Proof.Machine.execDebugHaltRequest core s
  | .debugResumeRequest core => Sys2Proof.Machine.execDebugResumeRequest core s
  | .debugSingleStep hart => Sys2Proof.Machine.execDebugSingleStep hart s
  | .debugAccessRegister hart regno write value => Sys2Proof.Machine.execDebugAccessRegister hart regno write value s
  | .debugProgramBuffer hart => Sys2Proof.Machine.execDebugProgramBuffer hart s
  | .remoteDeviceAccess access => Sys2Proof.Machine.execRemoteDeviceAccess access s
  | .hostErrorCompletion hart abort => Sys2Proof.Machine.execHostErrorCompletion hart abort s
  | .msixUnmask fn vec => Sys2Proof.Machine.execMsixUnmask fn vec s
  | .pageRequestResponse fn page granted => Sys2Proof.Machine.execPageRequestResponse fn page granted s
  | .configurationRequest fn tag => Sys2Proof.Machine.execConfigurationRequest fn tag s
  | .hostLinkTraining width gts => Sys2Proof.Machine.execHostLinkTraining width gts s
  | .pfFunctionLevelReset => Sys2Proof.Machine.execPfFunctionLevelReset s
  | .forwardedPacketAccept => Sys2Proof.Machine.execForwardedPacketAccept s
  | .fenceTso => Sys2Proof.Machine.execFenceTso s
  | .fenceI => Sys2Proof.Machine.execFenceI s
  | .ecall => Sys2Proof.Machine.execEcall s
  | .ebreak => Sys2Proof.Machine.execEbreak s
  | .sret => Sys2Proof.Machine.execSret s
  | .mret => Sys2Proof.Machine.execMret s
  | .wfi => Sys2Proof.Machine.execWfi s
  | .texit => Sys2Proof.Machine.execTexit s

end Sys2Proof.Machine
end

