-- ==== Sys2Proof/Machine/Supervisor.lean ====
section
/-! DEFINITION. What context 0 of a core does as the core supervisor (05 R114, R115; 09 R225, R226; 10 R254): one service at a time, in the order
directory overflow, scope miss, launch record, and after them the reaping of contexts that have exited. Its firmware is Kwedrisyn's and has no
text in the manual, so each service is one action of the device while context 0 waits for it in WFI (notes/assumptions/33.md). -/

namespace Sys2Proof.Machine

/-- Whether context 0 of a core waits in WFI for its services, with no handler of its own: the core is not halted for debug. -/
def supervisorWaits (s : State) (u : Nat) : Bool :=
  let g := s.hart (16 * u)
  u < 4096 && g.waiting = some .interrupt && g.csr.mie = 0 && !(s.core u).dbg.halted && !(s.core u).dbg.haltreq

/- Directory overflow and scope misses. -/

/-- Every core but the slice's own entries: those that may have a copy of a line, or reuse entries that cover it. -/
def spilledSharers (s : State) (line : Nat) : List Nat :=
  (s.cores.filter (fun c => c.2.l1.any (fun e => e.line = line) || c.2.reuse.any (fun r =>
    r.covers.any (fun w => w.1 = 0 && w.2 / 8 = line)))).map (·.1)

/-- A record of the overflow FIFO is served: an ADD record is noted, and for a WRITE record every sharer's copy is invalidated and DONE stored. -/
def serveOverflow (u : Nat) (s : State) : State :=
  match (s.core u).ovf with
  | [] => s
  | r :: _ =>
    let s := (ovfPop u s).2
    if r.write then
      ovfDone u (BitVec.ofNat 64 r.line) ((spilledSharers s r.line).foldl (fun t k => invalidateAt k r.line 0xFF t) s)
    else s

/-- A record of the router is popped and its entry widened (10 R254). -/
def serveScopeMiss (u : Nat) (s : State) : State :=
  let (v, t) := routerPop u s
  if v.getLsbD 63 then widen u (wfld v 3 0) t else s

/- Launch records (05 R114). -/

/-- The population of a launch record. -/
def recordPopulation (s : State) (r : LaunchRec) : Option Population :=
  (s.part r.partition).running.find? (fun x => x.popid = r.popid.toNat)

/-- The contexts that a record takes on a core: those that its co-resident population has reserved there, or else the lowest FREE ones that are not
reserved; none where the core has too few. -/
def recordContexts (s : State) (u : Nat) (r : LaunchRec) : Option (List Nat) :=
  let l := (if r.coresident then
      match recordPopulation s r with
      | some p => (List.range 16).filterMap (fun k => if p.reserve.contains (hartOf u k) then some (hartOf u k) else none)
      | none => []
    else freeContexts s u).take (r.nthr - r.started)
  if l.length = r.nthr - r.started then some l else none

/-- The threads of a population that run on a core. -/
def matesOn (s : State) (u : Nat) (r : LaunchRec) : Nat :=
  ((List.range 16).filter (fun k =>
    let g := s.hart (hartOf u k)
    k ≠ 0 && g.run = .running && g.thread.partition = r.partition && g.thread.popid = r.popid)).length

/-- The record at the head of a core's most urgent launch sub-queue, with the contexts that it takes, where it can start. No thread starts on a core
that a cut has armed. -/
def launchReady (s : State) (u : Nat) : Option (Nat × LaunchRec × List Nat) :=
  if (s.core u).kcut.arm then none
  else match [3, 2, 1, 0].find? (fun k => tblGet [] (s.core u).launch k ≠ []) with
    | none => none
    | some k =>
      match tblGet [] (s.core u).launch k with
      | [] => none
      | r :: _ =>
        if matesOn s u r + (r.nthr - r.started) ≤ r.quota then (recordContexts s u r).map (fun l => (k, r, l)) else none

/-- Context 0 starts every thread of a record, with RTVEC and RTSCR of the threads' function (11 R267). -/
def serveLaunch (u : Nat) (s : State) : State :=
  match launchReady s u with
  | none => s
  | some (k, r, l) =>
    let f := s.func r.partition
    let s := (l.zip (List.range l.length)).foldl (fun t e =>
      startThread e.1 { r with started := r.started + e.2 } f.rtvec f.rtscr t) s
    s.modCore u (fun c => { c with launch := tblSet c.launch k (stampHead s.now ((tblGet [] c.launch k).drop 1)) })

/- Reaping (05 R115). -/

/-- A context of a core that has exited and whose posted stores and copies are complete. -/
def reapReady (s : State) (u : Nat) : Option Nat :=
  if (s.core u).kcut.arm then none
  else ((List.range 16).map (hartOf u)).find? (fun h => ctxOf h ≠ 0 && (s.hart h).run = .exited && !(s.hart h).tkilling
    && !contextBusy (abortHoist h false s) h)

/-- Add 1 to the completion counter of a thread, in the thread's own address space: one atomic add as a device-scope release. -/
def countThread (t : ThreadInfo) (s : State) : Except Nat Unit × State :=
  let old := (s.func t.partition).asReg
  let (r, s) := runFn t.partition (gAdd t.comp.toNat 1) (s.modFunc t.partition (fun f => { f with asReg := t.as }))
  (r, s.modFunc t.partition (fun f => { f with asReg := old }))

/-- Context 0 reaps a context as TREAP does, takes its exit notice, and adds 1 to its population's counter. Where that add faults the supervisor cannot
go on, and the partition is reset (11 R266). -/
def serveReap (u : Nat) (s : State) : State :=
  match reapReady s u with
  | none => s
  | some h =>
    let t := (s.hart h).thread
    let notice : Nat := (tagOf h).toNat + 4 * 2 ^ 13
    let s := discardQueues h (releaseHolds h (abortHoist h false s))
    let s := s.modHart h (fun g => { g with run := .free })
    let s := s.modHart (16 * u) (fun z => { z with q7 := z.q7.filter (fun e => e.2.toNat ≠ notice) })
    match countThread t s with
    | (.ok _, s) => s
    | (.error _, s) => partitionReset t.partition s

/- The service of a core. -/

/-- Whether context 0 of a core has a service to do. -/
def serviceDue (s : State) (u : Nat) : Bool :=
  supervisorWaits s u && ((s.core u).ovf ≠ [] || routerPend s u ≠ 0 || (launchReady s u).isSome || (reapReady s u).isSome)

/-- Context 0 of a core does its most urgent service. -/
def serveCore (u : Nat) (s : State) : State :=
  if !supervisorWaits s u then s
  else if (s.core u).ovf ≠ [] then serveOverflow u s
  else if routerPend s u ≠ 0 then serveScopeMiss u s
  else if (launchReady s u).isSome then serveLaunch u s
  else serveReap u s

end Sys2Proof.Machine
end

