-- ==== Sys2Proof/Machine/Poll.lean ====
section
/-! DEFINITION. What the device outside the cores does by itself: the command cores, the Weighbridge processor, the units of graphs, cuts and
pre-emption, resets, the encoders, the core supervisors and the integrity holds. At most one action falls on a cycle; those that are ready take turns
(notes/assumptions/70.md). -/

namespace Sys2Proof.Machine

/-- An action of the device. -/
inductive Act where
  | packet (fn : Nat)
  | plugin (fn : Nat)
  | kill (fn q : Nat)
  | restoreImage (fn q : Nat)
  | forward
  | admitPop (p : Nat)
  | launch (p : Nat)
  | complete (p popid : Nat)
  | waitDone (fn q : Nat)
  | node (g n : Nat)
  | cond (g n : Nat)
  | agent (g n : Nat)
  | rearm (g : Nat)
  | graphEnd (g : Nat)
  | batch (queue bin : Nat) (flush : Bool)
  | finish (queue : Nat)
  | unit (g n kind bin : Nat)
  | watchdog (fn q seq : Nat)
  | saveTimeout (fn q seq : Nat)
  | coalesce (fn vec : Nat)
  | settle (p : Nat)
  | save (p : Nat)
  | preempt (p : Nat)
  | restore (p slot hart : Nat)
  | hardCut (p c : Nat)
  | arm (u : Nat)
  | marker (u channel : Nat)
  | cutResume (p : Nat)
  | resetEnd (fn : Nat)
  | resetLate (fn : Nat)
  | killLate (fn q : Nat)
  | invalidated (fn : Nat)
  | frozen (k : Nat)
  | encode (e : Nat)
  | hold (d : Nat)
  | service (u : Nat)
  | optimise (p c : Nat)
deriving DecidableEq, Repr

/-- A number for each action, by which they take turns. -/
def Act.key : Act → Nat
  | .packet f => 100 * f
  | .plugin f => 100 * f + 1
  | .kill f q => 100 * (f + 100 * q) + 2
  | .restoreImage f q => 100 * (f + 100 * q) + 3
  | .forward => 4
  | .admitPop p => 100 * p + 5
  | .launch p => 100 * p + 6
  | .complete p n => 100 * (p + 100 * n) + 7
  | .waitDone f q => 100 * (f + 100 * q) + 8
  | .node g n => 100 * (n + 65536 * g) + 9
  | .cond g n => 100 * (n + 65536 * g) + 10
  | .agent g n => 100 * (n + 65536 * g) + 11
  | .rearm g => 100 * g + 12
  | .graphEnd g => 100 * g + 13
  | .batch q b _ => 100 * (b + 65536 * q) + 14
  | .finish q => 100 * q + 15
  | .unit g n _ _ => 100 * (n + 65536 * g) + 16
  | .watchdog f q n => 100 * (f + 100 * (q + 100 * n)) + 17
  | .saveTimeout f q n => 100 * (f + 100 * (q + 100 * n)) + 18
  | .coalesce f v => 100 * (f + 100 * v) + 19
  | .settle p => 100 * p + 20
  | .save p => 100 * p + 21
  | .preempt p => 100 * p + 22
  | .restore p _ _ => 100 * p + 23
  | .hardCut p c => 100 * (p + 100 * c) + 24
  | .arm u => 100 * u + 25
  | .marker u c => 100 * (c + 16 * u) + 26
  | .cutResume p => 100 * p + 27
  | .resetEnd f => 100 * f + 28
  | .resetLate f => 100 * f + 29
  | .killLate f q => 100 * (f + 100 * q) + 30
  | .invalidated f => 100 * f + 31
  | .frozen k => 100 * k + 32
  | .encode e => 100 * e + 33
  | .hold d => 100 * d + 34
  | .service u => 100 * u + 35
  | .optimise p c => 100 * (p + 100 * c) + 36

/- Integrity holds (01 R30). -/

/-- The physical registers under hold that a context or a reuse entry of a core still maps (08 R208). -/
def registersHeld (s : State) (u : Nat) : List Nat :=
  let c := s.core u
  (c.failingLanes.map (·.1)).eraseDups.filter (fun n =>
    (List.range 16).any (fun k => (List.range 16).any (fun r => (s.hart (hartOf u k)).vec.getName r = n))
      || c.reuse.any (fun e => e.key.op ≠ 0x003 && e.key.op ≠ 0x00A && e.name = n))

/-- The number of a word of a context's storage. -/
def Spoiled.code : Spoiled → Nat
  | .x r => r
  | .predicate p w => 0x100 + 16 * p + w
  | .stack e w => 0x1000 + 16 * e + w
  | .special m w => 0x2000 + 16 * m + w
  | .queue q e w => 0x100000 + (16 * q + e) * 128 + w

/-- The words of a context's storage that are under hold. -/
def Hart.heldWords (g : Hart) : List Nat := g.xHeld ++ g.vec.failing.map Spoiled.code

/-- What the units of a compute die hold under an integrity hold, each as a unit and a number: failing words of local memories (8 w + space), failing
sectors that the L1 cache (8 s) or the slice (8 s + 2) holds modified, words of contexts (8 (2^24 context + word) + 6) and vector registers (8 n + 7). -/
def holdsNow (s : State) (d : Nat) : List (Nat × Nat) :=
  (s.cores.filter (fun c => c.1 < 4096 && dieOfUnit c.1 = d)).flatMap (fun c =>
    c.2.failingWords.map (fun w => (c.1, 8 * w.2 + w.1)) ++ (registersHeld s c.1).map (fun n => (c.1, 8 * n + 7))
      ++ (s.failing.filter (fun sec => c.2.l1.any (fun l => l.line = sec / 8 && l.dirty.getLsbD (sec % 8)))).map (fun sec => (c.1, 8 * sec)))
  ++ s.failing.flatMap (fun sec => (s.dir.filter (fun k => dieOfUnit k.1 = d
    && k.2.any (fun e => e.line = sec / 8 && e.dirty.getLsbD (sec % 8)))).map (fun k => (k.1, 8 * sec + 2)))
  ++ (s.harts.filter (fun h => isVector h.1 && dieOfUnit (unitOf h.1) = d)).flatMap (fun h =>
    h.2.heldWords.map (fun w => (unitOf h.1, 8 * (2 ^ 24 * ctxOf h.1 + w) + 6)))

/-- The holds of a die follow the failures: each new one is logged and reported to the monitor, a seventeenth resets the partition that owns the data, and
one whose data are replaced ends. -/
def settleHolds (d : Nat) (s : State) : State :=
  let now := holdsNow s d
  let kept := (s.die d).holds.filter (fun h => now.contains h)
  match now.find? (fun h => !kept.contains h) with
  | none => s.modDie d (fun x => { x with holds := kept })
  | some h =>
    let s := s.modDie d (fun x => { x with holds := kept, log := x.log ++ [h] })
    let s := { s with monitor := s.monitor ++ [.hold d h.1 h.2] }
    if kept.length < 16 then s.modDie d (fun x => { x with holds := kept ++ [h] })
    else
      let p := partOfCluster s (h.1 / 8)
      let s := partitionReset p s
      { s with failing := if h.2 % 8 = 0 ∨ h.2 % 8 = 2 then s.failing.filter (· ≠ h.2 / 8) else s.failing }

/-- Whether the holds of a die do not agree with its failures. -/
def holdsDue (s : State) (d : Nat) : Bool :=
  let now := holdsNow s d
  !((s.die d).holds.all (now.contains ·) && now.all ((s.die d).holds.contains ·))

/- What is ready. -/

/-- The actions of the queues of a function. -/
def queueActs (s : State) (fn : Nat) : List Act :=
  let f := s.func fn
  let qs := f.queues.map (·.1)
  let l := if f.flr.isSome then [] else readyQueues s fn
  (if (s.part fn).pluginCall.isSome then (if (pluginEnded s fn).isSome then [.plugin fn] else [])
    else if l = [] then []
    else if f.pluginActive && 2 ≤ l.length then (if pluginDue s fn then [.plugin fn] else [])
    else [.packet fn])
  ++ qs.flatMap (fun q =>
      let started := (s.queue fn q).started
      (if (killReady s fn q).isSome then [Act.kill fn q] else if (killLate s fn q).isSome then [Act.killLate fn q] else [])
      ++ (if (restoreReady s fn q).isSome then [Act.restoreImage fn q] else [])
      ++ (if started.any (fun e => pFld e.packet 0 1 = 4 && e.stopped.isNone && !underKill s fn q e.seqNo && (match (runFn fn (counterReached e.packet) s).1 with
            | .ok r => r
            | .error _ => true)) then [Act.waitDone fn q] else [])
      ++ started.filterMap (fun e =>
          if saveTimeoutDue s fn q e then some (Act.saveTimeout fn q e.seqNo)
          else if (e.expired && threadsQuiet s e.harts)
              || (!e.expired && watchdogDue s fn e && !underKill s fn q e.seqNo && !workHeld s fn q e.seqNo) then
            some (Act.watchdog fn q e.seqNo)
          else none))

/-- The other actions of a function. -/
def funcActs (s : State) (fn : Nat) : List Act :=
  let f := s.func fn
  (f.msix.filter (fun v => v.2.pending ≠ 0 && v.2.since + v.2.timer ≤ cmdCycles s)).map (fun v => Act.coalesce fn v.1)
  ++ (if resetQuiet s fn then [Act.resetEnd fn] else if flrLate s fn then [Act.resetLate fn] else [])
  ++ (match f.invBusy with
    | some b => if olderPosted s (if f.invStage2 then partByte f.invPsel else fn) b then [] else [Act.invalidated fn]
    | none => [])

/-- The actions of a partition. -/
def partActs (s : State) (p : Nat) : List Act :=
  let q := s.part p
  (if admissionReady s p then [Act.admitPop p] else [])
  ++ (if (nextRecord s p).isSome then [Act.launch p] else [])
  ++ (q.running.filter (popCounted s)).map (fun x => Act.complete p x.popid)
  ++ (if q.victims.any (victimGone s) then [Act.settle p] else [])
  ++ (if q.victims.any (saveReady s p) then [Act.save p] else [])
  ++ (if (preemptPlan s p).isSome then [Act.preempt p] else [])
  ++ (match nextReturn s p with
    | some (slot, h) => [Act.restore p slot h]
    | none => [])
  ++ (match q.cut with
    | none => ((q.victims.map (fun v => v.1 / 128)).eraseDups.filter (hardDue s p)).map (fun c => Act.hardCut p c)
    | some k =>
      (if cutEnds s p then [Act.cutResume p] else [])
      ++ (cutUnits k.clusters).flatMap (fun u =>
        (if armReady s u then [Act.arm u] else [])
        ++ ((List.range 16).filter (markerReady s u)).map (fun c => Act.marker u c)))

/-- The actions of a graph: of the nodes that are ready together the least-numbered one starts (04 R93). -/
def graphActs (s : State) (g : Graph) : List Act :=
  let first := (List.range g.nodes.length).find? (nodeReady s g)
  (List.range g.nodes.length).filterMap (fun n =>
    match g.kind n with
    | 0x0D => if first = some n then some (Act.cond g.id n) else none
    | 0x0E =>
      match s.units.find? (fun u => u.graph = g.id && u.node = n) with
      | some u => if agentDone s u then some (Act.agent g.id n) else none
      | none => if first = some n then some (Act.agent g.id n) else none
    | _ => if waitNodeReady s g n || first = some n then some (Act.node g.id n) else none)
  ++ (if graphEnds s g then [Act.graphEnd g.id] else [])
  ++ (if g.rearm && g.failure.isNone && !g.states.any (· = .started) && queuesQuiet s g then [Act.rearm g.id] else [])

/-- The actions of a list queue: of the bins that are ready together the lowest forms its batch (05 R123). -/
def listQueueActs (s : State) (q : ListQueue) : List Act :=
  let v := lqDesc s q.pa
  ((List.range (lqBins v)).findSome? (fun b => (batchSize s q b).map (fun n => Act.batch q.pa b (n < lqBatch v && !lqClosed v)))).toList
  ++ (if closeReady s q || queueFinishes s q then [Act.finish q.pa] else [])

/-- The services of the core supervisors. -/
def serviceActs (s : State) : List Act := ((s.cores.filter (fun c => serviceDue s c.1)).map (fun c => Act.service c.1))

/-- The changes under way whose turn cannot wait (06 R146). -/
def lateChanges (s : State) : List Act :=
  s.parts.flatMap (fun p => (p.2.changes.filter (changeLate s)).map (fun r => Act.optimise p.1 r.cluster))

/-- Every action that is ready but the services. -/
def deviceActs (s : State) : List Act :=
  s.funcs.flatMap (fun f => queueActs s f.1 ++ funcActs s f.1)
  ++ s.parts.flatMap (fun p => partActs s p.1)
  ++ (if s.weighbridge.any (forwardReady s) then [Act.forward] else [])
  ++ s.graphs.flatMap (graphActs s)
  ++ s.listQueues.flatMap (listQueueActs s)
  ++ s.units.filterMap (fun u => (unitReady s u).map (fun b => Act.unit u.graph u.node u.kind b))
  ++ s.regions.filterMap (fun r => match r.2.busy with
      | some b => if regionBusy s r.1 b then none else some (Act.frozen r.1)
      | none => none)
  ++ (List.range 8).filterMap (fun e =>
      if engineFlips s e ≠ [] && (tblGet {} s.engines e).last < s.now / slotCycles then some (Act.encode e) else none)
  ++ ((List.range 8).filter (holdsDue s)).map Act.hold
  ++ s.parts.flatMap (fun p => p.2.changes.map (fun r => Act.optimise p.1 r.cluster))

/-- Every action that is ready: while a write of the units waits at a line in overflow, only the services go on, which end that wait. -/
def readyActs (s : State) : List Act :=
  if deviceHeld s then serviceActs s
  else match lateChanges s with
    | [] => deviceActs s ++ serviceActs s
    | l => l

/-- The action whose turn it is: the next key after that of the last, and else the least. -/
def nextAct (s : State) : Option Act :=
  let least (l : List Act) : Option Act := l.foldl (fun best a => match best with
    | none => some a
    | some b => if a.key < b.key then some a else some b) none
  let l := readyActs s
  match least (l.filter (fun a => s.actLast < a.key)) with
  | some a => some a
  | none => least l

/-- The action that the device takes in this cycle: none before its firmware runs, and none in recovery (01 R31, R34). -/
def deviceAction (s : State) : Option Act :=
  if s.boot.stage ≠ 3 ∨ s.boot.recovery ∨ s.now < s.actAt then none else nextAct s

/-- What an action does. -/
def doAct (a : Act) (s : State) : Host.Outcome State Fault Refusal :=
  match a with
  | .packet fn => runPacket fn ((readyQueues s fn).headD 0) none s
  | .plugin fn =>
    match pluginEnded s fn with
    | some (some (a0, a1)) => execPluginCall fn a0 a1 s
    | some none => execPluginTimeout fn s
    | none => execPluginCall fn 0 0 s
  | .kill fn q => execKill fn q s
  | .restoreImage fn q => execCutRestore fn q s
  | .forward => execForwardedPacketAccept s
  | .admitPop p => execAdmitPopulation p s
  | .launch p => execLaunchRecordWrite p s
  | .complete p n => execPopulationComplete p n s
  | .waitDone fn q => execWaitSatisfied fn q s
  | .node g n => execGraphNodeStart g n s
  | .cond g n => execCondNode g n s
  | .agent g n => execAgentNode g n s
  | .rearm g => execGraphPassRearm g s
  | .graphEnd g => execGraphEnd g s
  | .batch q b flush => if flush then execFlushExpiry q b s else execBatchForm q b s
  | .finish q => execQueueFinish q s
  | .unit g n kind b =>
    (match kind with
    | 1 => execMeshDistribute g n s
    | 2 => execRasterise g n b s
    | 3 => execRayTraversal g n b s
    | 4 => execBlend g n b s
    | k => match unitOfNode s g n k with
      | some u => .next ((unitTry u b av1Record s).getD s)
      | none => .next s)
  | .watchdog fn q n => execWatchdogExpiry fn q n s
  | .saveTimeout fn q n => execSaveTimeout fn q n s
  | .coalesce fn v => execCoalesceTimerExpiry fn v s
  | .settle p => .next (settleVictims p s)
  | .save p => .next (softSave p s)
  | .preempt p => execPreemptRequest p (((preemptPlan s p).map (·.2)).getD []) s
  | .restore p slot h => execPreemptRestore p slot h s
  | .hardCut p c => execHardPreemptCut p c s
  | .arm u => execCutArm u s
  | .marker u c => execCutMarkerArrival u c s
  | .cutResume p => execCutResume p s
  | .resetEnd fn => .next (endReset fn s)
  | .resetLate fn => execFlrKillTimeout fn s
  | .killLate fn q => execKillTimeout fn q s
  | .invalidated fn => .next (s.modFunc fn (fun f => { f with invBusy := none }))
  | .frozen k => .next (endFreeze k s)
  | .encode e => execEncodeSlot e s
  | .hold d => .next (settleHolds d s)
  | .service u => .next (serveCore u s)
  | .optimise p c => .next (optimiserStep p c s)

/-- The device acts; it does not act again in this cycle. -/
def runAct (a : Act) (s : State) : Host.Outcome State Fault Refusal := doAct a { s with actAt := s.now + 1, actLast := a.key }

end Sys2Proof.Machine
end

