-- ==== Sys2Proof/Machine/Issue.lean ====
section
/-! DEFINITION. What a step does: a disturbance that is met, a due event, a hart whose wait ends, or the next hart that issues (07 R162, R164, R167,
R168, R170, R171), and otherwise the next cycle. -/

namespace Sys2Proof.Machine

/- Issue slots (07 R166, R167). -/

/-- Issue class of an instruction: 0 is S, 1 is X, 2 is Solo. -/
def issueClass : Instr → Nat
  | .add _ _ _ | .sub _ _ _ | .sll _ _ _ | .slt _ _ _ | .sltu _ _ _ | .xor _ _ _ | .srl _ _ _ | .sra _ _ _ | .or _ _ _
  | .and _ _ _ | .addw _ _ _ | .subw _ _ _ | .sllw _ _ _ | .srlw _ _ _ | .sraw _ _ _ => 0
  | .addi _ _ _ | .slti _ _ _ | .sltiu _ _ _ | .xori _ _ _ | .ori _ _ _ | .andi _ _ _ | .slli _ _ _ | .srli _ _ _
  | .srai _ _ _ | .addiw _ _ _ | .slliw _ _ _ | .srliw _ _ _ | .sraiw _ _ _ | .lui _ _ | .auipc _ _ => 0
  | .jal _ _ | .jalr _ _ _ | .beq _ _ _ | .bne _ _ _ | .blt _ _ _ | .bge _ _ _ | .bltu _ _ _ | .bgeu _ _ _ => 0
  | .mul _ _ _ | .mulh _ _ _ | .mulhsu _ _ _ | .mulhu _ _ _ | .div _ _ _ | .divu _ _ _ | .rem _ _ _ | .remu _ _ _
  | .mulw _ _ _ | .divw _ _ _ | .divuw _ _ _ | .remw _ _ _ | .remuw _ _ _ => 0
  | .csrrw _ _ _ | .csrrs _ _ _ | .csrrc _ _ _ | .csrrwi _ _ _ | .csrrsi _ _ _ | .csrrci _ _ _ => 2
  | .fence _ _ | .fenceTso | .fenceI | .fenceS _ _ | .sfenceVma _ _ | .ecall | .ebreak | .mret | .sret | .wfi => 2
  | _ => 1

/-- Whether an encoding raises illegal instruction on a hart whatever its state (13 R321; 07 R162, R180; 14 R351–R370): its class is then Solo. -/
def illegalHere (h : Nat) : Instr → Bool
  | .bfmtFormat _ | .bfmtRowScales _ | .bfmtColumnScales _ | .bls _ | .bswap _ | .bstream _ | .bclr _ | .bstat _ | .bsync _
  | .bsave _ | .brstr _ => !(isControl h && ctxOf h = 1)
  | .tspawn _ _ _ | .treap _ _ | .tkill _ => !(isVector h && ctxOf h = 0)
  | .texit | .gjoin _ _ | .gleave _ | .gbar _ | .gsize _ | .grank _ => !(isVector h && ctxOf h ≠ 0)
  | .hpush r | .hpusht _ r => !(1 ≤ r.toNat && r.toNat ≤ 28)
  | .drain mem => 4 ≤ mem.toNat
  | .qpop d t | .qpopt d t => d = t && d ≠ 0
  | i => !i.wellFormed

/-- Issue class of an instruction on a hart (07 R166). -/
def classOn (h : Nat) (i : Instr) : Nat := if illegalHere h i then 2 else issueClass i

/-- A branch, JAL or JALR, which ends a slot, or a Solo instruction. -/
def endsSlot (h : Nat) : Instr → Bool
  | .jal _ _ | .jalr _ _ _ | .beq _ _ _ | .bne _ _ _ | .blt _ _ _ | .bge _ _ _ | .bltu _ _ _ | .bgeu _ _ _ => true
  | i => classOn h i = 2

/-- The x registers that an instruction reads and for which it waits while they are empty: not those of a set t bit. -/
def xRead (i : Instr) : List Nat :=
  let l : List Reg := match i.long? with
    | some (f, k) =>
      let pick (c : FieldClass) (t : Bool) (r : Reg) : List Reg := match c with
        | .x => if t then [] else [r]
        | _ => []
      pick k.a f.ta f.a ++ pick k.b f.tb f.b ++ pick (if k.progress && f.nt then .x else k.c) f.tc f.c
    | none =>
      match encode i with
      | some w =>
        let rs1 := reg w 15
        let rs2 := reg w 20
        match i with
        | .lui _ _ | .auipc _ _ | .jal _ _ => []
        | .addi _ _ _ | .slti _ _ _ | .sltiu _ _ _ | .xori _ _ _ | .ori _ _ _ | .andi _ _ _ | .slli _ _ _ | .srli _ _ _
        | .srai _ _ _ | .addiw _ _ _ | .slliw _ _ _ | .srliw _ _ _ | .sraiw _ _ _ | .jalr _ _ _ => [rs1]
        | .lb _ _ _ | .lh _ _ _ | .lw _ _ _ | .ld _ _ _ | .lbu _ _ _ | .lhu _ _ _ | .lwu _ _ _ => [rs1]
        | .hpush r | .hpusht _ r => (List.range 4).map (fun k => BitVec.ofNat 5 (r.toNat + k))
        | .feprobe _ _ _ | .femark _ _ | .drain _ | .qpop _ _ | .qpopt _ _ => []
        | _ => [rs1, rs2]
      | none => []
  (l.map (·.toNat)).filter (· ≠ 0)

/-- The x registers that an instruction writes. -/
def xWritten (i : Instr) : List Nat :=
  let l : List Reg := match i.long? with
    | some (f, k) => (match k.d with
        | .x => [f.d]
        | _ => [])
    | none =>
      match i with
      | .sb _ _ _ | .sh _ _ _ | .sw _ _ _ | .sd _ _ _ | .beq _ _ _ | .bne _ _ _ | .blt _ _ _ | .bge _ _ _ | .bltu _ _ _
      | .bgeu _ _ _ => []
      | .femark r bank => if bank = 0 then [r] else []
      | .qpop d t | .qpopt d t => [d, t]
      | .drain _ | .hpush _ => []
      | _ => match encode i with
        | some w => [reg w 7]
        | none => []
  (l.map (·.toNat)).filter (· ≠ 0)

/-- The x registers that an instruction word names, read or written; x0 is none of them. -/
def xNamed (i : Instr) : List Nat :=
  let more : List Reg := match i.long? with
    | some (f, k) =>
      let pick (c : FieldClass) (r : Reg) : List Reg := match c with
        | .x => [r]
        | _ => []
      pick k.a f.a ++ pick k.b f.b ++ pick k.c f.c
    | none => match i with
      | .feprobe _ r bank => if bank = 0 then [r] else []
      | _ => []
  xWritten i ++ xRead i ++ (more.map (·.toNat)).filter (· ≠ 0)

/-- Whether a slot takes one more instruction of n bytes at a pc (07 R167). -/
def slotTakes (sl : Slot) (i : Instr) (pc : Word) (n : Nat) : Bool :=
  let k := classOn sl.hart i
  k ≠ 2 && !(k = 0 && sl.ns = 2) && !(k = 1 && sl.nx = 1)
    && !(xNamed i).any (fun r => sl.writes.contains r)
    && (pc.toNat + n - 1) / 64 = sl.block

/-- The slot after an instruction has joined it: none when it stops there. -/
def slotAdd (sl : Option Slot) (h : Nat) (i : Instr) (pc : Word) : Option Slot :=
  let b := sl.getD { hart := h, ns := 0, nx := 0, writes := [], block := pc.toNat / 64 }
  if endsSlot h i ∨ !isVector h then none
  else some { b with
    ns := b.ns + natOf (classOn h i = 0), nx := b.nx + natOf (classOn h i = 1), writes := xWritten i ++ b.writes }

/-- What an instruction that joins a slot would wait for: an empty register that it reads (07 R168). -/
def emptyRead (s : State) (h : Nat) (i : Instr) : Option Wait :=
  match (xRead i).find? (fun r => !(s.hart h).xReady s.now r) with
  | some r => some (.xreg r)
  | none =>
    let t := { s with cur := h }
    match tTraps i t, vWaits i t with
    | .ok _, .error (.wait (.vreg r)) => some (.vreg r)
    | _, _ => none

/-- What a slot that a context begins waits for: the instructions that would join it behind the one at the pc, at most k of them, are looked
through before any of it issues (07 R168; 14 R341). -/
def slotWait (h : Nat) : Nat → State → Option Slot → Word → Option Wait
  | 0, _, _, _ => none
  | k + 1, s, sl, pc =>
    match sl with
    | none => none
    | some b => match fetchAt s h pc with
      | .instr i len _ =>
        if !slotTakes b i pc len then none
        else match emptyRead s h i with
          | some w => some w
          | none => slotWait h k s (slotAdd (some b) h i pc) (pc + BitVec.ofNat 64 len)
      | _ => none

/- Who issues. -/

/-- The cycles between two issues of one context. -/
def issueSpacing (h : Nat) : Nat := if isVector h then 4 else if isControl h then 2 else 1

/-- Whether a hart may run for its owner: a program context needs a cluster that a partition owns (02 R40), and a command core that runs a plug-in goes on
in U-mode until the call has lasted 10,000 cycles (03 R63). -/
def ownerLets (s : State) (h : Nat) : Bool :=
  if isVector h then ctxOf h = 0 || (clusterOwner s (h / 128)).isSome
  else match pluginOf s h with
    | some p => (s.hart h).priv = .user && (match (s.part p).pluginCall with
      | some c => decide (cmdCycles s ≤ c.since + 10000)
      | none => true)
    | none => true

/-- Whether a hart's core lets it issue: not halted (11 R290) but for the hart of a single step (11 R292) or of the program
buffer (11 R291), not stopped for a cut (11 R284), and not stopped while a lane is retired (08 R208). -/
def coreLets (s : State) (h : Nat) : Bool :=
  let c := s.core (unitOf h)
  ownerLets s h && if isVector h then
    decide (c.stallUntil ≤ s.now) && (if inProgram s h then true
      else if c.dbg.haltreq then false
      else if c.dbg.halted then c.dbg.stepping = some h
      else true)
    && (!c.kcut.arm || ctxOf h = 0 || inProgram s h)
  else if isControl h then !(s.cluster ((h - 0x10000) / 2)).cutArm || ctxOf h = 0
  else true

/-- Whether a hart takes interrupts now: not in a single step, for which dcsr has no stepie (11 R289). -/
def takesIrq (s : State) (h : Nat) : Bool := !(s.core (unitOf h)).dbg.halted && (nextIrq s h).isSome

/-- Whether a hart is eligible in this cycle (07 R164, R170, R171). -/
def eligible (s : State) (h : Nat) : Bool :=
  let g := s.hart h
  (g.run = .running || inProgram s h) && !g.tkilling && coreLets s h && !saving s g.thread.partition h
    && ((g.waiting = none && g.readyAt ≤ s.now) || (g.waiting ≠ none && !inProgram s h && takesIrq s h))
    && (!g.issued || g.lastIssue + issueSpacing h ≤ s.now)

/-- Whether a unit has issued in this cycle. -/
def unitBusy (s : State) (u : Nat) : Bool :=
  (s.harts.filter (fun e => unitOf e.1 = u)).any (fun e => e.2.issued && e.2.lastIssue = s.now)

/-- The number of contexts of a hart's unit. -/
def contextsOf (h : Nat) : Nat := if isVector h then 16 else if isControl h then 2 else 1

/-- How far a context is from its unit's last issuer in cyclic order (07 R164). -/
def rank (s : State) (h : Nat) : Nat :=
  let n := contextsOf h
  (ctxOf h + 2 * n - (s.core (unitOf h)).last % n - 1) % n

/-- The harts that the state lists, with context 0 of every core that it lists. -/
def knownHarts (s : State) : List Nat :=
  let l := s.harts.map (·.1)
  l ++ (s.cores.map (fun c => 16 * c.1)).filter (fun h => h < 0x10000 && !l.contains h)

/-- The next hart to begin a slot in this cycle: the first in rotation of the first unit, in cyclic order after the unit that
issued last, that has an eligible context and has not issued. -/
def nextHart (s : State) : Option Nat :=
  let ready := (knownHarts s).filter (fun h => eligible s h && !unitBusy s (unitOf h))
  let t := unitOf s.turn
  let key (h : Nat) : Nat := ((unitOf h + 8192 - t) % 8192) * 16 + rank s h
  ready.foldl (fun best h => match best with
    | none => some h
    | some b => if key h < key b then some h else some b) none

/- Issue. -/

/-- The state in which a hart begins to issue. -/
def beginIssue (h : Nat) (sl : Option Slot) (s : State) : State :=
  ({ s with cur := h, turn := h }.modHart h (fun g => { g with lastIssue := s.now, issued := true })).modCore (unitOf h)
    (fun c => { c with last := ctxOf h, slot := sl })

/-- A context that waits takes no slot (07 R170), unless its instruction has gone into the vector instruction queue; the debug module goes on
otherwise. -/
def endIssue (before : State) (h len : Nat) (o : Host.Outcome State Fault Refusal) : Host.Outcome State Fault Refusal :=
  match o with
  | .next t =>
    let u := unitOf h
    match (t.hart h).waiting with
    | some .vecHeld => .next t
    | some _ =>
      .next ((t.modHart h (fun g => { g with lastIssue := (before.hart h).lastIssue, issued := (before.hart h).issued })).modCore u
        (fun c => { c with last := (before.core u).last }))
    | none => .next (stepDone h len t)
  | o => o

/-- Whether an instruction accesses memory, for the order behind an acquire (10 R249). -/
def accessesMemory : Instr → Bool
  | .lb _ _ _ | .lh _ _ _ | .lw _ _ _ | .ld _ _ _ | .lbu _ _ _ | .lhu _ _ _ | .lwu _ _ _ | .sb _ _ _ | .sh _ _ _ | .sw _ _ _ | .sd _ _ _ => true
  | .lr _ _ _ _ _ | .sc _ _ _ _ _ _ | .amoswap _ _ _ _ _ _ | .amoadd _ _ _ _ _ _ | .amoxor _ _ _ _ _ _ | .amoand _ _ _ _ _ _ => true
  | .amoor _ _ _ _ _ _ | .amomin _ _ _ _ _ _ | .amomax _ _ _ _ _ _ | .amominu _ _ _ _ _ _ | .amomaxu _ _ _ _ _ _ => true
  | .cwait _ _ | .hpush _ | .hpusht _ _ | .msend _ _ | .vsave _ | .vrstr _ | .vld _ | .vldff _ | .vgather _ | .vst _ => true
  | .vscatter _ | .vrred _ | .vamoadd _ | .vldacc _ | .samoLoad _ | .samoStore _ | .samoAdd _ | .samoSwap _ | .samoAnd _ => true
  | .samoOr _ | .samoXor _ | .samoMin _ | .samoMax _ | .samoMinu _ | .samoMaxu _ | .samoCas _ | .bls _ | .bswap _ => true
  | .tspawn _ _ _ | .bfmtRowScales _ | .bfmtColumnScales _ => true
  | .bstream _ | .bsave _ | .brstr _ | .vtex _ | .vtexlod _ | .rq _ | .rqany _ | .xpair _ | .agpush _ | .agpop _ => true
  | _ => false

/-- Execute an instruction that has been fetched; an access waits for an earlier acquire of the context (10 R249). -/
def issueInstr (before : State) (h : Nat) (sl : Option Slot) (i : Instr) (len : Nat) (s : State) :
    Host.Outcome State Fault Refusal :=
  let t := beginIssue h (slotAdd sl h i (s.hart h).pc) s
  endIssue before h len (if acquirePending s h && accessesMemory i then .next (enterWait .acquire t) else exec i t)

/-- The next instruction of the program buffer; past its 16 words stands an EBREAK (11 R289, R291). -/
def issueProgram (s : State) (h n : Nat) : Host.Outcome State Fault Refusal :=
  let u := unitOf h
  let w (k : Nat) : Nat := (tblGet 0 (s.core u).dbg.progbuf k).toNat
  if 16 ≤ n then .next (endProgram u 0 s)
  else match lengthOf (w n) with
    | none => .next (endProgram u 3 s)
    | some len =>
      match decodeWord len (if len = 4 ∨ n = 15 then w n else w n + w (n + 1) * 2 ^ 32) with
      | none => .next (endProgram u 3 s)
      | some i => issueInstr s h none i len s

/-- A hart issues: it takes an enabled interrupt, or fetches and executes the instruction at its pc, unless its slot waits. -/
def issue (s : State) (h : Nat) : Host.Outcome State Fault Refusal :=
  match (s.core (unitOf h)).dbg.prog with
  | some (k, n) => if k = h then issueProgram s h n else .next s
  | none =>
    if takesIrq s h then endIssue s h 0 (exec (.interruptEntry h) (beginIssue h none s))
    else
      match fetchAt s h (s.hart h).pc with
      | .instr i len t =>
        match slotWait h 3 t (slotAdd none h i (s.hart h).pc) ((s.hart h).pc + BitVec.ofNat 64 len) with
        | some w => endIssue s h 0 (.next (enterWait w (beginIssue h none t)))
        | none => issueInstr s h none i len t
      | .fault cause tval t => endIssue s h 0 (.next (takeTrap cause tval (beginIssue h none t)))
      | .illegal w t => endIssue s h 0 (.next (takeIllegal w (beginIssue h none t)))
      | .wait w t => endIssue s h 0 (.next (enterWait w (beginIssue h none t)))

/-- The slot of the hart that issued last goes on, where its next instruction joins it (07 R167). -/
def continueSlot (s : State) : Option (Host.Outcome State Fault Refusal) :=
  let h := s.turn
  let u := unitOf h
  match (s.core u).slot with
  | none => none
  | some sl =>
    let g := s.hart h
    if sl.hart ≠ h ∨ g.lastIssue ≠ s.now ∨ g.waiting ≠ none ∨ g.run ≠ .running ∨ !coreLets s h
        ∨ (s.core u).dbg.prog ≠ none then none
    else match fetchAt s h g.pc with
      | .instr i len t => if slotTakes sl i g.pc len then some (issueInstr s h (some sl) i len t) else none
      | _ => none

/- The step. -/

/-- Take the first event that is due out of the agenda. -/
def takeDue (now : Nat) : List (Nat × Instr) → Option (Instr × List (Nat × Instr))
  | [] => none
  | (t, e) :: rest =>
    if t ≤ now then some (e, rest)
    else (takeDue now rest).map (fun r => (r.1, (t, e) :: r.2))

/-- A hart whose wait has ended. -/
def freedHart (s : State) : Option Nat :=
  (knownHarts s).find? (fun h => match (s.hart h).waiting with
    | some w => released s h w
    | none => false)

/-- A hart whose timer has come (08 R210; 11 R268). -/
def expiredTimer (s : State) : Option Nat :=
  (s.harts.find? (fun e => e.2.csr.ktimecmp.toNat ≤ s.now && !e.2.irqPending.getLsbD 16)).map (·.1)

/-- The next cycle: every core that waits to halt looks whether it has drained. -/
def nextCycle (s : State) : State :=
  let s := { s with now := s.now + 1 }
  ((s.cores.filter (fun c => c.2.dbg.haltreq)).map (·.1)).foldl (fun t u => haltCheck u t) s

/-- Whether an event is a cold reset. -/
def isColdReset : Instr → Bool
  | .coldReset _ => true
  | _ => false

/-- A step while every die is held in reset (01 R15): a cold reset that is due, and nothing else. -/
def stepHeld (s : State) : Host.Outcome State Fault Refusal :=
  match s.agenda.find? (fun e => isColdReset e.2) with
  | some (_, e) => exec e s
  | none => .fault .heldInReset

/-- One step of the machine: a disturbance that is met, a due event, a timer, the end of a wait, an action of the device, an issue, or the next cycle. -/
def stepOnce (s : State) : Host.Outcome State Fault Refusal :=
  if s.boot.held then stepHeld s
  else match takeFlaw s s.flaws with
  | some (f, rest) => .next (meetFlaw f { s with flaws := rest })
  | none =>
    match takeDue s.now s.agenda with
    | some (e, rest) => exec e { s with agenda := rest }
    | none => match expiredTimer s with
      | some h => exec (.coreTimerExpiry h) s
      | none => match freedHart s with
        | some h => exec (.waitRelease h) s
        | none => match continueSlot s with
          | some o => o
          | none => match deviceAction s with
            | some a => runAct a s
            | none => match nextHart s with
              | some h => issue s h
              | none => .next (nextCycle s)

/- Placing an instruction where the next step fetches it. -/

/-- The hart that runs an instruction placed by withFetchWord: the Bench sequencer of cluster 0 for the Bench instructions
(07 R162), context 0 of core 0 for TSPAWN, TREAP and TKILL (07 R180), and context 1 of core 0 for every other. -/
def placeHart : Instr → Nat
  | .bfmtFormat _ | .bfmtRowScales _ | .bfmtColumnScales _ | .bls _ | .bswap _ | .bstream _ | .bclr _ | .bstat _ | .bsync _
  | .bsave _ | .brstr _ => 0x10001
  | .tspawn _ _ _ | .treap _ _ | .tkill _ => 0
  | _ => 1

/-- The mode it runs in: U-mode for ECALL, S-mode for the instructions of the core supervisor, M-mode otherwise. -/
def placePriv : Instr → Priv
  | .ecall => .user
  | .tspawn _ _ _ | .treap _ _ | .tkill _ => .supervisor
  | _ => .machine

/-- The state with a program's bytes at an address of memory where a hart that runs fetches next. -/
def placeProgram (h : Nat) (p : Priv) (va : Nat) (bs : List Byte) (s : State) : State :=
  let u := unitOf h
  let s := { s with mem := memWrite s.mem va bs, turn := h, agenda := s.agenda.filter (fun e => s.now < e.1)
                    flaws := s.flaws.filter (fun e => s.now < e.1) }
  let s := s.modCluster ((clusterOfUnit u).getD 0) (fun c => { c with walks := [], cutArm := false })
  let s := s.modHart h (fun g => { g with
    run := .running, waiting := none, readyAt := s.now, issued := false, priv := p, pc := BitVec.ofNat 64 va
    csr := { g.csr with mie := 0, satp := 0 }, thread := { g.thread with as := 0, partition := 64 } })
  s.modCore u (fun c => { c with
    slot := none, icache := [], tlb := [], itlb := [], pipes := [], last := if ctxOf h = 0 then 15 else ctxOf h - 1
    kcut := { c.kcut with arm := false }, dbg := {} })

/-- The address at which withFetchWord places its instruction. -/
def placeAddr : Nat := 0x1000

/-- The state with an instruction of nbits bits and zeros above it placed where the next step fetches. -/
def placeWord (nbits w : Nat) (s : State) : State :=
  let bs := leBytes 8 (w % 2 ^ nbits)
  match decodeTableWord nbits w with
  | some i => placeProgram (placeHart i) (placePriv i) placeAddr bs s
  | none => placeProgram 1 .machine placeAddr bs s

end Sys2Proof.Machine
end

