-- ==== Sys2Proof/Machine/Step.lean ====
section
/-! DEFINITION. The step of the machine, and the placing of an instruction where it fetches next. -/

namespace Sys2Proof.Machine

/-- One step: what stepOnce says. -/
def step (s : State) : Host.Outcome State Fault Refusal := stepOnce s

/-- The state with an instruction where the next step fetches and runs it (notes/assumptions/14.md). -/
def State.withFetchWord (s : State) (nbits w : Nat) : State := placeWord nbits w s

end Sys2Proof.Machine
end

