-- ==== Sys2Proof/Safety.lean ====
section
/-! DEFINITION. What counts as a safe state, and the terms in which the statements are written: what it means that an operand is
readable, the state after a register write and a retirement, and the tables of instructions of one shape with the result that the
manual gives each. -/

namespace Sys2Proof.Machine

/- Safe states. -/

/-- Both memories of the package are in their canonical form: addresses strictly rising, and no byte listed that an unlisted address
reads as. -/
def MemoriesWf (s : State) : Bool := Memory.wf s.mem && Memory.wf s.hostMem

/-- The byte at a number that names device memory, or host memory from hostBase upwards. -/
def byteAt (s : State) (a : Nat) : Byte := (gBytes s a 1).headD 0

/- Operands of the executing hart. -/

/-- The executing hart. -/
abbrev State.self (s : State) : Hart := s.hart s.cur

/-- Register r of the executing hart is full for a reader, and under no integrity hold (08 R183, R206). -/
def Readable (s : State) (r : Reg) : Prop := s.self.xReady s.now r.toNat = true ∧ r.toNat ∉ s.self.xHeld

/-- Register r of the executing hart is empty for a reader. -/
def Empty (s : State) (r : Reg) : Prop := s.self.xReady s.now r.toNat = false

/-- No result is in flight towards register r of the executing hart, so that it can be written (07 R168). -/
def Writable (s : State) (r : Reg) : Prop := s.self.xFe s.now r.toNat = .full ∨ s.self.xFe s.now r.toNat = .marked

/-- The contents of register r of the executing hart. -/
def State.xval (s : State) (r : Reg) : Word := s.self.getX r.toNat

/-- Register rd of the executing hart is written with v and full; a write to x0 writes nothing. -/
def State.wrote (s : State) (rd : Reg) (v : Word) : State := s.modHart s.cur (fun h => h.setX rd.toNat v)

/-- The executing hart retires an instruction of n bytes: pc + n, and one more in instret. -/
def State.retired (s : State) (n : Nat) : State :=
  s.modHart s.cur (fun h => { h with pc := h.pc + BitVec.ofNat 64 n, instret := h.instret + 1 })

/-- The executing hart retires a jump to a target. -/
def State.jumped (s : State) (target : Word) : State :=
  s.modHart s.cur (fun h => { h with pc := target, instret := h.instret + 1 })

/-- No instruction of the executing hart waits in its core's vector queue. -/
def noVectorWork (s : State) : Prop := ∀ e ∈ (s.core (unitOf s.cur)).vq, e.hart ≠ s.cur

/-- The low 32 bits of a word, sign-extended. -/
def sext32 (v : BitVec 32) : Word := v.signExtend 64

/- Instructions of one shape with the results that 14 R342 and R344 give them. -/

/-- Register-register instructions. -/
def aluTable : List ((Reg → Reg → Reg → Instr) × (Word → Word → Word)) :=
  [(.add, fun a b => a + b), (.sub, fun a b => a - b), (.xor, fun a b => a ^^^ b), (.or, fun a b => a ||| b),
   (.and, fun a b => a &&& b), (.slt, fun a b => if a.toInt < b.toInt then 1 else 0),
   (.sltu, fun a b => if a.toNat < b.toNat then 1 else 0),
   (.sll, fun a b => a <<< (b.toNat % 64)), (.srl, fun a b => a >>> (b.toNat % 64)), (.sra, fun a b => a.sshiftRight (b.toNat % 64)),
   (.addw, fun a b => sext32 (a.truncate 32 + b.truncate 32)), (.subw, fun a b => sext32 (a.truncate 32 - b.truncate 32)),
   (.sllw, fun a b => sext32 (a.truncate 32 <<< (b.toNat % 32))), (.srlw, fun a b => sext32 (a.truncate 32 >>> (b.toNat % 32))),
   (.sraw, fun a b => sext32 ((a.truncate 32 : BitVec 32).sshiftRight (b.toNat % 32)))]

/-- Register-immediate instructions with a 12-bit immediate, which is sign-extended. -/
def immTable : List ((Reg → Reg → BitVec 12 → Instr) × (Word → Word → Word)) :=
  [(.addi, fun a i => a + i), (.xori, fun a i => a ^^^ i), (.ori, fun a i => a ||| i), (.andi, fun a i => a &&& i),
   (.slti, fun a i => if a.toInt < i.toInt then 1 else 0), (.sltiu, fun a i => if a.toNat < i.toNat then 1 else 0),
   (.addiw, fun a i => sext32 (a.truncate 32 + i.truncate 32))]

/-- Shifts by an immediate of 6 bits. -/
def shiftTable : List ((Reg → Reg → BitVec 6 → Instr) × (Word → Nat → Word)) :=
  [(.slli, fun a n => a <<< n), (.srli, fun a n => a >>> n), (.srai, fun a n => a.sshiftRight n)]

/-- W shifts by an immediate of 5 bits. -/
def shiftWTable : List ((Reg → Reg → BitVec 5 → Instr) × (BitVec 32 → Nat → BitVec 32)) :=
  [(.slliw, fun a n => a <<< n), (.srliw, fun a n => a >>> n), (.sraiw, fun a n => a.sshiftRight n)]

/-- Branches with their conditions. -/
def branchTable : List ((Reg → Reg → BitVec 12 → Instr) × (Word → Word → Prop)) :=
  [(.beq, fun a b => a = b), (.bne, fun a b => a ≠ b), (.blt, fun a b => a.toInt < b.toInt), (.bge, fun a b => b.toInt ≤ a.toInt),
   (.bltu, fun a b => a.toNat < b.toNat), (.bgeu, fun a b => b.toNat ≤ a.toNat)]

/-- Quotient of signed division: towards zero; all ones for a divisor of 0 (R344). -/
def quotient (a b : Int) : Int := if b = 0 then -1 else a.tdiv b

/-- Remainder of signed division: the dividend for a divisor of 0. -/
def remainder (a b : Int) : Int := if b = 0 then a else a.tmod b

/-- Multiplies and divides with the cycles after which a reader finds the result (07 R168). -/
def mulDivTable : List ((Reg → Reg → Reg → Instr) × Nat × (Word → Word → Word)) :=
  [(.mul, 8, fun a b => BitVec.ofInt 64 (a.toInt * b.toInt)), (.mulh, 8, fun a b => BitVec.ofInt 64 (a.toInt * b.toInt / 2 ^ 64)),
   (.mulhsu, 8, fun a b => BitVec.ofInt 64 (a.toInt * (b.toNat : Int) / 2 ^ 64)),
   (.mulhu, 8, fun a b => BitVec.ofNat 64 (a.toNat * b.toNat / 2 ^ 64)),
   (.div, 36, fun a b => BitVec.ofInt 64 (quotient a.toInt b.toInt)),
   (.divu, 36, fun a b => if b = 0 then BitVec.allOnes 64 else BitVec.ofNat 64 (a.toNat / b.toNat)),
   (.rem, 36, fun a b => BitVec.ofInt 64 (remainder a.toInt b.toInt)),
   (.remu, 36, fun a b => if b = 0 then a else BitVec.ofNat 64 (a.toNat % b.toNat)),
   (.mulw, 8, fun a b => sext32 (a.truncate 32 * b.truncate 32)),
   (.divw, 20, fun a b => sext32 (BitVec.ofInt 32 (quotient (a.truncate 32 : BitVec 32).toInt (b.truncate 32 : BitVec 32).toInt))),
   (.divuw, 20, fun a b =>
     sext32 (if (b.truncate 32 : BitVec 32) = 0 then BitVec.allOnes 32
       else BitVec.ofNat 32 ((a.truncate 32 : BitVec 32).toNat / (b.truncate 32 : BitVec 32).toNat))),
   (.remw, 20, fun a b => sext32 (BitVec.ofInt 32 (remainder (a.truncate 32 : BitVec 32).toInt (b.truncate 32 : BitVec 32).toInt))),
   (.remuw, 20, fun a b =>
     sext32 (if (b.truncate 32 : BitVec 32) = 0 then a.truncate 32
       else BitVec.ofNat 32 ((a.truncate 32 : BitVec 32).toNat % (b.truncate 32 : BitVec 32).toNat)))]

/- Scalar memory accesses (14 R343, R345). -/

/-- Loads with their width in bytes and whether they sign-extend. -/
def loadTable : List ((Reg → Reg → BitVec 12 → Instr) × Nat × Bool) :=
  [(.lb, 1, true), (.lh, 2, true), (.lw, 4, true), (.ld, 8, true), (.lbu, 1, false), (.lhu, 2, false), (.lwu, 4, false)]

/-- Stores with their width in bytes. -/
def storeTable : List ((Reg → Reg → BitVec 12 → Instr) × Nat) := [(.sb, 1), (.sh, 2), (.sw, 4), (.sd, 8)]

/-- AMOs with the new value of memory, from the bits of the access, the old value and the operand. -/
def amoTable : List ((Bool → Bool → Bool → Reg → Reg → Reg → Instr) × (Nat → Nat → Nat → Nat)) :=
  [(.amoswap, fun _ _ y => y), (.amoadd, fun b x y => (x + y) % 2 ^ b), (.amoxor, fun _ x y => x ^^^ y), (.amoand, fun _ x y => x &&& y),
   (.amoor, fun _ x y => x ||| y), (.amomin, fun b x y => if sintOf b x ≤ sintOf b y then x else y),
   (.amomax, fun b x y => if sintOf b y ≤ sintOf b x then x else y), (.amominu, fun _ x y => min x y), (.amomaxu, fun _ x y => max x y)]

/-- The address of a scalar load or store. -/
def State.ea (s : State) (rs1 : Reg) (imm : BitVec 12) : Word := s.xval rs1 + imm.signExtend 64

/-- An access of n bytes at a VA of the executing hart lies in global memory, within one sector, its translation succeeds, and its partition's lines
are not being re-homed. -/
def Reaches (s : State) (acc : Acc) (va n : Nat) (r : Phys) : Prop :=
  inWindow s.cur va = false ∧ va % 128 + n ≤ 128 ∧ (∃ e, translateHart s s.cur acc va n = .ok (r, e)) ∧
    (s.part (partOfHart s s.cur)).rehoming = none

/-- An access of n bytes at a VA of the executing hart is aligned and lies in the window of its local memories. -/
def ReachesLocal (s : State) (va n : Nat) (p : Place) : Prop :=
  inWindow s.cur va = true ∧ va % n = 0 ∧ windowPlace (unitOf s.cur) (va - windowBase) = some p

/-- No other context holds the lock of the scratch bank of an offset, and no access waits there (07 R173). -/
def BankOpen (s : State) (core off : Nat) : Prop :=
  (∀ c, lockHolder s core (off / 0x4000) = some c → hartOf core c = s.cur) ∧ bankQueue s core (off / 0x4000) = []

/-- No word of a local memory of the executing core is under integrity hold. -/
def WordsWhole (s : State) : Prop := (s.core (unitOf s.cur)).failingWords = []

/-- Every posted access of the executing hart on a sector holds plain bytes, which its loads see. -/
def OnlyPlainPosted (s : State) (sector : Nat) : Prop :=
  ∀ e ∈ (s.core (unitOf s.cur)).posted, e.hart = s.cur → e.sector = sector → ∃ cells, e.op = .bytes cells

/-- No posted access of the executing hart is outstanding. -/
def NothingPosted (s : State) : Prop := ∀ e ∈ (s.core (unitOf s.cur)).posted, e.hart ≠ s.cur

/-- The result v of a load is in flight towards rd; x0 receives nothing. -/
def InFlight (s t : State) (rd : Reg) (v : Word) : Prop :=
  (rd = 0 → t.self.loads = s.self.loads) ∧
  (rd ≠ 0 → t.self.xFe t.now rd.toNat = .inFlight ∧ t.self.loads = s.self.loads ++ [(rd.toNat, v)] ∧
    ∃ n, (n, Instr.loadDataReturn s.cur rd) ∈ t.agenda)

/-- Every byte of memory reads as before, but that n bytes from a are those of a list. -/
def StoresOnly (s t : State) (a : Nat) (bs : List Byte) : Prop :=
  (∀ i (h : i < bs.length), byteAt t (a + i) = bs[i]) ∧ ∀ b, (b < a ∨ a + bs.length ≤ b) → byteAt t b = byteAt s b

/-- A local memory after n bytes from an offset have been stored. -/
def LocalStores (m m' : List Host.Cell) (a : Nat) (bs : List Byte) : Prop :=
  (∀ i (h : i < bs.length), memGet m' (a + i) = bs[i]) ∧ ∀ b, (b < a ∨ a + bs.length ≤ b) → memGet m' b = memGet m b

/-- The executing hart goes on at pc + n with one more instruction retired, and all of its x registers hold what they held. -/
def Advances (s t : State) (n : Nat) : Prop :=
  t.cur = s.cur ∧ t.self.pc = s.self.pc + BitVec.ofNat 64 n ∧ t.self.instret = s.self.instret + 1 ∧
    ∀ r, t.self.getX r = s.self.getX r

/- Threads, gangs and messages (14 R351–R368). -/

/-- The executing hart is context 0 of a vector core. -/
def IsCoreSupervisor (s : State) : Prop := isVector s.cur = true ∧ ctxOf s.cur = 0

/-- The executing hart is one of contexts 1 to 15 of a vector core. -/
def IsProgramContext (s : State) : Prop := isVector s.cur = true ∧ ctxOf s.cur ≠ 0

/-- The 16 bytes at a VA of device memory that the executing hart reads for TSPAWN. -/
def PairAt (s : State) (va pair : Nat) : Prop :=
  ∃ r : Phys, Reaches s .load va 16 r ∧ va % 16 = 0 ∧ r.host = false ∧ OnlyPlainPosted s (sectorOf r.num) ∧
    heldByte s r.num 16 = none ∧ pair = leNat (viewBytes s s.cur r.num 16)

/-- The executing hart goes on at pc + n with one more instruction retired, rd holds v and is full, and its other x registers hold what
they held. -/
def WritesOnly (s t : State) (n : Nat) (rd : Reg) (v : Word) : Prop :=
  t.cur = s.cur ∧ t.self.pc = s.self.pc + BitVec.ofNat 64 n ∧ t.self.instret = s.self.instret + 1 ∧
    (rd ≠ 0 → t.self.getX rd.toNat = v ∧ t.self.xFe t.now rd.toNat = .full) ∧ ∀ r, r ≠ rd.toNat → t.self.getX r = s.self.getX r

/-- The executing hart is a member of a gang, with its member record. -/
def InGang (s : State) (g : Gang) (m : Member) : Prop := myGang s = some (g, m)

/-- No context has a posted access, a load or a vector instruction outstanding, and none is widening. -/
def AllQuiet (s : State) : Prop :=
  (∀ c ∈ s.cores, c.2.posted = [] ∧ c.2.vq = []) ∧ ∀ h ∈ s.harts, h.2.loads = [] ∧ h.2.widening = false

/- Vector instructions (15 R371–R390). -/

/-- Whether slot i is ACTIVE for an instruction of the executing hart (00 R8): inside the lengths, set in p0, and set in p[pg] where pg is
not 0. -/
def State.active (s : State) (f : LongFields) (i : Nat) : Bool :=
  let v := s.self.vec
  decide (i / 32 < v.vlr) && decide (i % 32 < v.vlc) && (v.getP 0).getLsbD i && (f.pg = 0 || (v.getP f.pg.toNat).getLsbD i)

/-- Whether slot i is inside the lengths. -/
def State.inLengths (s : State) (i : Nat) : Bool := decide (i / 32 < s.self.vec.vlr) && decide (i % 32 < s.self.vec.vlc)

/-- The element of w bytes at slot i of what a V field of the executing hart names: a vector register, or the head entry of a queue
(08 R191). -/
def State.elem (s : State) (r : Reg) (w i : Nat) : Nat := elemAt (sourceValue s.self.vec r.toNat r.toNat 0) w i

/-- The register operands of a long instruction are there (13 R332): it misuses no queue, its scalar sources are readable, no result is in
flight towards its scalar destination, and no vector register or queue that it reads is empty; VINS reads its destination, too. -/
def OperandsThere (s : State) (i : Instr) : Prop :=
  queueMisuse i = none ∧
    (∀ f k, i.long? = some (f, k) → (k.a = .x → Readable s f.a) ∧ (k.b = .x → Readable s f.b) ∧
      (k.c = .x ∨ (k.progress = true ∧ f.nt = true) → Readable s f.c) ∧ (k.d = .x → Writable s f.d)) ∧
    (∀ u ∈ vSources i, u.empties s = []) ∧ ∀ f, i = .vins f → vEmpty s s.cur f.d.toNat = false

/-- The scalar sources of a long instruction in its fields a, b and c; 0 for a field that names none. -/
def State.args (s : State) (i : Instr) : XArgs :=
  match i.long? with
  | none => { a := 0, b := 0, c := 0 }
  | some (f, k) =>
    { a := if k.a = .x then s.xval f.a else 0, b := if k.b = .x then s.xval f.b else 0
      c := if k.c = .x ∨ (k.progress = true ∧ f.nt = true) then s.xval f.c else 0 }

/-- The vector unit of the executing hart's core is idle: its queue is empty, its lanes are free, no register of the context is still being
written, and no register, mask or queue entry is under integrity hold or has a failing slice. -/
def LanesIdle (s : State) : Prop :=
  let c := s.core (unitOf s.cur)
  c.vq = [] ∧ c.lanesUntil ≤ s.now ∧ (∀ r, regTimes s s.cur r = none) ∧ c.failingLanes = [] ∧ c.parity = [] ∧ s.self.vec.failing = []

/-- A vector instruction of the executing hart, whose widest element has w bytes, may issue and execute at once: it is legal, its operands are
there, the vector unit is idle, and vlc is a legal length. -/
def VecReady (s : State) (i : Instr) (w : Nat) : Prop :=
  vecLegal s i w = true ∧ OperandsThere s i ∧ LanesIdle s ∧ s.self.vec.vlc ≤ 32

/-- The core's result-reuse table holds nothing. -/
def NoReuse (s : State) : Prop := (s.core (unitOf s.cur)).reuse = []

/-- No flag class traps. -/
def NoArithTraps (s : State) : Prop := s.self.vec.enabled = 0

/-- Vector register d of w-byte elements holds r at every slot that a test names, and what it held at every other. -/
def ElementsBecome (s t : State) (d : Reg) (w : Nat) (written : Nat → Bool) (r : Nat → Nat) : Prop :=
  ∀ i, i < 1024 / w → t.elem d w i = if written i then r i % 2 ^ (8 * w) else s.elem d w i

/-- Each queue that a source field of an instruction names loses its head entry, and the other queues keep theirs (08 R192). -/
def PopsHeads (s t : State) (i : Instr) : Prop :=
  ∀ n, n < 6 → t.self.vec.getQ n = if (vSources i).any (fun u => u.code = 16 + n) then (s.self.vec.getQ n).drop 1 else s.self.vec.getQ n

/-- A vector instruction i of the executing hart retires and writes, apart from flags and counters, no vector register but d, no predicate,
no length and no byte of memory, and pops the queues that it reads. -/
def VectorOnly (s t : State) (i : Instr) (d : Reg) : Prop :=
  t.cur = s.cur ∧ t.self.pc = s.self.pc + 8 ∧ t.self.instret = s.self.instret + 1 ∧ (∀ b, byteAt t b = byteAt s b) ∧
    (∀ r, r ≠ d.toNat → t.self.vec.getV r = s.self.vec.getV r) ∧ t.self.vec.p = s.self.vec.p ∧ t.self.vec.stack = s.self.vec.stack ∧
    t.self.vec.vmsp = s.self.vec.vmsp ∧ PopsHeads s t i ∧ t.self.vec.vlc = s.self.vec.vlc ∧ t.self.vec.vlr = s.self.vec.vlr ∧
    t.self.vec.vty = s.self.vec.vty

/-- A vector instruction of the executing hart retires, and every byte of memory reads as before. -/
def VecRetires (s t : State) : Prop :=
  t.cur = s.cur ∧ t.self.pc = s.self.pc + 8 ∧ t.self.instret = s.self.instret + 1 ∧ ∀ b, byteAt t b = byteAt s b

/-- Integer instructions with their exact result from the bits of an element and the elements of a, b and c, read as 15 R382 says. -/
def intElemTable : List ((LongFields → Instr) × (Nat → Nat → Nat → Nat → Int)) :=
  [(.vadd, fun n a b _ => sintOf n a + sintOf n b), (.vsub, fun n a b _ => sintOf n a - sintOf n b),
   (.vmul, fun n a b _ => sintOf n a * sintOf n b), (.vmulh, fun n a b _ => sintOf n a * sintOf n b / (2 ^ n : Nat)),
   (.vmulhu, fun n a b _ => (a * b / 2 ^ n : Nat)), (.vmadd, fun n a b c => sintOf n a * sintOf n b + sintOf n c),
   (.vdiv, fun n a b _ => quotient (sintOf n a) (sintOf n b)), (.vdivu, fun n a b _ => if b = 0 then (2 ^ n - 1 : Nat) else (a / b : Nat)),
   (.vrem, fun n a b _ => remainder (sintOf n a) (sintOf n b)), (.vremu, fun _ a b _ => if b = 0 then (a : Int) else (a % b : Nat)),
   (.vmin, fun n a b _ => min (sintOf n a) (sintOf n b)), (.vminu, fun _ a b _ => (min a b : Nat)),
   (.vmax, fun n a b _ => max (sintOf n a) (sintOf n b)), (.vmaxu, fun _ a b _ => (max a b : Nat)),
   (.vand, fun _ a b _ => (a &&& b : Nat)), (.vor, fun _ a b _ => (a ||| b : Nat)), (.vxor, fun _ a b _ => (a ^^^ b : Nat)),
   (.vsll, fun n a b _ => sintOf n a * (2 ^ (b % n) : Nat)), (.vsrl, fun n a b _ => (a / 2 ^ (b % n) : Nat)),
   (.vsra, fun n a b _ => sintOf n a / (2 ^ (b % n) : Nat)), (.vabs, fun n a _ _ => ((sintOf n a).natAbs : Int)),
   (.vclz, fun n a _ _ => if a = 0 then (n : Int) else ((n - 1 - Nat.log2 a : Nat) : Int)),
   (.vpopc, fun n a _ _ => (((List.range n).filter (fun k => a.testBit k)).length : Int))]

/-- The integer instructions that take sat. -/
def satTable : List ((LongFields → Instr) × (Nat → Nat → Nat → Nat → Int)) :=
  [(.vadd, fun n a b _ => sintOf n a + sintOf n b), (.vsub, fun n a b _ => sintOf n a - sintOf n b),
   (.vmul, fun n a b _ => sintOf n a * sintOf n b), (.vmadd, fun n a b c => sintOf n a * sintOf n b + sintOf n c),
   (.vsll, fun n a b _ => sintOf n a * (2 ^ (b % n) : Nat)), (.vabs, fun n a _ _ => ((sintOf n a).natAbs : Int))]

/-- The rounding mode of an instruction of the executing hart: its rm field, or vrm where that is 7. -/
def State.rounding (s : State) (f : LongFields) : Nat := if f.rm = 7 then s.self.vec.vrm.toNat else f.rm.toNat

/-- Floating instructions with the result and flags of one element, from the fields, the rounding mode and the elements of a, b and c. The sign
instructions move bits (15 R384). -/
def floatElemTable : List ((LongFields → Instr) × (LongFields → Nat → Nat → Nat → Nat → FRes)) :=
  let sign (f : LongFields) (v : Nat) : Nat := v / 2 ^ (8 * fmtBytes f.ty.toNat - 1) % 2
  let rest (f : LongFields) (v : Nat) : Nat := v % 2 ^ (8 * fmtBytes f.ty.toNat - 1)
  let with_ (f : LongFields) (v b : Nat) : FRes := { bits := rest f v + b * 2 ^ (8 * fmtBytes f.ty.toNat - 1) }
  [(.vfadd, fun f rm a b _ => fAdd f.ty.toNat rm f.sat a b), (.vfsub, fun f rm a b _ => fSub f.ty.toNat rm f.sat a b),
   (.vfmul, fun f rm a b _ => fMul f.ty.toNat rm f.sat a b), (.vfdiv, fun f rm a b _ => fDiv f.ty.toNat rm f.sat a b),
   (.vfma, fun f rm a b c => fFma f.ty.toNat rm f.sat (f.imm.getLsbD 0) (f.imm.getLsbD 1) a b c),
   (.vfsqrt, fun f rm a _ _ => fSqrt f.ty.toNat rm f.sat a), (.vfrcp, fun f rm a _ _ => fRcp f.ty.toNat rm f.sat a),
   (.vfrsqrt, fun f rm a _ _ => fRsqrt f.ty.toNat rm f.sat a), (.vfexp2, fun f rm a _ _ => fExp2 f.ty.toNat rm f.sat a),
   (.vflog2, fun f rm a _ _ => fLog2 f.ty.toNat rm f.sat a), (.vfsinpi, fun f rm a _ _ => fSinCosPi f.ty.toNat rm f.sat false a),
   (.vfcospi, fun f rm a _ _ => fSinCosPi f.ty.toNat rm f.sat true a), (.vftanh, fun f rm a _ _ => fTanh f.ty.toNat rm f.sat a),
   (.vfmin, fun f _ a b _ => fMinMax f.ty.toNat false a b), (.vfmax, fun f _ a b _ => fMinMax f.ty.toNat true a b),
   (.vfabs, fun f _ a _ _ => with_ f a 0), (.vfneg, fun f _ a _ _ => with_ f a (1 - sign f a)),
   (.vfclass, fun f _ a _ _ => { bits := fClass f.ty.toNat a }), (.vfsgnj, fun f _ a b _ => with_ f a (sign f b)),
   (.vfsgnjn, fun f _ a b _ => with_ f a (1 - sign f b)), (.vfsgnjx, fun f _ a b _ => with_ f a ((sign f a + sign f b) % 2))]

/-- vfflags, the class masks and vsat after an instruction whose written slots have results with flags: they gain what the results raise, and
lose nothing (08 R189; 11 R274). -/
def FlagsGain (s t : State) (written : Nat → Bool) (r : Nat → FRes) : Prop :=
  (∀ k, k < 5 → (t.self.vec.vfflags.getLsbD k = true ↔
    s.self.vec.vfflags.getLsbD k = true ∨ ∃ i, i < 1024 ∧ written i = true ∧ bitOf (r i).flags k = true)) ∧
  (∀ k i, k < 5 → i < 1024 → ((tblGet 0 t.self.vec.flagMask k).getLsbD i = true ↔
    (tblGet 0 s.self.vec.flagMask k).getLsbD i = true ∨ (written i = true ∧ bitOf (r i).flags k = true))) ∧
  (∀ i, i < 1024 → (t.self.vec.vsat.getLsbD i = true ↔
    s.self.vec.vsat.getLsbD i = true ∨ (written i = true ∧ (r i).sat = true)))

/-- The element of w bytes of register a at position k of the axis of slot i: of the strip in dense order, or of i's column; 0 outside. -/
def State.axisAt (s : State) (a : Reg) (column : Bool) (w i : Nat) (k : Int) : Nat :=
  let v := s.self.vec
  if k < 0 then 0
  else if column then (if k < v.vlr then s.elem a w (k.toNat * 32 + i % 32) else 0)
  else (if k < v.vlr * v.vlc then s.elem a w (k.toNat / v.vlc * 32 + k.toNat % v.vlc) else 0)

/-- The elements of w bytes of register a at the ACTIVE slots of a list. -/
def State.activeElems (s : State) (f : LongFields) (w : Nat) (slots : List Nat) : List Nat :=
  (slots.filter (s.active f)).map (s.elem f.a w)

/-- Integer reductions without sat with the value of a list of elements of n bits. -/
def reduceTable : List ((LongFields → Instr) × (Nat → List Nat → Int)) :=
  [(.vredsum, fun n l => (l.map (sintOf n)).sum),
   (.vredmin, fun n l => (l.map (sintOf n)).foldr min ((2 ^ (n - 1) : Nat) - 1)),
   (.vredmax, fun n l => (l.map (sintOf n)).foldr max (-(2 ^ (n - 1) : Nat))),
   (.vredand, fun n l => (l.foldr (· &&& ·) (2 ^ n - 1) : Nat)), (.vredor, fun _ l => (l.foldr (· ||| ·) 0 : Nat)),
   (.vredxor, fun _ l => (l.foldr (· ^^^ ·) 0 : Nat))]

/-- The integer conditions of VCMP by their code (13 R328), on elements of n bits. -/
def intCondition (cond n a b : Nat) : Prop :=
  match cond with
  | 0 => a = b
  | 1 => a ≠ b
  | 2 => sintOf n a < sintOf n b
  | 3 => sintOf n a ≤ sintOf n b
  | 4 => sintOf n b < sintOf n a
  | 5 => sintOf n b ≤ sintOf n a
  | 6 => a < b
  | 7 => a ≤ b
  | 8 => b < a
  | _ => b ≤ a

/- Vector memory (16 R392–R407). -/

/-- The instructions of op10 0x140–0x147. -/
def memTable : List ((LongFields → Instr) × MemKind) :=
  [(.vld, .load), (.vldff, .loadFF), (.vgather, .gather), (.vst, .store), (.vscatter, .scatter), (.vrred, .red), (.vamoadd, .add),
   (.vldacc, .acc)]

/-- The elements of a memory instruction, its base and its layout: those of an execution from the start are its ACTIVE slots, those of a resumed
one the slots that vflt marks (16 R392; 11 R273). -/
def State.memIn (s : State) (i : Instr) (kind : MemKind) (f : LongFields) : MemIn :=
  let v := s.self.vec
  { h := s.cur, f := f, kind := kind, w := fmtBytes f.ty.toNat, vmt := v.vmt.toNat
    base := (s.args i).a + memOffset f (kind = .store && f.nt), stride := sextW 48 (wfld (s.args i).b 47 0)
    packed := decide (kind.indexed = false ∧ wfld (s.args i).b 63 48 = 1)
    slots := if s.self.resuming then (List.range 1024).filter (fun k => v.vflt.getLsbD k) else v.actives f.pg.toNat v.vlr v.vlc
    vlr := v.vlr, vlc := v.vlc, rm := (capturedRm f v).toNat, resuming := s.self.resuming
    pipe := (pipeOf f).getD (s.core (unitOf s.cur)).nextPipe }

/-- Where the accesses of a memory instruction lead, each with its places or its fault. -/
def State.reached (s : State) (x : MemIn) : List Reached := (x.reachAll [] (x.accesses s.self.vec) { s := s }).1

/-- The executing hart's state after the lookup of an access. -/
def State.looked (s : State) (acc : Acc) (va n : Nat) : State :=
  match translateM acc va n s with
  | .ok (_, t) => t
  | .error _ => s

/-- No scratch bank is locked, and no access waits at one. -/
def BanksIdle (s : State) : Prop := ∀ c b, lockHolder s c b = none ∧ bankQueue s c b = []

/-- The layout that x[b] gives a strided memory instruction is one that 16 R394 assigns: elements, or packed L6 of 8-bit type, which VLDACC has not
and which a store has only for lengths that are multiples of 4. -/
def LayoutLegal (s : State) (i : Instr) (kind : MemKind) (f : LongFields) : Prop :=
  kind.indexed = true ∨ wfld (s.args i).b 63 48 = 0 ∨ wfld (s.args i).b 63 48 = 0xFFFF ∨
    (wfld (s.args i).b 63 48 = 1 ∧ f.ty = 0 ∧ kind ≠ .acc ∧ (kind = .store → s.self.vec.vlc % 4 = 0))

/-- A memory instruction of the executing hart may issue and execute at once: it is legal in its form, its lengths, its index group, its layout and its
space, its operands are there, the vector unit is idle, no earlier access of its context is outstanding, nothing is under integrity hold or
locked, and its partition's lines are not being re-homed. -/
def MemReady (s : State) (i : Instr) (kind : MemKind) (f : LongFields) : Prop :=
  isVector s.cur = true ∧ i.wellFormed = true ∧ (s.self.resuming = false → rowsFit s.self.vec.vlr (fmtBytes f.ty.toNat) = true) ∧
    (kind.indexed = true → groupLegal s.self f.b.toNat = true ∧ groupEmpty s f.b.toNat = none) ∧ OperandsThere s i ∧ LanesIdle s ∧
    LayoutLegal s i kind f ∧ kind.illegalSpace s.self.vec.vmt.toNat = false ∧ (s.core (unitOf s.cur)).posted = [] ∧ s.self.loads = [] ∧
    s.failing = [] ∧ (∀ c ∈ s.cores, c.2.failingWords = []) ∧ BanksIdle s ∧ (s.part (partOfHart s s.cur)).rehoming = none ∧ s.self.vec.vlc ≤ 32 ∧ s.self.widening = false ∧ s.self.hostRead = none

/-- None of the places of a list lies in host memory. -/
def InDevice (l : List Reached) : Prop := ∀ a ps, (a, ps) ∈ okSpots l → ∀ p ∈ ps, p.space = 0 → isHostNum p.pos = false

/-- The paths to the places of a list in other devices' memory are up. -/
def PathsUp (s : State) (l : List Reached) : Prop :=
  ∀ a ps, (a, ps) ∈ okSpots l → ∀ p ∈ ps, p.space = 0 → isRemote p.pos = true → pathUp s p.pos = true

/-- VSAVE or VRSTR may issue and execute at once: it is legal, its operands are there, the vector unit is idle, no earlier access of its core's
contexts is posted, nothing is under integrity hold or locked, and its partition's lines are not being re-homed. -/
def WholeReady (s : State) (i : Instr) : Prop :=
  isVector s.cur = true ∧ i.wellFormed = true ∧ OperandsThere s i ∧ LanesIdle s ∧ (s.core (unitOf s.cur)).posted = [] ∧ s.self.loads = [] ∧
    s.failing = [] ∧ (∀ c ∈ s.cores, c.2.failingWords = []) ∧ BanksIdle s ∧ (s.part (partOfHart s s.cur)).rehoming = none ∧
    s.self.hostRead = none

/-- Where the 1,024 bytes from a VA of the executing hart lie in the space of vmt, or the cause and the address of the first fault. -/
def State.wholePlaces (s : State) (acc : Acc) (va : Nat) : Except (Nat × Nat) (List Spot) :=
  (reachEach s.cur 0 acc s.self.vec.vmt.toNat va 1024 { s := s }).1.map (·.1)

/-- The register of a load holds the loaded elements at the accesses that a list names, and keeps its others; no other register and no byte of
memory changes. -/
def LoadsElements (s t : State) (f : LongFields) (x : MemIn) (l : List (MemAcc × List Spot)) : Prop :=
  (∀ a ps, (a, ps) ∈ l → t.elem f.d x.w (a.slots.headD 0) = loadedElem x a (spotsValue s s.cur ps)) ∧
  (∀ i, i < 1024 / x.w → (∀ a ps, (a, ps) ∈ l → i ≠ a.slots.headD 0) → t.elem f.d x.w i = s.elem f.d x.w i) ∧
  (∀ r, r ≠ f.d.toNat → t.self.vec.getV r = s.self.vec.getV r) ∧ ∀ b, byteAt t b = byteAt s b

/-- A long instruction of the executing hart retires, and what a resumed execution held is cleared (11 R273). -/
def MemRetires (s t : State) : Prop :=
  t.cur = s.cur ∧ t.self.pc = s.self.pc + 8 ∧ t.self.instret = s.self.instret + 1 ∧ t.self.resuming = false ∧
    (s.self.resuming = true → t.self.vec.vflt = 0 ∧ t.self.kstat.resume = false)

/-- An instruction takes the fault of its lowest faulting element: the elements are marked, RESUME is set, and the trap is taken with the
state t that the elements which did not fault leave (11 R272). -/
def MemFaults (s t : State) (faults : List (List Nat × Nat × Nat)) : Prop :=
  t.cur = s.cur ∧ t.self.pc = s.self.pc ∧ t.self.instret = s.self.instret ∧ t.self.kstat.resume = true ∧
    ∀ i, i < 1024 → (t.self.vec.vflt.getLsbD i = true ↔
      (s.self.resuming = false ∧ s.self.vec.vflt.getLsbD i = true) ∨ ∃ e ∈ faults, i ∈ e.1)

/-- The last byte that a list of cells gives a place, or another byte. -/
def lastByte (cells : List (Spot × Byte)) (p : Spot) (old : Byte) : Byte := (cells.reverse.lookup p).getD old

/-- Every place of global memory and of the local memories of the executing core reads, for its context, as the last byte that a list of cells
gives it, or as before; every packet that the list needs for another core's scratch is posted. -/
def StoresCells (s t : State) (cells : List (Spot × Byte)) : Prop :=
  (∀ p : Spot, (p.space = 0 ∧ p.core = 0) ∨ (p.space ∈ [1, 3, 4, 5] ∧ p.core = unitOf s.cur) →
    spotByte t s.cur p = lastByte cells p (spotByte s s.cur p)) ∧
  (∀ o, o ≠ unitOf s.cur → (∃ c ∈ cells, c.1.space = 1 ∧ c.1.core = o) → ∃ p ∈ (t.core (unitOf s.cur)).posted, p.hart = s.cur ∧
    p.op = .packet o ((cells.filter (fun c => c.1.space = 1 && c.1.core = o)).map (fun c => (c.1.pos, c.2))))

/-- The operations that the executing hart has posted, oldest first. -/
def State.ownPosted (s : State) : List PostedOp :=
  ((s.core (unitOf s.cur)).posted.filter (fun e => e.hart = s.cur)).map (·.op)

/-- SAMO's atomics with the new value of memory, from the bits of the access, the old value, the operand and the compared value. -/
def samoTable : List ((LongFields → Instr) × (Nat → Nat → Nat → Nat → Nat)) :=
  [(.samoAdd, fun b x y _ => (x + y) % 2 ^ b), (.samoSwap, fun _ _ y _ => y), (.samoAnd, fun _ x y _ => x &&& y),
   (.samoOr, fun _ x y _ => x ||| y), (.samoXor, fun _ x y _ => x ^^^ y),
   (.samoMin, fun b x y _ => if sintOf b x ≤ sintOf b y then x else y), (.samoMax, fun b x y _ => if sintOf b y ≤ sintOf b x then x else y),
   (.samoMinu, fun _ x y _ => min x y), (.samoMaxu, fun _ x y _ => max x y), (.samoCas, fun _ x y c => if x = c then y else x)]

/-- A SAMO may issue on s: a legal instruction with its operands there, no vector work, and nothing posted. -/
def SamoReady (s : State) (i : Instr) : Prop :=
  hasMessages s.cur = true ∧ i.wellFormed = true ∧ OperandsThere s i ∧ noVectorWork s ∧ NothingPosted s ∧ s.self.widening = false

/- The Bench and rendering (17 R420–R441). -/

/-- A Bench instruction may issue on s: a legal one on context 1 of the control core of cluster c, with its operands there, and no failure
of an earlier one to report. -/
def BenchReady (s : State) (i : Instr) (c : Nat) : Prop :=
  isControl s.cur = true ∧ ctxOf s.cur = 1 ∧ i.wellFormed = true ∧ OperandsThere s i ∧ c = myCluster s ∧ (s.cluster c).benchFail = none

/-- The checks of the instructions of the Bench that take no data, with their codes in ascending order (17 R421, R424–R430). -/
def benchChecks (s : State) (f : LongFields) (c : Nat) : List (Instr × List (Nat × Bool)) :=
  let v := benchView s c
  let fmt (i : Instr) : Instr × List (Nat × Bool) :=
    let x := s.args i
    (i, [(1, onlyBits x.a 7 && onlyBits x.b 0xFF00FF), (2, benchPairOk (wfld x.b 3 0, wfld x.b 7 4))])
  let ls := s.args (.bls f)
  let st := s.args (.bstream f)
  let clr := s.args (.bclr f)
  let syn := s.args (.bsync f)
  let (m, rows, c0) := streamArgs st.a
  let (_, clrRows, clrFirst) := streamArgs clr.a
  [fmt (.bfmtFormat f), fmt (.bfmtRowScales f), fmt (.bfmtColumnScales f),
   (.bls f, [(1, onlyBits ls.a 7),
     (4, ls.b.toNat % 1024 = 0 && ls.b.toNat + 64 * benchRowBytes (v.pair (wfld ls.a 2 0)).1 ≤ 0x40000)]),
   (.bswap f, [(5, v.shadow.isSome)]),
   (.bstream f, [(1, onlyBits st.a 0xFFFF07), (3, v.active = some (v.pair m)),
     (4, st.b.toNat % 128 = 0 && st.c.toNat % 128 = 0 && st.b.toNat < 2 ^ 18 && st.c.toNat < 2 ^ 18 && c0 + rows ≤ 256
       && st.b.toNat + (rows - 1) * st.c.toNat + benchRowBytes (v.pair m).1 ≤ 0x40000)]),
   (.bclr f, [(1, onlyBits clr.a 0xFFFF07), (4, clrFirst + clrRows ≤ 256)]),
   (.bsync f, [(1, wfld syn.a 63 16 = 0), (6, (bsyncTarget c syn.a).isSome)])]

/-- The places of n bytes at a VA of the executing hart, a control core's; none where the translation of one of them fails. -/
def State.ctrlPlaces (s : State) (acc : Acc) (va n : Nat) : Option (List Spot) :=
  match ctrlReach acc va n s with
  | .ok (l, _) => some l
  | .error _ => none

/-- Plain accesses of the executing hart to memory go on at once: no earlier access of its core is posted, no sector is under integrity hold,
and its partition's lines are not being re-homed. -/
def MemoryIdle (s : State) : Prop :=
  (s.core (unitOf s.cur)).posted = [] ∧ s.failing = [] ∧ (s.part (partOfHart s s.cur)).rehoming = none ∧ s.self.hostRead = none

/-- The Bench's command queue gains an instruction with its operands, and the issuing context goes on. -/
def BenchAccepts (s t : State) (i : Instr) (c : Nat) (bytes : List Byte) : Prop :=
  let x := s.args i
  Advances s t 8 ∧ (∀ b, byteAt t b = byteAt s b) ∧ (t.cluster c).fmt = (s.cluster c).fmt ∧ (t.cluster c).active = (s.cluster c).active ∧
    (t.cluster c).shadow = (s.cluster c).shadow ∧
    ∃ cmd, (t.cluster c).bench = (s.cluster c).bench ++ [cmd] ∧ cmd.instr = i ∧ cmd.xa = x.a ∧ cmd.xb = x.b ∧ cmd.xc = x.c ∧ cmd.bytes = bytes

/-- Four registers from f.d hold the four values of each slot of a list, and their other elements stay. -/
def ResultsBecome (s t : State) (f : LongFields) (vals : List (Nat × List Nat)) : Prop :=
  (∀ e ∈ vals, ∀ k, k < 4 → elemAt (t.self.vec.getV (f.d.toNat + k)).toNat 4 e.1 = nth 0 e.2 k % 2 ^ 32) ∧
  ∀ i, i < 256 → (∀ e ∈ vals, e.1 ≠ i) → ∀ k, k < 4 →
    elemAt (t.self.vec.getV (f.d.toNat + k)).toNat 4 i = elemAt (s.self.vec.getV (f.d.toNat + k)).toNat 4 i

/-- A rendering instruction of the executing hart with registers as its destination may issue and execute at once, from the start: it is legal, its
operands are there, the vector unit is idle, its partition's lines are not being re-homed, and no flag class traps. -/
def RenderReady (s : State) (i : Instr) (f : LongFields) : Prop :=
  isVector s.cur = true ∧ i.wellFormed = true ∧ s.self.resuming = false ∧ rowsFit s.self.vec.vlr 4 = true ∧ OperandsThere s i ∧ LanesIdle s ∧
    (s.part (partOfHart s s.cur)).rehoming = none ∧ f.d.toNat < 13 ∧ s.self.vec.vlc ≤ 32 ∧ NoArithTraps s ∧ s.self.hostRead = none

/-- The ACTIVE slots of an instruction of the executing hart. -/
def State.slots (s : State) (f : LongFields) : List Nat := s.self.vec.actives f.pg.toNat s.self.vec.vlr s.self.vec.vlc

/-- What a computation over memory of the executing hart answers, and what it has read. -/
def State.reads {α : Type} (s : State) (f : StateM Reads α) : α × Reads := f { s := s, who := .hart s.cur }

/-- All that a computation over memory has read lies in device memory, and the executing hart has at most plain bytes posted there. -/
def PlainReads (s : State) (r : Reads) : Prop := ∀ sec ∈ r.sectors, isHostNum (sec * 128) = false ∧ OnlyPlainPosted s sec

/- Packets (02 R47–R50; 03 R70–R75). -/

/-- A packet of a type stands at the head of queue q of a function, passes its checks and may start; the queue writes its head index nowhere,
and no started packet has the number that this one will get. -/
def PacketReady (s : State) (fn q type : Nat) (p : BitVec 512) : Prop :=
  nextPacket s fn q = some (.ok p, none) ∧ packetCheck s fn p false = none ∧ pFld p 0 1 = type ∧ mayStart s fn q p = true ∧
    (s.queue fn q).wben = false ∧ ∀ e ∈ (s.queue fn q).started, e.seqNo ≠ (s.queue fn q).nextSeq

/-- HEAD of a queue moves past one packet, which has started. -/
def HeadMoves (s t : State) (fn q : Nat) : Prop :=
  (t.queue fn q).head = ((s.queue fn q).head + 1) % 2 ^ (s.queue fn q).size ∧ (t.queue fn q).tail = (s.queue fn q).tail ∧
    (t.queue fn q).nextSeq = (s.queue fn q).nextSeq + 1

/-- Every byte of memory reads as in another state. -/
def SameBytes (s t : State) : Prop := ∀ b, byteAt t b = byteAt s b

/-- n bytes at a VA of a function are read at a global address: the translation succeeds, they lie in one piece of a read, and none is under
integrity hold. -/
def FnReads (s : State) (fn va n a : Nat) : Prop :=
  (runFn fn (gReach .load va n) s).1 = .ok a ∧ va % 64 + n ≤ 64 ∧ heldByte s a n = none

/-- n bytes at a VA of a function are written at a global address: the translation succeeds, they lie in one sector, which is under no
integrity hold and in no line in overflow, and the path there is up. -/
def FnWrites (s : State) (fn va n a : Nat) : Prop :=
  (runFn fn (gReach .store va n) s).1 = .ok a ∧ va % 128 + n ≤ 128 ∧ heldByte s a n = none ∧ s.failing.contains (sectorOf a) = false ∧
    ovfSlice s fn (sectorOf a) = none ∧ (isRemote a = true → pathUp s a = true)

/-- One coalescing event is posted on a vector (03 R87): its count goes up by 1; at count_th it fires and the count is 0; a masked vector keeps
its message in the PCIe pending bit. -/
def EventPosted (s t : State) (fn vec : Nat) : Prop :=
  let v := s.vector fn vec
  let w := t.vector fn vec
  (v.pending + 1 < v.countTh → cmdCycles s < (if v.pending = 0 then cmdCycles s else v.since) + v.timer →
    w.pending = v.pending + 1 ∧ t.out = s.out) ∧
  (v.countTh ≤ v.pending + 1 → w.pending = 0 ∧ (v.masked = false → t.out = s.out ++ [.msix fn vec]) ∧
    (v.masked = true → w.pciePending = true ∧ t.out = s.out))

/-- A queue is in QSTATE 3 with an ERR code (02 R48). -/
def QueueFails (t : State) (fn q err : Nat) : Prop := (t.queue fn q).qstate = 3 ∧ (t.queue fn q).err = err

/-- The started packet number seq of a queue completes on s, which leaves t: it is started no longer, and where its done_counter has a VA that is
written at a, the 8 bytes there go up by 1; with no counter every byte reads as before. -/
def Completes (s t : State) (fn q seq done : Nat) : Prop :=
  startedFind t fn q seq = none ∧ (done = 0 → SameBytes s t) ∧
    ∀ a, done ≠ 0 → FnWrites (dropStarted fn q seq s) fn done 8 a → StoresOnly s t a (leBytes 8 ((gRead s a 8 + 1) % 2 ^ 64))

/-- A partition has been reset (11 R282): its STATE is 3, its function is disabled, each of its 16 queues is in QSTATE 3 with ERR 7, nothing of
it waits or runs, and the program contexts of its clusters are free. -/
def PartitionIsReset (s t : State) (p : Nat) : Prop :=
  (t.part p).entry.state = 3 ∧ (t.func p).funcEn = false ∧ (∀ q, q < 16 → QueueFails t p q 7) ∧ (t.part p).waiting = [] ∧
    (t.part p).running = [] ∧ (t.part p).gangs = [] ∧ (t.part p).cut = none ∧
    ∀ h, isVector h = true → ctxOf h ≠ 0 → (s.part p).entry.clusters.getLsbD (h / 128) = true → (t.hart h).run = .free

/-- The state of node n of a graph in its present pass. -/
def NodeIs (t : State) (g n : Nat) (st : NodeState) : Prop := ∃ e, graphFind t g = some e ∧ nth .complete e.states n = st

/-- A population joins the end of the list of a priority (05 R109). -/
def Submitted (s t : State) (p prio : Nat) (origin : Origin) (body : BitVec 512) : Prop :=
  ∃ x : Population, tblGet [] (t.part p).waiting prio = tblGet [] (s.part p).waiting prio ++ [x] ∧ x.origin = origin ∧ x.body = body ∧
    x.fn = p ∧ x.prio = prio ∧ ∀ k, k ≠ prio → tblGet [] (t.part p).waiting k = tblGet [] (s.part p).waiting k

/- Encodings and steps. -/

/-- The instruction that the decoder reads from an instruction's word: BFMT is one word for its three rows, since x[a] picks the part that it sets
(17 R424). -/
def asRead : Instr → Instr
  | .bfmtRowScales f => .bfmtFormat f
  | .bfmtColumnScales f => .bfmtFormat f
  | i => i

/-- No disturbance is met, nothing is due, no wait or slot goes on, the device has nothing to do, and hart h issues next: no interrupt comes first, and
it runs no program buffer. -/
def Issues (s : State) (h : Nat) : Prop :=
  s.boot.held = false ∧ takeFlaw s s.flaws = none ∧ takeDue s.now s.agenda = none ∧ expiredTimer s = none ∧ freedHart s = none ∧ continueSlot s = none ∧
    deviceAction s = none ∧ nextHart s = some h ∧ (s.core (unitOf h)).dbg.prog = none ∧ takesIrq s h = false

/-- Where a step that issues an instruction of so many bytes leaves hart h, given the outcome of the instruction: a hart that waits has taken no slot,
but for one whose instruction has gone into the vector instruction queue, and outside a single step and the program buffer the outcome stands. -/
def StepEnds (s : State) (h : Nat) (o : Host.Outcome State Fault Refusal) (t : State) : Prop :=
  ∃ u, o = .next u ∧ ((u.hart h).waiting = none → (u.core (unitOf h)).dbg.prog = none → (u.core (unitOf h)).dbg.stepping = none → t = u) ∧
    ((u.hart h).waiting = some .vecHeld → t = u) ∧
    ((u.hart h).waiting ≠ none → (u.hart h).waiting ≠ some .vecHeld → (t.hart h).waiting = (u.hart h).waiting ∧ (t.hart h).pc = (u.hart h).pc ∧
      (t.hart h).lastIssue = (s.hart h).lastIssue ∧ ∀ b, byteAt t b = byteAt u b)

end Sys2Proof.Machine
end

