-- ==== Sys2Proof/Certificates/Slice0/Obligations.lean ====
section
/-! DEFINITION. The statements for the provers. Each docstring names the rules of the manual that the statement formalises; where a
statement rests on a choice of the model, the docstring names the log entry. -/

open Sys2Proof Sys2Proof.Machine

/-- (1) 14 R342: a register-register instruction whose sources are full writes op(x[rs1], x[rs2]) into rd, which the next slot may read,
and moves pc by 4; nothing else changes. With rd = x0 the write writes nothing.
(2) 14 R342: the immediate forms, LUI and AUIPC. -/
def Obligations.ArithmeticResults : Prop :=
  (∀ e ∈ aluTable, ∀ (s : State) (rd rs1 rs2 : Reg), Readable s rs1 → Readable s rs2 → Writable s rd →
    exec (e.1 rd rs1 rs2) s = .next ((s.wrote rd (e.2 (s.xval rs1) (s.xval rs2))).retired 4)) ∧
  ((∀ e ∈ immTable, ∀ (s : State) (rd rs1 : Reg) (imm : BitVec 12), Readable s rs1 → Writable s rd →
    exec (e.1 rd rs1 imm) s = .next ((s.wrote rd (e.2 (s.xval rs1) (imm.signExtend 64))).retired 4)) ∧
  (∀ e ∈ shiftTable, ∀ (s : State) (rd rs1 : Reg) (n : BitVec 6), Readable s rs1 → Writable s rd →
    exec (e.1 rd rs1 n) s = .next ((s.wrote rd (e.2 (s.xval rs1) n.toNat)).retired 4)) ∧
  (∀ e ∈ shiftWTable, ∀ (s : State) (rd rs1 : Reg) (n : BitVec 5), Readable s rs1 → Writable s rd →
    exec (e.1 rd rs1 n) s = .next ((s.wrote rd (sext32 (e.2 ((s.xval rs1).truncate 32) n.toNat))).retired 4)) ∧
  (∀ (s : State) (rd : Reg) (imm : BitVec 20), Writable s rd →
    exec (.lui rd imm) s = .next ((s.wrote rd ((imm ++ (0 : BitVec 12)).signExtend 64)).retired 4) ∧
    exec (.auipc rd imm) s = .next ((s.wrote rd (s.self.pc + (imm ++ (0 : BitVec 12)).signExtend 64)).retired 4)))

/-- 14 R342: a jump goes to its target and links pc + 4; a branch goes to pc + sext(imm) where its condition holds, and to the next
instruction where it does not; a target with [1:0] ≠ 0 raises cause 0 and changes neither rd nor pc. The operands of JAL and of the
branches are imm[20:1] and imm[12:1]. -/
def Obligations.JumpAndBranchResult : Prop :=
  (∀ (s : State) (rd : Reg) (imm : BitVec 20), Writable s rd →
    let target := s.self.pc + (imm ++ (0 : BitVec 1)).signExtend 64
    exec (.jal rd imm) s = .next (if target.toNat % 4 = 0 then (s.wrote rd (s.self.pc + 4)).jumped target else takeTrap 0 target s)) ∧
  (∀ (s : State) (rd rs1 : Reg) (imm : BitVec 12), Readable s rs1 → Writable s rd →
    let target := (s.xval rs1 + imm.signExtend 64) &&& ~~~ 1
    exec (.jalr rd rs1 imm) s = .next (if target.toNat % 4 = 0 then (s.wrote rd (s.self.pc + 4)).jumped target else takeTrap 0 target s)) ∧
  (∀ e ∈ branchTable, ∀ (s : State) (rs1 rs2 : Reg) (imm : BitVec 12), Readable s rs1 → Readable s rs2 →
    let target := s.self.pc + (imm ++ (0 : BitVec 1)).signExtend 64
    (e.2 (s.xval rs1) (s.xval rs2) → target.toNat % 4 = 0 → exec (e.1 rs1 rs2 imm) s = .next (s.jumped target)) ∧
    (e.2 (s.xval rs1) (s.xval rs2) → target.toNat % 4 ≠ 0 → exec (e.1 rs1 rs2 imm) s = .next (takeTrap 0 target s)) ∧
    (¬ e.2 (s.xval rs1) (s.xval rs2) → exec (e.1 rs1 rs2 imm) s = .next (s.retired 4)))

/-- 14 R344, 07 R168: multiplies and divides write their result into rd, which is due 8, 20 or 36 cycles after the issue, and go on; no divide
traps. -/
def Obligations.MultiplyDivideResult : Prop :=
  ∀ e ∈ mulDivTable, ∀ (s : State) (rd rs1 rs2 : Reg), Readable s rs1 → Readable s rs2 → Writable s rd →
    exec (e.1 rd rs1 rs2) s = .next
      ((s.modHart s.cur (fun h => (h.setX rd.toNat (e.2.2 (s.xval rs1) (s.xval rs2))).setXFe rd.toNat (.due (s.now + e.2.1)))).retired 4)

/-- (1) 14 R347: a legal CSR access by a hart without earlier vector instructions reads the old value into rd and writes the new one. CSRRW
and CSRRWI with rd = x0 do not read; the set and clear forms with rs1 = x0 or uimm = 0 do not write.
(2) 08 R209, 14 R347: a CSR that the hart does not implement, one above its privilege, and a write of a read-only CSR raise cause 2; a
read of a read-only CSR by CSRRS or CSRRC with x0 does not. -/
def Obligations.ControlRegisters : Prop :=
  (∀ (s : State) (rd rs1 : Reg) (csr : BitVec 12), Writable s rd → noVectorWork s →
    let a := csr.toNat
    let old := csrRead s s.cur a
    let reads (t : State) := csrReadEffect s.cur a t
    (csrLegal s s.cur a true = true → Readable s rs1 → rd = 0 →
      exec (.csrrw rd rs1 csr) s = .next ((csrWrite s.cur a (s.xval rs1) s).retired 4)) ∧
    (csrLegal s s.cur a true = true → Readable s rs1 → rd ≠ 0 →
      exec (.csrrw rd rs1 csr) s = .next (((csrWrite s.cur a (s.xval rs1) (reads s)).wrote rd old).retired 4)) ∧
    (csrLegal s s.cur a true = true → rd = 0 →
      exec (.csrrwi rd rs1 csr) s = .next ((csrWrite s.cur a (rs1.setWidth 64) s).retired 4)) ∧
    (csrLegal s s.cur a true = true → rd ≠ 0 →
      exec (.csrrwi rd rs1 csr) s = .next (((csrWrite s.cur a (rs1.setWidth 64) (reads s)).wrote rd old).retired 4)) ∧
    (csrLegal s s.cur a true = true → rs1 ≠ 0 →
      (Readable s rs1 → exec (.csrrs rd rs1 csr) s = .next (((csrWrite s.cur a (old ||| s.xval rs1) (reads s)).wrote rd old).retired 4)) ∧
      (Readable s rs1 → exec (.csrrc rd rs1 csr) s = .next (((csrWrite s.cur a (old &&& ~~~ s.xval rs1) (reads s)).wrote rd old).retired 4)) ∧
      exec (.csrrsi rd rs1 csr) s = .next (((csrWrite s.cur a (old ||| rs1.setWidth 64) (reads s)).wrote rd old).retired 4) ∧
      exec (.csrrci rd rs1 csr) s = .next (((csrWrite s.cur a (old &&& ~~~ rs1.setWidth 64) (reads s)).wrote rd old).retired 4)) ∧
    (csrLegal s s.cur a false = true →
      exec (.csrrs rd 0 csr) s = .next (((reads s).wrote rd old).retired 4) ∧
      exec (.csrrc rd 0 csr) s = .next (((reads s).wrote rd old).retired 4) ∧
      exec (.csrrsi rd 0 csr) s = .next (((reads s).wrote rd old).retired 4) ∧
      exec (.csrrci rd 0 csr) s = .next (((reads s).wrote rd old).retired 4))) ∧
  (∀ (s : State) (rd rs1 : Reg) (csr : BitVec 12),
    let a := csr.toNat
    (csrExists s.cur a = false ∨ privNat s.self.priv < csrLevel a →
      ∀ i ∈ [Instr.csrrw rd rs1 csr, .csrrs rd rs1 csr, .csrrc rd rs1 csr, .csrrwi rd rs1 csr, .csrrsi rd rs1 csr, .csrrci rd rs1 csr],
        exec i s = .next (takeIllegal ((encode i).getD 0) s)) ∧
    (csrReadOnly a = true → rs1 ≠ 0 →
      ∀ i ∈ [Instr.csrrw rd rs1 csr, .csrrs rd rs1 csr, .csrrc rd rs1 csr, .csrrwi rd rs1 csr, .csrrsi rd rs1 csr, .csrrci rd rs1 csr],
        exec i s = .next (takeIllegal ((encode i).getD 0) s)))

/-- 10 R248–R250, 14 R346, R369: a fence of a hart whose posted accesses are acknowledged and that has no vector work completes at once; one
with an acquire component of cluster scope or wider drops the core's load entries; FENCE.I empties the core's instruction cache; a FENCE
with an empty set has no effect. 09 R238: SFENCE.VMA drops the translations that it names and completes. -/
def Obligations.FencesComplete : Prop :=
  ∀ s : State, noVectorWork s → NothingPosted s → s.self.widening = false →
    (∀ pred succ : BitVec 4, exec (.fence pred succ) s = .next ((if pred = 0 ∨ succ = 0 then s else dropAllLoads (unitOf s.cur) s).retired 4)) ∧
    exec .fenceTso s = .next ((dropAllLoads (unitOf s.cur) s).retired 4) ∧
    exec .fenceI s = .next ((dropICache (unitOf s.cur) s).retired 4) ∧
    (∀ (kind : BitVec 2) (scope : BitVec 3), kind ≠ 3 → scope.toNat ≤ 4 → hasMessages s.cur = true →
      exec (.fenceS kind scope) s = .next ((if kind = 1 ∨ scope = 0 then s else dropAllLoads (unitOf s.cur) s).retired 4)) ∧
    (∀ rs1 rs2 : Reg, Readable s rs1 → Readable s rs2 → s.self.priv = .machine ∨ (s.self.priv = .supervisor ∧ s.self.csr.mstatus.getLsbD 20 = false) →
      s.self.fencing = none → (∀ c ∈ s.cores, c.2.posted = []) →
      exec (.sfenceVma rs1 rs2) s = .next ((dropTlb (partOfHart s s.cur) (if rs1 = 0 then none else some (s.xval rs1).toNat)
        (if rs2 = 0 then none else some ((s.xval rs2).toNat % 2 ^ 16)) false s).retired 4))

/-- (1) 14 R349, 11 R266, R270: ECALL raises cause 8 in U-mode and cause 9 in S-mode; EBREAK raises cause 3 with the pc where the dcsr bit of the
mode is clear. Each takes its trap: a next state. That ECALL in M-mode of a vector core takes cause 2 is the model's reading
(notes/assumptions/21.md) and not stated here.
(2) 14 R349: SRET, WFI and SFENCE.VMA in U-mode, and MRET below M-mode, raise cause 2; 07 R180: TSPAWN, TREAP and TKILL do where the hart is
no context 0 of a vector core. stval holds the first 32 bits of the instruction (11 R270). -/
def Obligations.SystemCallsAndPrivilege : Prop :=
  (∀ s : State, inProgram s s.cur = false →
    (s.self.priv = .user → exec .ecall s = .next (takeTrap 8 0 s)) ∧
    (s.self.priv = .supervisor → exec .ecall s = .next (takeTrap 9 0 s)) ∧
    (s.self.csr.dcsr.getLsbD (ebreakBit s.self.priv) = false → exec .ebreak s = .next (takeTrap 3 s.self.pc s))) ∧
  (∀ s : State,
    (s.self.priv = .user → ∀ i ∈ [Instr.sret, .wfi], exec i s = .next (takeIllegal ((encode i).getD 0) s)) ∧
    (s.self.priv = .user → ∀ rs1 rs2, exec (.sfenceVma rs1 rs2) s = .next (takeIllegal ((encode (.sfenceVma rs1 rs2)).getD 0) s)) ∧
    (s.self.priv ≠ .machine → exec .mret s = .next (takeIllegal 0x30200073 s)) ∧
    (isVector s.cur = false ∨ ctxOf s.cur ≠ 0 → ∀ rd rs1 rs2 : Reg, ∀ i ∈ [Instr.tspawn rd rs1 rs2, .treap rd rs1, .tkill rs1],
      exec i s = .next (takeIllegal ((encode i).getD 0) s)))

/-- 11 R266, 08 R210, 10 R251: an exception delegated to S from U or S saves the pc in sepc, the cause in scause and its value in stval, moves
SIE to SPIE and clears it, keeps the mode in SPP, enters S-mode at stvec's base, sets kstat.HND and ends the reservation; another goes to
M-mode with the m registers in the same way. No x register, no byte of memory and no other hart changes. -/
def Obligations.TrapEntry : Prop :=
  ∀ (s : State) (cause : Nat) (tval : Word), inProgram s s.cur = false →
    let h := s.self
    let t := takeTrap cause tval s
    (h.priv ≠ .machine → h.csr.medeleg.getLsbD cause = true →
      t.self.csr.sepc = h.pc ∧ t.self.csr.scause = BitVec.ofNat 64 cause ∧ t.self.csr.stval = tval ∧ t.self.priv = .supervisor ∧
      t.self.pc = h.csr.stvec &&& ~~~ 3 ∧ t.self.csr.mstatus.getLsbD 5 = h.csr.mstatus.getLsbD 1 ∧ t.self.csr.mstatus.getLsbD 1 = false ∧
      t.self.csr.mstatus.getLsbD 8 = decide (h.priv = .supervisor) ∧ t.self.csr.mepc = h.csr.mepc ∧ t.self.csr.mcause = h.csr.mcause) ∧
    (h.priv = .machine ∨ h.csr.medeleg.getLsbD cause = false →
      t.self.csr.mepc = h.pc ∧ t.self.csr.mcause = BitVec.ofNat 64 cause ∧ t.self.csr.mtval = tval ∧ t.self.priv = .machine ∧
      t.self.pc = h.csr.mtvec &&& ~~~ 3 ∧ t.self.csr.mstatus.getLsbD 7 = h.csr.mstatus.getLsbD 3 ∧ t.self.csr.mstatus.getLsbD 3 = false ∧
      t.self.csr.mstatus.toNat / 2 ^ 11 % 4 = privNat h.priv ∧ t.self.csr.sepc = h.csr.sepc ∧ t.self.csr.scause = h.csr.scause) ∧
    t.self.kstat.hnd = true ∧ t.self.reservation = none ∧ t.self.waiting = none ∧
    (∀ r, t.self.getX r = h.getX r) ∧ t.self.vec = h.vec ∧ t.self.instret = h.instret ∧
    (∀ a, byteAt t a = byteAt s a) ∧ (∀ k, k ≠ s.cur → t.hart k = s.hart k)

/-- 14 R349, R350: SRET, where the mode and TSR allow it, and MRET in M-mode return to the saved pc and mode with the saved interrupt enable,
clear kstat.HND and MPRV on leaving M-mode, and end the reservation; WFI with an interrupt pending retires. -/
def Obligations.ReturnsAndWait : Prop :=
  ∀ s : State,
    let h := s.self
    (h.priv = .machine ∨ (h.priv = .supervisor ∧ h.csr.mstatus.getLsbD 22 = false) →
      ∃ t, exec .sret s = .next t ∧ t.self.pc = h.csr.sepc ∧
        t.self.priv = (if h.csr.mstatus.getLsbD 8 then .supervisor else .user) ∧
        t.self.csr.mstatus.getLsbD 1 = h.csr.mstatus.getLsbD 5 ∧ t.self.csr.mstatus.getLsbD 5 = true ∧ t.self.csr.mstatus.getLsbD 8 = false ∧
        t.self.kstat.hnd = false ∧ t.self.reservation = none ∧ t.self.instret = h.instret + 1 ∧ (∀ r, t.self.getX r = h.getX r) ∧
        ∀ a, byteAt t a = byteAt s a) ∧
    (h.priv = .machine →
      ∃ t, exec .mret s = .next t ∧ t.self.pc = h.csr.mepc ∧
        t.self.priv = privOf (h.csr.mstatus.toNat / 2 ^ 11 % 4) ∧
        t.self.csr.mstatus.getLsbD 3 = h.csr.mstatus.getLsbD 7 ∧ t.self.csr.mstatus.getLsbD 7 = true ∧
        (t.self.priv ≠ .machine → t.self.csr.mstatus.getLsbD 17 = false) ∧
        t.self.kstat.hnd = false ∧ t.self.reservation = none ∧ t.self.instret = h.instret + 1 ∧ (∀ r, t.self.getX r = h.getX r) ∧
        ∀ a, byteAt t a = byteAt s a) ∧
    (h.priv = .machine ∨ (h.priv = .supervisor ∧ h.csr.mstatus.getLsbD 21 = false) →
      (pendingIrqs s s.cur ≠ 0 → exec .wfi s = .next (s.retired 4)) ∧
      (pendingIrqs s s.cur = 0 → exec .wfi s = .next (enterWait .interrupt s)))

/-- (1) 14 R343, 09 R220, 00 R4: a load from global memory of the device, whose sector has no posted adds or atomics of its context and is under no
hold, puts the bytes that its context sees, its own posted stores included, in flight towards rd, sign- or zero-extended, and goes on; nothing
in memory changes. A load from host memory waits for its data first, and goes on so when they have come.
(2) 09 R213, R228, 14 R343: a load through the window of words under no hold, of banks that are open, reads the core's scratch or A staging in 10
cycles, the scratch of another core of the cluster in 36; a load of the W staging or the accumulators, or from a hole of the window, takes
cause 5. -/
def Obligations.Loads : Prop :=
  (∀ e ∈ loadTable, ∀ (s : State) (rd rs1 : Reg) (imm : BitVec 12) (r : Phys), Readable s rs1 → Writable s rd →
    let a := (s.ea rs1 imm).toNat
    let n := e.2.1
    let v := leNat (viewBytes s s.cur r.num n)
    Reaches s .load a n r →
    (r.host = false → OnlyPlainPosted s (sectorOf r.num) → heldByte s r.num n = none →
      ∃ t, exec (e.1 rd rs1 imm) s = .next t ∧ Advances s t 4 ∧
        InFlight s t rd (if e.2.2 then sextW (8 * n) v else BitVec.ofNat 64 v) ∧ ∀ b, byteAt t b = byteAt s b) ∧
    (r.host = true → s.self.hostRead = some (r.num, .ready) →
      ∃ t, exec (e.1 rd rs1 imm) s = .next t ∧ Advances s t 4 ∧ t.self.hostRead = none ∧
        InFlight s t rd (if e.2.2 then sextW (8 * n) v else BitVec.ofNat 64 v) ∧ ∀ b, byteAt t b = byteAt s b) ∧
    (r.host = true → s.self.hostRead = none →
      ∃ t, exec (e.1 rd rs1 imm) s = .next t ∧ t.self.waiting = some .hostRead ∧ t.self.pc = s.self.pc ∧
        t.self.hostRead = some (r.num, .pending) ∧ ∀ b, byteAt t b = byteAt s b)) ∧
  (∀ e ∈ loadTable, ∀ (s : State) (rd rs1 : Reg) (imm : BitVec 12) (off : Nat), Readable s rs1 → Writable s rd → noVectorWork s →
    let a := s.ea rs1 imm
    let n := e.2.1
    let u := unitOf s.cur
    let ext (v : Nat) : Word := if e.2.2 then sextW (8 * n) v else BitVec.ofNat 64 v
    (ReachesLocal s a.toNat n (.scratch off) → BankOpen s u off → WordsWhole s →
      ∃ t, exec (e.1 rd rs1 imm) s = .next t ∧ Advances s t 4 ∧ InFlight s t rd (ext (memRead (s.core u).scratch off n)) ∧
        (rd ≠ 0 → (s.now + 10, Instr.loadDataReturn s.cur rd) ∈ t.agenda) ∧ t.core u = s.core u) ∧
    (ReachesLocal s a.toNat n (.abuf off) → WordsWhole s →
      ∃ t, exec (e.1 rd rs1 imm) s = .next t ∧ Advances s t 4 ∧ InFlight s t rd (ext (memRead (s.core u).abuf off n)) ∧
        (rd ≠ 0 → (s.now + 10, Instr.loadDataReturn s.cur rd) ∈ t.agenda) ∧ t.core u = s.core u) ∧
    (∀ c, ReachesLocal s a.toNat n (.peer c off) → BankOpen s c off → NothingPosted s → (s.core c).failingWords = [] →
      ∃ t, exec (e.1 rd rs1 imm) s = .next t ∧ Advances s t 4 ∧ InFlight s t rd (ext (memRead (s.core c).scratch off n)) ∧
        (rd ≠ 0 → (s.now + 36, Instr.loadDataReturn s.cur rd) ∈ t.agenda) ∧ t.core c = s.core c) ∧
    (ReachesLocal s a.toNat n (.wbuf off) ∨ ReachesLocal s a.toNat n (.cbuf off) ∨
      (inWindow s.cur a.toNat = true ∧ a.toNat % n = 0 ∧ windowPlace u (a.toNat - windowBase) = none) →
      exec (e.1 rd rs1 imm) s = .next (takeTrap 5 a s)))

/-- (1) 14 R343, 09 R220: a store to a line that the core's L1 owns, on a sector without entries of its context in the posted-store buffer, stores its
bytes, and nothing else in memory changes; a store to a line that it does not own, or to host memory, enters the posted-store buffer, whose entry then holds its bytes, and memory is unchanged until the entry is performed. A full buffer makes it wait.
(2) 09 R213, 14 R343: a store through the window writes the core's scratch, W staging or A staging, and changes no other byte of it and none of
global memory, where no word of them is under hold; a store to the scratch of another core travels as a packet; one to the accumulators or to the lock rows takes cause 7. -/
def Obligations.Stores : Prop :=
  (∀ e ∈ storeTable, ∀ (s : State) (rs1 rs2 : Reg) (imm : BitVec 12) (r : Phys), Readable s rs1 → Readable s rs2 →
    let a := (s.ea rs1 imm).toNat
    let n := e.2
    let u := unitOf s.cur
    let bs := leBytes n (s.xval rs2).toNat
    let owned := !r.host && l1Owns s u r.num
    Reaches s .store a n r → heldByte s r.num n = none →
    (owned = true → (∀ p ∈ (s.core u).posted, p.hart = s.cur → p.sector ≠ sectorOf r.num) → ∃ t, exec (e.1 rs1 rs2 imm) s = .next t ∧ Advances s t 4 ∧ StoresOnly s t r.num bs) ∧
    (owned = false → bufferFull s u = false →
      ∃ t, exec (e.1 rs1 rs2 imm) s = .next t ∧ Advances s t 4 ∧ (∀ b, byteAt t b = byteAt s b) ∧
        ∃ p ∈ (t.core u).posted, p.hart = s.cur ∧ p.sector = sectorOf r.num ∧ ∃ old, p.op = .bytes (old ++ cellsAt r.num bs)) ∧
    (owned = false → bufferFull s u = true →
      ∃ t, exec (e.1 rs1 rs2 imm) s = .next t ∧ t.self.waiting = some .postedRoom ∧ t.self.pc = s.self.pc ∧ ∀ b, byteAt t b = byteAt s b)) ∧
  (∀ e ∈ storeTable, ∀ (s : State) (rs1 rs2 : Reg) (imm : BitVec 12) (off : Nat), Readable s rs1 → Readable s rs2 → noVectorWork s →
    WordsWhole s →
    let a := s.ea rs1 imm
    let n := e.2
    let u := unitOf s.cur
    let bs := leBytes n (s.xval rs2).toNat
    (ReachesLocal s a.toNat n (.scratch off) → BankOpen s u off →
      ∃ t, exec (e.1 rs1 rs2 imm) s = .next t ∧ Advances s t 4 ∧ LocalStores (s.core u).scratch (t.core u).scratch off bs ∧
        ∀ b, byteAt t b = byteAt s b) ∧
    (ReachesLocal s a.toNat n (.wbuf off) →
      ∃ t, exec (e.1 rs1 rs2 imm) s = .next t ∧ Advances s t 4 ∧ LocalStores (s.core u).wbuf (t.core u).wbuf off bs ∧
        ∀ b, byteAt t b = byteAt s b) ∧
    (ReachesLocal s a.toNat n (.abuf off) →
      ∃ t, exec (e.1 rs1 rs2 imm) s = .next t ∧ Advances s t 4 ∧ LocalStores (s.core u).abuf (t.core u).abuf off bs ∧
        ∀ b, byteAt t b = byteAt s b) ∧
    (∀ c, ReachesLocal s a.toNat n (.peer c off) → (s.core c).failingWords = [] →
      ∃ t, exec (e.1 rs1 rs2 imm) s = .next t ∧ Advances s t 4 ∧ (∀ b, byteAt t b = byteAt s b) ∧ (t.core c).scratch = (s.core c).scratch ∧
        ∃ p ∈ (t.core u).posted, p.hart = s.cur ∧ p.sent = true ∧ p.op = .packet c (cellsAt off bs)) ∧
    (ReachesLocal s a.toNat n (.cbuf off) ∨ (∃ b, ReachesLocal s a.toNat n (.lock off b)) → exec (e.1 rs1 rs2 imm) s = .next (takeTrap 7 a s)))

/-- 09 R218, R213: a scalar load or store that crosses a 128-byte sector of global memory, or is misaligned in the window, takes cause 4 or 6; LR, SC
and AMOs are naturally aligned everywhere, and a misaligned LR takes cause 4, the others cause 6. stval holds the address. -/
def Obligations.MisalignedAccessTraps : Prop :=
  ∀ (s : State) (rd rs1 rs2 : Reg), Readable s rs1 → Readable s rs2 → Writable s rd →
    let crosses (a n : Nat) : Prop := (inWindow s.cur a = false ∧ 128 < a % 128 + n) ∨ (inWindow s.cur a = true ∧ a % n ≠ 0)
    (∀ e ∈ loadTable, ∀ imm, crosses (s.ea rs1 imm).toNat e.2.1 → exec (e.1 rd rs1 imm) s = .next (takeTrap 4 (s.ea rs1 imm) s)) ∧
    (∀ e ∈ storeTable, ∀ imm, crosses (s.ea rs1 imm).toNat e.2 → exec (e.1 rs1 rs2 imm) s = .next (takeTrap 6 (s.ea rs1 imm) s)) ∧
    (∀ wide aq rl, (s.xval rs1).toNat % (if wide then 8 else 4) ≠ 0 →
      exec (.lr wide aq rl rd rs1) s = .next (takeTrap 4 (s.xval rs1) s) ∧
      exec (.sc wide aq rl rd rs1 rs2) s = .next (takeTrap 6 (s.xval rs1) s) ∧
      ∀ e ∈ amoTable, exec (e.1 wide aq rl rd rs1 rs2) s = .next (takeTrap 6 (s.xval rs1) s))

/-- (1) 14 R345, 10 R249: an AMO on device memory of a context without posted accesses, in a line that is not in overflow, stores the new value of its
width and puts the old one, sign-extended, in flight towards rd; aq and rl change nothing of this. One on host memory takes cause 7.
(2) 14 R345: an AMO on the core's own scratch, in a bank that is open and of words under no hold, does the same there, with its result after 10
cycles. -/
def Obligations.AtomicMemoryOperations : Prop :=
  (∀ e ∈ amoTable, ∀ (s : State) (wide aq rl : Bool) (rd rs1 rs2 : Reg) (r : Phys), Readable s rs1 → Readable s rs2 → Writable s rd →
    noVectorWork s → NothingPosted s → s.self.widening = false →
    let a := (s.xval rs1).toNat
    let w := if wide then 8 else 4
    let old := gRead s r.num w
    a % w = 0 → Reaches s .store a w r →
    (r.host = false → isRemote r.pa = false → heldByte s r.num w = none → ovfSlice s (partOfHart s s.cur) (sectorOf r.num) = none →
      ∃ t, exec (e.1 wide aq rl rd rs1 rs2) s = .next t ∧ Advances s t 4 ∧ InFlight s t rd (sextW (8 * w) old) ∧
        StoresOnly s t r.num (leBytes w (e.2 (8 * w) old ((s.xval rs2).toNat % 2 ^ (8 * w))))) ∧
    (r.host = true → rl = false → exec (e.1 wide aq rl rd rs1 rs2) s = .next (takeTrap 7 (s.xval rs1) s))) ∧
  (∀ e ∈ amoTable, ∀ (s : State) (wide aq rl : Bool) (rd rs1 rs2 : Reg) (off : Nat), Readable s rs1 → Readable s rs2 → Writable s rd →
    noVectorWork s → NothingPosted s → WordsWhole s → s.self.widening = false →
    let u := unitOf s.cur
    let w := if wide then 8 else 4
    let old := memRead (s.core u).scratch off w
    ReachesLocal s (s.xval rs1).toNat w (.scratch off) → BankOpen s u off →
    ∃ t, exec (e.1 wide aq rl rd rs1 rs2) s = .next t ∧ Advances s t 4 ∧ InFlight s t rd (sextW (8 * w) old) ∧
      (rd ≠ 0 → (s.now + 10, Instr.loadDataReturn s.cur rd) ∈ t.agenda) ∧
      LocalStores (s.core u).scratch (t.core u).scratch off (leBytes w (e.2 (8 * w) old ((s.xval rs2).toNat % 2 ^ (8 * w)))) ∧
      ∀ b, byteAt t b = byteAt s b)

/-- 14 R345, 10 R251: in device memory, for a context without posted accesses, LR reads its word and reserves its sector; SC stores and answers 0 while the reservation of its sector stands, and otherwise
stores nothing and answers 1; either way the reservation ends. In the window LR takes cause 5 and SC cause 7. -/
def Obligations.LoadReservedStoreConditional : Prop :=
  ∀ (s : State) (wide aq rl : Bool) (rd rs1 rs2 : Reg) (r : Phys), Readable s rs1 → Readable s rs2 → Writable s rd →
    noVectorWork s → NothingPosted s → s.self.widening = false →
    let a := (s.xval rs1).toNat
    let w := if wide then 8 else 4
    a % w = 0 →
    (inWindow s.cur a = true → exec (.lr wide aq rl rd rs1) s = .next (takeTrap 5 (s.xval rs1) s) ∧
      exec (.sc wide aq rl rd rs1 rs2) s = .next (takeTrap 7 (s.xval rs1) s)) ∧
    (r.host = false → isRemote r.pa = false → heldByte s r.num w = none →
      (Reaches s .load a w r → ∃ t, exec (.lr wide aq rl rd rs1) s = .next t ∧ Advances s t 4 ∧ t.self.reservation = some (sectorOf r.num) ∧
        InFlight s t rd (sextW (8 * w) (leNat (viewBytes s s.cur r.num w))) ∧ ∀ b, byteAt t b = byteAt s b) ∧
      (Reaches s .store a w r → ovfSlice s (partOfHart s s.cur) (sectorOf r.num) = none →
        (s.self.reservation = some (sectorOf r.num) → ∃ t, exec (.sc wide aq rl rd rs1 rs2) s = .next t ∧ Advances s t 4 ∧
          t.self.reservation = none ∧ InFlight s t rd 0 ∧ StoresOnly s t r.num (leBytes w (s.xval rs2).toNat)) ∧
        (s.self.reservation ≠ some (sectorOf r.num) → ∃ t, exec (.sc wide aq rl rd rs1 rs2) s = .next t ∧ Advances s t 4 ∧
          t.self.reservation = none ∧ InFlight s t rd 1 ∧ ∀ b, byteAt t b = byteAt s b)))

/-- 14 R353, 04 R96: TSPAWN of context 0 answers −1 for a context that is 0 or not FREE and −2 for an empty sub-queue; otherwise it starts the next
thread of the head record on the context, with the record's registers and the stvec and sscratch of the pair, which lies in device memory, and
answers the thread's index. -/
def Obligations.ThreadStart : Prop :=
  ∀ (s : State) (rd rs1 rs2 : Reg), IsCoreSupervisor s → Readable s rs1 → Readable s rs2 → Writable s rd →
    let u := unitOf s.cur
    let ctx := (s.xval rs1).toNat % 16
    let sq := (s.xval rs1).toNat / 256 % 4
    let k := 16 * u + ctx
    (ctx = 0 ∨ (s.hart k).run ≠ .free → exec (.tspawn rd rs1 rs2) s = .next ((s.wrote rd (BitVec.allOnes 64)).retired 4)) ∧
    (ctx ≠ 0 → (s.hart k).run = .free → tblGet [] (s.core u).launch sq = [] →
      exec (.tspawn rd rs1 rs2) s = .next ((s.wrote rd (BitVec.allOnes 64 - 1)).retired 4)) ∧
    (∀ (r : LaunchRec) (rest : List LaunchRec) (pair : Nat), ctx ≠ 0 → (s.hart k).run = .free →
      tblGet [] (s.core u).launch sq = r :: rest → PairAt s (s.xval rs2).toNat pair →
      ∃ t, exec (.tspawn rd rs1 rs2) s = .next t ∧ WritesOnly s t 4 rd (BitVec.ofNat 64 (r.first + r.started)) ∧
        (t.hart k).run = .running ∧ (t.hart k).pc = r.pc ∧ (t.hart k).priv = (if r.privS then .supervisor else .user) ∧
        (t.hart k).getX 10 = r.seed0 ∧ (t.hart k).getX 11 = r.seed1 ∧ (t.hart k).getX 12 = r.seed2 ∧ (t.hart k).getX 13 = r.seed3 ∧
        (t.hart k).getX 14 = BitVec.ofNat 64 (r.first + r.started) ∧ (t.hart k).getX 15 = BitVec.ofNat 64 r.size ∧
        (t.hart k).getX 16 = BitVec.ofNat 64 r.gang ∧ (t.hart k).getX 2 = r.stktop - BitVec.ofNat 64 r.started * r.stkbytes ∧
        (t.hart k).csr.stvec = BitVec.ofNat 64 pair ∧ (t.hart k).csr.sscratch = BitVec.ofNat 64 (pair / 2 ^ 64) ∧
        (t.hart k).thread.popid = r.popid ∧ (t.hart k).thread.comp = r.comp ∧ (t.hart k).thread.as = r.as ∧
        ∃ l, tblGet [] (t.core u).launch sq = l ∧ l.length = rest.length + (if r.started + 1 = r.nthr then 0 else 1) ∧
          (r.started + 1 ≠ r.nthr → l = { r with started := r.started + 1 } :: rest))

/-- (1) 14 R354, R355: TREAP of an EXITED context whose posted accesses and Hoist requests are done frees it and answers its completion address; it
waits while one is outstanding, and answers −1 for another context. TKILL of a context without outstanding accesses frees it at once, and
does nothing for context 0 or a FREE context.
(2) 14 R358: TEXIT ends the thread of a program context in no gang and without locks: the context is EXITED, and a notice with its popid, thread
index and tag enters context 0's q7; while that is full it waits, still RUNNING. -/
def Obligations.ThreadEndAndExit : Prop :=
  (∀ (s : State) (rd rs1 : Reg), IsCoreSupervisor s → Readable s rs1 → Writable s rd →
    let u := unitOf s.cur
    let ctx := (s.xval rs1).toNat % 16
    let k := 16 * u + ctx
    (ctx = 0 ∨ (s.hart k).run ≠ .exited → exec (.treap rd rs1) s = .next ((s.wrote rd (BitVec.allOnes 64)).retired 4)) ∧
    (ctx ≠ 0 → (s.hart k).run = .exited → contextBusy s k = false →
      ∃ t, exec (.treap rd rs1) s = .next t ∧ WritesOnly s t 4 rd (s.hart k).thread.comp ∧ (t.hart k).run = .free ∧ (t.hart k).q7 = []) ∧
    (ctx ≠ 0 → (s.hart k).run = .exited → (s.core u).posted.any (fun e => e.hart = k) = true →
      ∃ t, exec (.treap rd rs1) s = .next t ∧ t.self.waiting = some (.reap ctx) ∧ t.self.pc = s.self.pc ∧ (t.hart k).run = .exited) ∧
    (ctx = 0 ∨ (s.hart k).run = .free → exec (.tkill rs1) s = .next (s.retired 4)) ∧
    (ctx ≠ 0 → (s.hart k).run ≠ .free → (s.hart k).tkilling = false → contextBusy s k = false → (s.core u).locks = [] → (s.hart k).thread.gang = 0 →
      (∀ p, gangFind s p 0 = none) →
      ∃ t, exec (.tkill rs1) s = .next t ∧ Advances s t 4 ∧ (t.hart k).run = .free ∧ (t.hart k).q7 = [] ∧ (t.core u).reuse = [])) ∧
  (∀ s : State, IsProgramContext s → noVectorWork s → s.self.loads = [] →
    let z := s.cur / 16 * 16
    (32 ≤ (s.hart z).q7.length → exec .texit s = .next (enterWait .notice s)) ∧
    ((s.hart z).q7.length < 32 → gangFind s s.self.thread.partition s.self.thread.gang = none → (s.core (unitOf s.cur)).locks = [] →
      ∃ t, exec .texit s = .next t ∧ t.self.run = .exited ∧ t.self.instret = s.self.instret + 1 ∧
        (t.hart z).q7 = (s.hart z).q7 ++ [(BitVec.ofNat 64 (s.self.thread.popid.toNat + s.self.thread.index.toNat * 2 ^ 32),
          BitVec.ofNat 16 (0x8000 + s.cur / 16 % 512 * 16 + s.cur % 16))] ∧ ∀ b, byteAt t b = byteAt s b))

/-- 14 R356: TSTAT reports the state of a context of its core without waiting: the state in [1:0], the waiting bit, S-mode and a trap handler
in [3], [4] and [5], and the popid; of a launch sub-queue in context 0 its head record, and −1 in other contexts. -/
def Obligations.ThreadStatus : Prop :=
  ∀ (s : State) (rd rs1 : Reg), isVector s.cur = true → Readable s rs1 → Writable s rd →
    let u := unitOf s.cur
    let g := s.hart (16 * u + (s.xval rs1).toNat % 16)
    ((s.xval rs1).getLsbD 4 = false → ∃ v : Word, exec (.tstat rd rs1) s = .next ((s.wrote rd v).retired 4) ∧
      v.toNat % 4 = (match g.run with | .free => 0 | .running => 1 | .exited => 2) ∧
      v.getLsbD 2 = g.kstat.pend ∧ v.getLsbD 3 = g.waiting.isSome ∧ v.getLsbD 4 = decide (g.priv = .supervisor) ∧
      v.getLsbD 5 = g.kstat.hnd ∧ (g.run = .free → v.toNat / 2 ^ 32 = 0) ∧ (g.run ≠ .free → v.toNat / 2 ^ 32 = g.thread.popid.toNat)) ∧
    ((s.xval rs1).getLsbD 4 = true → ctxOf s.cur ≠ 0 →
      exec (.tstat rd rs1) s = .next ((s.wrote rd (BitVec.allOnes 64)).retired 4)) ∧
    ((s.xval rs1).getLsbD 4 = true → ctxOf s.cur = 0 → tblGet [] (s.core u).launch ((s.xval rs1).toNat % 4) = [] →
      exec (.tstat rd rs1) s = .next ((s.wrote rd 0).retired 4)) ∧
    (∀ (r : LaunchRec) (rest : List LaunchRec), (s.xval rs1).getLsbD 4 = true → ctxOf s.cur = 0 →
      tblGet [] (s.core u).launch ((s.xval rs1).toNat % 4) = r :: rest → r.nthr < 16 → r.started < 16 → r.prio < 4 →
      ∃ v : Word, exec (.tstat rd rs1) s = .next ((s.wrote rd v).retired 4) ∧ v.toNat % 2 ^ 4 = r.nthr ∧ v.toNat / 2 ^ 4 % 2 ^ 4 = r.started ∧
        v.toNat / 2 ^ 8 % 4 = r.prio ∧ v.getLsbD 10 = r.coresident ∧ v.getLsbD 11 = r.privS ∧ v.getLsbD 15 = true ∧
        v.toNat / 2 ^ 32 = r.popid.toNat)

/-- 14 R357: TSELF writes the hart's own tag, its compute die, the index of its cluster in its partition and the thread index. -/
def Obligations.ThreadSelf : Prop :=
  ∀ (s : State) (rd : Reg), hasMessages s.cur = true → Writable s rd →
    ∃ v : Word, exec (.tself rd) s = .next ((s.wrote rd v).retired 4) ∧
      (isVector s.cur = true → v.toNat % 2 ^ 4 = s.cur % 16 ∧ v.toNat / 2 ^ 4 % 2 ^ 9 = s.cur / 16 % 512 ∧ v.toNat / 2 ^ 13 % 8 = 0 ∧
        v.toNat / 2 ^ 16 % 8 = s.cur / 8192 ∧ v.toNat / 2 ^ 19 % 2 ^ 9 = clusterIndex s (s.cur / 128)) ∧
      (isControl s.cur = true → s.cur < 0x10400 → v.toNat % 2 ^ 4 = s.cur % 2 ∧ v.toNat / 2 ^ 4 % 2 ^ 9 = (s.cur - 0x10000) / 2 % 64 ∧
        v.toNat / 2 ^ 13 % 8 = 1 ∧ v.toNat / 2 ^ 16 % 8 = (s.cur - 0x10000) / 128 ∧
        v.toNat / 2 ^ 19 % 2 ^ 9 = clusterIndex s ((s.cur - 0x10000) / 2)) ∧
      (isControl s.cur = true → s.cur < 0x10400 → v.toNat / 2 ^ 28 = 0) ∧ (isVector s.cur = true → v.toNat / 2 ^ 28 % 2 ^ 4 = 0 ∧
        v.toNat / 2 ^ 32 = if s.cur % 16 = 0 then 0 else s.self.thread.index.toNat)

/-- 14 R359, R360, 07 R175, R176: GJOIN creates a gang with the least free identifier and rank 0, joins a live gang, and answers −1, −2 or −3
where it cannot; GSIZE and GRANK report; GLEAVE of the only member dissolves its dynamic gang; GBAR of the only member completes its
generation at once, and one that finds another member missing waits. A context in no gang gets −1 from all four. -/
def Obligations.GangMembership : Prop :=
  ∀ (s : State) (rd rs1 : Reg), IsProgramContext s → Readable s rs1 → Writable s rd →
    let p := s.self.thread.partition
    let out (v : Word) := Host.Outcome.next (φ := Fault) (ρ := Refusal) ((s.wrote rd v).retired 4)
    ((myGang s).isSome = true → exec (.gjoin rd rs1) s = out (BitVec.allOnes 64)) ∧
    ((myGang s).isNone = true →
      exec (.gleave rd) s = out (BitVec.allOnes 64) ∧ exec (.gbar rd) s = out (BitVec.allOnes 64) ∧
      exec (.gsize rd) s = out (BitVec.allOnes 64) ∧ exec (.grank rd) s = out (BitVec.allOnes 64) ∧
      (s.xval rs1 = 0 → 4096 ≤ (s.part p).gangs.length → exec (.gjoin rd rs1) s = out (BitVec.allOnes 64 - 2)) ∧
      (s.xval rs1 ≠ 0 → gangFind s p (s.xval rs1).toNat = none → exec (.gjoin rd rs1) s = out (BitVec.allOnes 64 - 1)) ∧
      (s.xval rs1 = 0 → (s.part p).gangs.length < 4096 → ∃ t g, exec (.gjoin rd rs1) s = .next t ∧
        WritesOnly s t 4 rd (BitVec.ofNat 64 g.id) ∧ g.id ≠ 0 ∧ gangFind s p g.id = none ∧ (∀ k, 0 < k → k < g.id → gangFind s p k ≠ none) ∧
        InGang t g { who := s.cur, rank := 0, party := 0, arrived := false } ∧ g.members.length = 1) ∧
      (∀ e, s.xval rs1 ≠ 0 → gangFind s p (s.xval rs1).toNat = some e → (∀ x ∈ e.members, x.who ≠ s.cur) → ∃ t g m, exec (.gjoin rd rs1) s = .next t ∧
        WritesOnly s t 4 rd (s.xval rs1) ∧ InGang t g m ∧ g.members = e.members ++ [m] ∧ e.reserved ≤ m.rank ∧
        (∀ x ∈ e.members, x.rank ≠ m.rank) ∧ m.arrived = false)) ∧
    (∀ g m, InGang s g m →
      exec (.gsize rd) s = out (BitVec.ofNat 64 g.members.length) ∧ exec (.grank rd) s = out (BitVec.ofNat 64 m.rank)) ∧
    (∀ g m, InGang s g m → g.members = [m] → g.reserved = 0 →
      (∃ t, exec (.gleave rd) s = .next t ∧ WritesOnly s t 4 rd 0 ∧ gangFind t p g.id = none ∧ t.self.thread.gang = 0) ∧
      (AllQuiet s → m.arrived = false → m.party ≤ g.generation → m.who < 2 ^ 20 →
        ∃ t g', exec (.gbar rd) s = .next t ∧ WritesOnly s t 4 rd 0 ∧ gangFind t p g.id = some g' ∧ g'.generation = g.generation + 1)) ∧
    (∀ g m, InGang s g m → m.arrived = false → (∃ x ∈ g.members, x.who ≠ s.cur ∧ x.party ≤ g.generation ∧ x.arrived = false) →
      ∃ t, exec (.gbar rd) s = .next t ∧ t.self.waiting = some .barrier ∧ t.self.pc = s.self.pc)

/-- 14 R361, R363: MSEND of a hart whose posted accesses are done appends its payload and tag to the q7 of a running target with room, is
discarded for a context that does not run, and takes cause 28 with 23 for a target it may not name; QPOP and QPOPT pop the head of q7, and of
an empty one QPOP waits and QPOPT answers 0 and −1. -/
def Obligations.MessagesTravelInOrder : Prop :=
  ∀ (s : State) (rd rt rs1 rs2 : Reg), hasMessages s.cur = true → Readable s rs1 → Readable s rs2 → Writable s rd → Writable s rt →
    (msendTarget s s.cur (s.xval rs1) = none → exec (.msend rs1 rs2) s = .next (takeTrap 28 23 s)) ∧
    (∀ k, msendTarget s s.cur (s.xval rs1) = some k → noVectorWork s → NothingPosted s → s.self.widening = false →
      (s.core (unitOf k)).kcut.recorded = false →
      ((s.hart k).q7.length < 32 → (s.hart k).run = .running ∨ isVector k = false →
        ∃ t, exec (.msend rs1 rs2) s = .next t ∧ Advances s t 4 ∧ (t.hart k).q7 = (s.hart k).q7 ++ [(s.xval rs2, tagOf s.cur)]) ∧
      ((s.hart k).q7.length < 32 → (s.hart k).run ≠ .running → isVector k = true → ∃ t, exec (.msend rs1 rs2) s = .next t ∧ Advances s t 4 ∧
        (t.hart k).q7 = (s.hart k).q7) ∧
      (32 ≤ (s.hart k).q7.length → ∃ t, exec (.msend rs1 rs2) s = .next t ∧ t.self.waiting = some (.messageRoom k) ∧ t.self.pc = s.self.pc)) ∧
    ((rd ≠ rt ∨ rd = 0) → (∀ e ∈ (s.core (unitOf s.cur)).tokens, e.1 ≠ s.cur) →
      (s.self.q7 = [] → exec (.qpop rd rt) s = .next (enterWait .message s) ∧
        exec (.qpopt rd rt) s = .next (((s.wrote rd 0).wrote rt (BitVec.allOnes 64)).retired 4)) ∧
      (∀ v tag rest, s.self.q7 = (v, tag) :: rest → ∀ i ∈ [Instr.qpop rd rt, .qpopt rd rt],
        ∃ t, exec i s = .next t ∧ t.self.pc = s.self.pc + 4 ∧ t.self.q7 = rest ∧ (rd ≠ 0 → t.self.getX rd.toNat = v) ∧
          (rt ≠ 0 → t.self.getX rt.toNat = tag.setWidth 64))) ∧
    (rd = rt → rd ≠ 0 → exec (.qpop rd rt) s = .next (takeIllegal ((encode (.qpop rd rt)).getD 0) s) ∧
      exec (.qpopt rd rt) s = .next (takeIllegal ((encode (.qpopt rd rt)).getD 0) s))

/-- 14 R364, R365: RQPUSH appends an identifier to the FIFO of its priority and traps with cause 28 where that holds 64; RQPOP and RQTRY take the head
of the most urgent non-empty FIFO; of an empty queue RQPOP waits and RQTRY answers −1. -/
def Obligations.ReadyQueue : Prop :=
  ∀ (s : State) (rd rs1 rs2 : Reg), isVector s.cur = true → Readable s rs1 → Readable s rs2 → Writable s rd →
    let u := unitOf s.cur
    let fifo (p : Nat) := tblGet [] (s.core u).ready p
    let prio := (s.xval rs2).toNat % 4
    (64 ≤ (fifo prio).length → exec (.rqpush rs1 rs2) s =
      .next (takeTrap 28 (BitVec.ofNat 64 ((s.xval rs1).toNat % 2 ^ 16 + prio * 2 ^ 16)) s)) ∧
    ((fifo prio).length < 64 → ∃ t, exec (.rqpush rs1 rs2) s = .next t ∧ Advances s t 4 ∧
      tblGet [] (t.core u).ready prio = fifo prio ++ [(s.xval rs1).setWidth 16] ∧ ∀ q, q ≠ prio → tblGet [] (t.core u).ready q = fifo q) ∧
    ((∀ p, p < 4 → fifo p = []) → exec (.rqpop rd) s = .next (enterWait .readyTask s) ∧
      exec (.rqtry rd) s = .next ((s.wrote rd (BitVec.allOnes 64)).retired 4)) ∧
    (∀ p task rest, p < 4 → fifo p = task :: rest → (∀ q, p < q → q < 4 → fifo q = []) → ∀ i ∈ [Instr.rqpop rd, .rqtry rd],
      ∃ t, exec i s = .next t ∧ WritesOnly s t 4 rd (BitVec.ofNat 64 (task.toNat + p * 2 ^ 16)) ∧ tblGet [] (t.core u).ready p = rest ∧
        ∀ q, q ≠ p → tblGet [] (t.core u).ready q = fifo q)

/-- (1) 14 R367, R368: on a vector core FEPROBE answers 1 for a full register, 0 for one that FEMARK marked and 2 for one with a result in flight, and
retires; FEMARK of a register without a result in flight retires, marks it empty and keeps the contents of every register, and otherwise it
waits for the register.
(2) 08 R184: a register-register, multiply, divide, immediate or branch instruction, a load and a store whose first source rs1 is empty wait for that
register and have no other effect. -/
def Obligations.FullEmptyRegisters : Prop :=
  (∀ (s : State) (rd reg bank : Reg), isVector s.cur = true → Writable s rd → bank.toNat < 2 →
    let fe := if bank = 0 then s.self.xFe s.now reg.toNat else s.vFe s.cur reg.toNat
    (bank = 0 → reg ≠ 0) → (bank ≠ 0 → reg.toNat < 16) →
    (exec (.feprobe rd reg bank) s = .next ((s.wrote rd (match fe with | .full => 1 | .marked => 0 | _ => 2)).retired 4)) ∧
    (fe = .full ∨ fe = .marked → ∃ t, exec (.femark reg bank) s = .next t ∧ Advances s t 4 ∧ t.self.vec.v = s.self.vec.v ∧
      ((bank = 0 ∧ reg ≠ 0) → t.self.xFe t.now reg.toNat = .marked) ∧ (bank = 1 → t.self.vec.vfe = tblSet s.self.vec.vfe reg.toNat .marked)) ∧
    (fe ≠ .full → fe ≠ .marked →
      exec (.femark reg bank) s = .next (enterWait (if bank = 0 then .xreg reg.toNat else .vreg reg.toNat) s))) ∧
  (∀ (s : State) (rd rs1 rs2 : Reg), Empty s rs1 →
    (∀ e ∈ aluTable, exec (e.1 rd rs1 rs2) s = .next (enterWait (.xreg rs1.toNat) s)) ∧
    (∀ e ∈ mulDivTable, exec (e.1 rd rs1 rs2) s = .next (enterWait (.xreg rs1.toNat) s)) ∧
    (∀ e ∈ immTable, ∀ imm, exec (e.1 rd rs1 imm) s = .next (enterWait (.xreg rs1.toNat) s)) ∧
    (∀ e ∈ loadTable, ∀ imm, exec (e.1 rd rs1 imm) s = .next (enterWait (.xreg rs1.toNat) s)) ∧
    (∀ e ∈ storeTable, ∀ imm, exec (e.1 rs1 rs2 imm) s = .next (enterWait (.xreg rs1.toNat) s)) ∧
    (∀ e ∈ branchTable, ∀ imm, exec (e.1 rs1 rs2 imm) s = .next (enterWait (.xreg rs1.toNat) s)))

/-- (1) 16 R410, R411, R414, 11 R277: HPUSH and HPUSHT of four legal words put the request into the core's FIFO with the shape and mode of
the moment, and HPUSHT answers 0; a full FIFO of 16 makes HPUSH wait and HPUSHT answer 1; words that are not legal raise cause 2. A request with a
release does so where its context has no vector work and no posted accesses.
(2) 16 R415, R417: HQLEN reports the context's requests, the FIFO's and whether one is stopped; DRAIN of a memory that no waiting request copies into
completes at once, and waits where one does. 16 R416: CWAIT of a counter in device memory that has reached the target completes. -/
def Obligations.HoistPushAndReports : Prop :=
  (∀ (s : State) (rd rs1 : Reg), isVector s.cur = true → 1 ≤ rs1.toNat → rs1.toNat ≤ 28 → Writable s rd →
    (∀ k, k < 4 → s.self.xReady s.now (rs1.toNat + k) = true ∧ rs1.toNat + k ∉ s.self.xHeld) →
    let u := unitOf s.cur
    let w (k : Nat) := s.self.getX (rs1.toNat + k)
    (hoistWordsOk (w 0) (w 1) (w 2) (w 3) = false → exec (.hpush rs1) s = .next (takeIllegal ((encode (.hpush rs1)).getD 0) s)) ∧
    (hoistWordsOk (w 0) (w 1) (w 2) (w 3) = true → 16 ≤ (s.core u).hoist.length →
      exec (.hpush rs1) s = .next (enterWait .hoistRoom s) ∧ exec (.hpusht rd rs1) s = .next ((s.wrote rd 1).retired 4)) ∧
    (hoistWordsOk (w 0) (w 1) (w 2) (w 3) = true → (s.core u).hoist.length < 16 →
      (w 0).getLsbD 55 = false ∨ (noVectorWork s ∧ NothingPosted s ∧ s.self.widening = false) →
      ∃ t t' r, exec (.hpush rs1) s = .next t ∧ Advances s t 4 ∧ exec (.hpusht rd rs1) s = .next t' ∧ WritesOnly s t' 4 rd 0 ∧
        (t.core u).hoist = (s.core u).hoist ++ [r] ∧ (t'.core u).hoist = (s.core u).hoist ++ [r] ∧ r.hart = s.cur ∧
        r.w0 = w 0 ∧ r.w1 = w 1 ∧ r.w2 = w 2 ∧ r.w3 = w 3 ∧ r.vlr = s.self.vec.vlr ∧ r.vlc = s.self.vec.vlc ∧ r.vty = s.self.vec.vty ∧
        r.progress = 0)) ∧
  (∀ (s : State) (rd rs1 rs2 mem : Reg), isVector s.cur = true → Writable s rd → Readable s rs1 → Readable s rs2 →
    let u := unitOf s.cur
    let l := (s.core u).hoist
    let mine := l.filter (fun r => r.hart = s.cur)
    (exec (.hqlen rd) s = .next ((s.wrote rd (BitVec.ofNat 64 (mine.length + 2 ^ 8 * l.length +
      (if mine.any (fun r => r.stopped.isSome) then 2 ^ 16 else 0)))).retired 4)) ∧
    (mem.toNat < 4 → s.self.fencing = none →
      ((∀ r ∈ l, drainCovers u mem.toNat (s.core u).nextReq r = false) → ∃ t, exec (.drain mem) s = .next t ∧ Advances s t 4) ∧
      ((∃ r ∈ l, drainCovers u mem.toNat (s.core u).nextReq r = true) → ∃ t, exec (.drain mem) s = .next t ∧ t.self.pc = s.self.pc ∧
        t.self.waiting = some (.drain mem.toNat (s.core u).nextReq))) ∧
    (∀ r : Phys, Reaches s .load (s.xval rs1).toNat 8 r → (s.xval rs1).toNat % 8 = 0 → r.host = false → OnlyPlainPosted s (sectorOf r.num) →
      heldByte s r.num 8 = none →
      ((s.xval rs2).toNat ≤ leNat (viewBytes s s.cur r.num 8) → ∃ t, exec (.cwait rs1 rs2) s = .next t ∧ Advances s t 4 ∧
        ∀ b, byteAt t b = byteAt s b) ∧
      (leNat (viewBytes s s.cur r.num 8) < (s.xval rs2).toNat → ∃ t, exec (.cwait rs1 rs2) s = .next t ∧ t.self.pc = s.self.pc ∧
        t.self.waiting = some (.counter (BitVec.ofNat 64 r.num) (s.xval rs2)))))

/-- 13 R332, 08 R184, R191, 15 R371: a long instruction that misuses a queue raises cause 28 with the queue's code; one whose source xa is empty
raises cause 24 with the register and its field where ta is set, and waits for the register where no t bit is; one whose register operands are
there reads the scalar registers of its X fields. A lane instruction, a compare, an instruction on predicates and one of the mask stack
within its bounds, whose operands are there and that finds the vector unit idle and no class enabled to trap, executes, retires and stores
nothing in memory. -/
def Obligations.VectorOperandChecks : Prop :=
  (∀ (s : State) (i : Instr) (f : LongFields) (k : LongSpec) (w : Nat) (run : VecEntry → M Unit), i.long? = some (f, k) → vecLegal s i w = true →
    (∀ c, queueMisuse i = some c → runM (vecIssue i w run) s = .next (takeTrap 28 (BitVec.ofNat 64 c) s)) ∧
    (queueMisuse i = none → k.a = .x → Empty s f.a → f.ta = true →
      runM (vecIssue i w run) s = .next (takeTrap 24 (BitVec.ofNat 64 (f.a.toNat + 2 ^ 5)) s)) ∧
    (queueMisuse i = none → k.a = .x → Empty s f.a → f.ta = false → f.tb = false → f.tc = false →
      runM (vecIssue i w run) s = .next (enterWait (.xreg f.a.toNat) s)) ∧
    (OperandsThere s i → operandsM i s = .ok (s.args i, s))) ∧
  (∀ (s : State) (i : Instr) (f : LongFields) (k : LongSpec) (op : LaneOp), i.long? = some (f, k) → laneOpOf i = some op →
    VecReady s i (op.width f) → NoArithTraps s → ∃ t, exec i s = .next t ∧ VecRetires s t) ∧
  (∀ (s : State) (f : LongFields),
    (∀ i ∈ [Instr.vmand f, .vmor f, .vmxor f, .vmandn f, .vmnot f, .vmsbf f, .vmpopc f, .vmfirst f, .vmmovToPredicate f, .vmmovToMask f],
      VecReady s i 1 → ∃ t, exec i s = .next t ∧ VecRetires s t) ∧
    (VecReady s (.vcmp f) (fmtBytes f.ty.toNat) → NoArithTraps s → ∃ t, exec (.vcmp f) s = .next t ∧ VecRetires s t) ∧
    (VecReady s (.vmpush f) 1 → s.self.vec.vmsp < 31 → ∃ t, exec (.vmpush f) s = .next t ∧ VecRetires s t) ∧
    (VecReady s (.vmelse f) 1 → 0 < s.self.vec.vmsp → ∃ t, exec (.vmelse f) s = .next t ∧ VecRetires s t) ∧
    (VecReady s (.vmpop f) 1 → 0 < s.self.vec.vmsp → ∃ t, exec (.vmpop f) s = .next t ∧ VecRetires s t))

/-- (1) 15 R382, R372, 12 R293: with their operands there, an idle vector unit and an empty result-reuse table, the 23 integer instructions of va, vb and vc
without sat and rep execute and write, into every ACTIVE element of vd, the exact
result modulo 2^(8w), and nothing else; they raise no flag. VADDI adds its immediate.
(2) 15 R382, 12 R293, 08 R189: under sat and without rep, with an idle vector unit, a result outside the signed range of the type becomes the nearest value of the range and sets the slot's
bit of vsat; others are exact. -/
def Obligations.VectorIntegerResults : Prop :=
  ((∀ e ∈ intElemTable, ∀ (s : State) (f : LongFields), f.rep = 0 → f.sat = false →
    let w := fmtBytes f.ty.toNat
    VecReady s (e.1 f) w → NoReuse s → NoArithTraps s →
    ∃ t, exec (e.1 f) s = .next t ∧ VectorOnly s t (e.1 f) f.d ∧ t.self.vec.vfflags = s.self.vec.vfflags ∧ t.self.vec.vsat = s.self.vec.vsat ∧
      ElementsBecome s t f.d w (s.active f) (fun i => wrapInt (8 * w) (e.2 (8 * w) (s.elem f.a w i) (s.elem f.b w i) (s.elem f.c w i)))) ∧
  (∀ (s : State) (f : LongFields), f.sat = false →
    let w := fmtBytes f.ty.toNat
    VecReady s (.vaddi f) w → NoReuse s → NoArithTraps s →
    ∃ t, exec (.vaddi f) s = .next t ∧ VectorOnly s t (.vaddi f) f.d ∧ t.self.vec.vfflags = s.self.vec.vfflags ∧ t.self.vec.vsat = s.self.vec.vsat ∧
      ElementsBecome s t f.d w (s.active f) (fun i => wrapInt (8 * w) (sintOf (8 * w) (s.elem f.a w i) + f.imm.toInt)))) ∧
  (∀ e ∈ satTable, ∀ (s : State) (f : LongFields), f.rep = 0 → f.sat = true →
    let w := fmtBytes f.ty.toNat
    let lo : Int := -(2 ^ (8 * w - 1) : Nat)
    let hi : Int := (2 ^ (8 * w - 1) : Nat) - 1
    let exact_ (i : Nat) : Int := e.2 (8 * w) (s.elem f.a w i) (s.elem f.b w i) (s.elem f.c w i)
    VecReady s (e.1 f) w → NoReuse s → NoArithTraps s →
    ∃ t, exec (e.1 f) s = .next t ∧ VectorOnly s t (e.1 f) f.d ∧
      ElementsBecome s t f.d w (s.active f) (fun i => wrapInt (8 * w) (max lo (min hi (exact_ i)))) ∧
      ∀ i, i < 1024 → (t.self.vec.vsat.getLsbD i = true ↔
        s.self.vec.vsat.getLsbD i = true ∨ (s.active f i = true ∧ (exact_ i < lo ∨ hi < exact_ i))))

/-- (1) 15 R383–R385, 11 R274: with their operands there, an idle vector unit, an empty result-reuse table and no class enabled to trap, the 21 floating
instructions without rep write the result of each ACTIVE element and gather its flags; so does VCVT, which
reads elements of its source's width and writes elements of its target's.
(2) 11 R275, 15 R374: where an element raises an enabled class, the instruction writes no register, keeps its flags and raises cause 30 with the lowest
enabled class that was raised and its lowest element. -/
def Obligations.VectorFloatResults : Prop :=
  ((∀ e ∈ floatElemTable, ∀ (s : State) (f : LongFields), f.rep = 0 →
    let w := fmtBytes f.ty.toNat
    let r (i : Nat) : FRes := e.2 f (s.rounding f) (s.elem f.a w i) (s.elem f.b w i) (s.elem f.c w i)
    VecReady s (e.1 f) w → NoReuse s → NoArithTraps s →
    ∃ t, exec (e.1 f) s = .next t ∧ VectorOnly s t (e.1 f) f.d ∧ ElementsBecome s t f.d w (s.active f) (fun i => (r i).bits) ∧
      FlagsGain s t (s.active f) r) ∧
  (∀ (s : State) (f : LongFields),
    let src := (cvtFormats f).1
    let dst := (cvtFormats f).2
    let r (i : Nat) : FRes := convert src dst (s.rounding f) f.sat (sintOf 8 (s.args (.vcvt f)).b.toNat) (s.elem f.a (fmtBytes src) i)
    VecReady s (.vcvt f) (max (fmtBytes src) (fmtBytes dst)) → NoReuse s → NoArithTraps s →
    ∃ t, exec (.vcvt f) s = .next t ∧ VectorOnly s t (.vcvt f) f.d ∧ ElementsBecome s t f.d (fmtBytes dst) (s.active f) (fun i => (r i).bits) ∧
      FlagsGain s t (s.active f) r)) ∧
  (∀ e ∈ floatElemTable, ∀ (s : State) (f : LongFields) (k i : Nat), f.rep = 0 →
    let w := fmtBytes f.ty.toNat
    let r (j : Nat) : FRes := e.2 f (s.rounding f) (s.elem f.a w j) (s.elem f.b w j) (s.elem f.c w j)
    let raises (k j : Nat) : Prop := s.active f j = true ∧ bitOf (r j).flags k = true
    VecReady s (e.1 f) w → NoReuse s → k < 5 → bitOf s.self.vec.enabled k = true → raises k i → (∀ j, j < i → ¬ raises k j) →
    (∀ c, c < k → bitOf s.self.vec.enabled c = true → ∀ j, ¬ raises c j) →
    ∃ s', exec (e.1 f) s = .next (takeTrap 30 (BitVec.ofNat 64 (k + i * 2 ^ 8)) s') ∧ s'.self.vec.v = s.self.vec.v ∧
      s'.self.pc = s.self.pc ∧ FlagsGain s { s' with cur := s.cur } (s.active f) (fun j => { r j with sat := false }))

/-- (1) 15 R378, R379: with their operands there, an idle vector unit and an empty result-reuse table, the moves and permutes execute and write the
elements that the manual gives: VINS its one named slot, the others every ACTIVE element, and none of them another register.
(2) 15 R378, R380: with their operands there, an idle vector unit and an empty result-reuse table, VEXT extracts the named element, sign-extended for
an integer type, or 0 outside the lengths, and VHASH writes the CRC-64 of 08 R205; no other x register, no vector register and no byte of
memory changes.
(3) 15 R390: with its operands there, an idle vector unit and an empty result-reuse table, an integer reduction without sat executes and writes its value over all ACTIVE elements into element 0, or over each row's into the row's first
element, with the identity for none, and keeps every other element. -/
def Obligations.VectorMovesAndReductions : Prop :=
  (∀ (s : State) (f : LongFields),
    let w := fmtBytes f.ty.toNat
    let pos (i : Nat) : Nat := if f.ax then i / 32 else i / 32 * s.self.vec.vlc + i % 32
    let before (i k : Nat) : Bool := if f.ax then k % 32 = i % 32 && decide (k / 32 < i / 32) else decide (k < i)
    (∀ e ∈ [(Instr.vmv f, s.elem f.a w), (.vbcast f, fun _ => (s.args (.vbcast f)).a.toNat),
        (.vsel f, fun i => if (s.self.vec.getP f.c.toNat).getLsbD i then s.elem f.a w i else s.elem f.b w i),
        (.viota f, fun i => ((List.range 1024).filter (fun k => s.active f k && before i k)).length),
        (.vslide f, fun i => s.axisAt f.a f.ax w i ((pos i : Int) - (s.args (.vslide f)).b.toInt)),
        (.vshuf f, fun i => s.axisAt f.a f.ax w i (s.elem f.b w i)),
        (.vtrn f, fun i => if i % 32 < s.self.vec.vlr ∧ i / 32 < s.self.vec.vlc then s.elem f.a w (i % 32 * 32 + i / 32) else 0)],
      VecReady s e.1 w → NoReuse s → NoArithTraps s →
      ∃ t, exec e.1 s = .next t ∧ VectorOnly s t e.1 f.d ∧ ElementsBecome s t f.d w (s.active f) e.2) ∧
    (VecReady s (.vins f) w → NoReuse s → NoArithTraps s →
      ∃ t, exec (.vins f) s = .next t ∧ VectorOnly s t (.vins f) f.d ∧
        ElementsBecome s t f.d w (fun i => decide (i = (s.args (.vins f)).b.toNat) && s.inLengths i && decide (i < 1024))
          (fun _ => (s.args (.vins f)).a.toNat))) ∧
  (∀ (s : State) (f : LongFields),
    let w := fmtBytes f.ty.toNat
    let v := s.self.vec
    let i := (s.args (.vext f)).b.toNat
    ∀ e ∈ [(Instr.vext f, if i < 1024 ∧ s.inLengths i = true then
        (if f.ty.toNat < 4 then sextW (8 * w) (s.elem f.a w i) else BitVec.ofNat 64 (s.elem f.a w i)) else 0),
        (.vhash f, BitVec.ofNat 64 (crc64 ([f.ty.toNat, v.vlr, v.vlc, 0] ++ (slotsIn v.vlr v.vlc).flatMap (fun i =>
          (List.range w).map (fun b => s.elem f.a w i / 2 ^ (8 * b) % 256)))))],
      VecReady s e.1 w → NoReuse s → NoArithTraps s →
      ∃ t, exec e.1 s = .next t ∧ t.self.pc = s.self.pc + 8 ∧ t.self.vec.v = v.v ∧ (f.d ≠ 0 → t.self.getX f.d.toNat = e.2) ∧
        (∀ q, q ≠ f.d.toNat → t.self.getX q = s.self.getX q) ∧ ∀ b, byteAt t b = byteAt s b) ∧
  (∀ e ∈ reduceTable, ∀ (s : State) (f : LongFields), f.ty.toNat < 4 → f.sat = false →
    let w := fmtBytes f.ty.toNat
    let row (r : Nat) := s.activeElems f w ((List.range 32).map (r * 32 + ·))
    VecReady s (e.1 f) w → NoReuse s → NoArithTraps s →
    ∃ t, exec (e.1 f) s = .next t ∧ VectorOnly s t (e.1 f) f.d ∧
      ElementsBecome s t f.d w (fun i => if f.ax then i % 32 = 0 && decide (i / 32 < s.self.vec.vlr) else i = 0)
        (fun i => wrapInt (8 * w) (e.2 (8 * w) (if f.ax then row (i / 32) else s.activeElems f w (List.range 1024)))))

/-- (1) 15 R386, 13 R328: VCMP of an integer type writes the condition of each ACTIVE slot into pd, and 0 elsewhere; of a floating type it writes the
condition of the encoded values, and raises NV where an ACTIVE element of either source is a signaling NaN, or in an ordered relation any
NaN. No vector register, no predicate but pd and p0 and no byte of memory changes.
(2) 15 R387, R389: with an idle vector unit, predicate logic acts on all 1,024 bits, VMSBF, VMPOPC and VMFIRST on the slots inside the lengths, and
VMMOV copies a mask into a predicate or a predicate into a mask; each changes its destination alone, and no byte of memory.
(3) 15 R388: with an idle vector unit, VMPUSH below the stack's bound pushes the old top and p[a], VMELSE above its foot replaces the top by the
entry below without it, and VMPOP drops the top; the entries above keep their contents, and no byte of memory changes. -/
def Obligations.ComparesAndMasks : Prop :=
  (∀ (s : State) (f : LongFields),
    let w := fmtBytes f.ty.toNat
    let x (i : Nat) := decodeF f.ty.toNat (s.elem f.a w i)
    let y (i : Nat) := decodeF f.ty.toNat (s.elem f.b w i)
    let ordered : Bool := decide (2 ≤ f.imm.toNat) && decide (f.imm.toNat < 6)
    VecReady s (.vcmp f) w → NoArithTraps s →
    ∃ t, exec (.vcmp f) s = .next t ∧ t.self.pc = s.self.pc + 8 ∧ t.self.vec.v = s.self.vec.v ∧ (∀ b, byteAt t b = byteAt s b) ∧
      (∀ k, k ≠ f.d.toNat → k ≠ 0 → t.self.vec.getP k = s.self.vec.getP k) ∧
      (f.ty.toNat < 4 → ∀ i, i < 1024 → ((t.self.vec.getP f.d.toNat).getLsbD i = true ↔
        s.active f i = true ∧ intCondition f.imm.toNat (8 * w) (s.elem f.a w i) (s.elem f.b w i))) ∧
      (4 ≤ f.ty.toNat → ∀ i, i < 1024 → ((t.self.vec.getP f.d.toNat).getLsbD i = true ↔
        s.active f i = true ∧ (compareElems f.ty.toNat f.imm.toNat (s.elem f.a w i) (s.elem f.b w i)).1 = true)) ∧
      (t.self.vec.vfflags.getLsbD 4 = true ↔ s.self.vec.vfflags.getLsbD 4 = true ∨ (4 ≤ f.ty.toNat ∧ ∃ i, i < 1024 ∧ s.active f i = true ∧
        ((x i).snan = true ∨ (y i).snan = true ∨ (ordered = true ∧ ((x i).isNaN = true ∨ (y i).isNaN = true)))))) ∧
  (∀ (s : State) (f : LongFields),
    let v := s.self.vec
    let pa := v.getP f.a.toNat
    let pb := v.getP f.b.toNat
    let first : Option Nat := (List.range 1024).find? (fun i => s.inLengths i && pa.getLsbD i)
    (∀ e ∈ [(Instr.vmand f, v.setP f.d.toNat (pa &&& pb)), (.vmor f, v.setP f.d.toNat (pa ||| pb)), (.vmxor f, v.setP f.d.toNat (pa ^^^ pb)),
        (.vmandn f, v.setP f.d.toNat (pa &&& ~~~ pb)), (.vmnot f, v.setP f.d.toNat (~~~ pa)),
        (.vmmovToPredicate f, v.setP f.d.toNat (v.getMask f.imm.toNat)), (.vmmovToMask f, v.setMask f.imm.toNat pa)],
      VecReady s e.1 1 → ∃ t, exec e.1 s = .next t ∧ t.self.pc = s.self.pc + 8 ∧ t.self.vec = e.2 ∧ ∀ b, byteAt t b = byteAt s b) ∧
    (VecReady s (.vmsbf f) 1 → ∃ t m, exec (.vmsbf f) s = .next t ∧ t.self.pc = s.self.pc + 8 ∧ t.self.vec = v.setP f.d.toNat m ∧
      (∀ i, i < 1024 → (m.getLsbD i = true ↔ s.inLengths i = true ∧ ∀ j, j ≤ i → s.inLengths j = true → pa.getLsbD j = false)) ∧
      ∀ b, byteAt t b = byteAt s b) ∧
    ∀ e ∈ [(Instr.vmpopc f, BitVec.ofNat 64 ((List.range 1024).filter (fun i => s.inLengths i && pa.getLsbD i)).length),
        (.vmfirst f, match first with | some i => BitVec.ofNat 64 i | none => BitVec.allOnes 64)],
      VecReady s e.1 1 → ∃ t, exec e.1 s = .next t ∧ t.self.pc = s.self.pc + 8 ∧ t.self.vec = v ∧ (f.d ≠ 0 → t.self.getX f.d.toNat = e.2) ∧
        ∀ b, byteAt t b = byteAt s b) ∧
  (∀ (s : State) (f : LongFields),
    let v := s.self.vec
    (v.vmsp < 31 → VecReady s (.vmpush f) 1 → ∃ t, exec (.vmpush f) s = .next t ∧ t.self.pc = s.self.pc + 8 ∧
      t.self.vec = { v with stack := tblSet v.stack (v.vmsp + 1) (v.getP 0 &&& v.getP f.a.toNat), vmsp := v.vmsp + 1 } ∧
      ∀ b, byteAt t b = byteAt s b) ∧
    (0 < v.vmsp → VecReady s (.vmelse f) 1 → ∃ t, exec (.vmelse f) s = .next t ∧ t.self.pc = s.self.pc + 8 ∧
      t.self.vec = { v with stack := tblSet v.stack v.vmsp (tblGet 0 v.stack (v.vmsp - 1) &&& ~~~ v.getP 0) } ∧
      ∀ b, byteAt t b = byteAt s b) ∧
    (0 < v.vmsp → VecReady s (.vmpop f) 1 → ∃ t, exec (.vmpop f) s = .next t ∧ t.self.pc = s.self.pc + 8 ∧
      t.self.vec = { v with vmsp := v.vmsp - 1 } ∧ ∀ b, byteAt t b = byteAt s b))

/-- 11 R276: VMPUSH with vmsp = 31, and VMELSE or VMPOP with vmsp = 0, raise cause 25 and have no effect; stval holds 1 for overflow and 0 for
underflow in bit 0, and vmsp in [12:8]. -/
def Obligations.MaskStackBounds : Prop :=
  ∀ (s : State) (f : LongFields),
    (s.self.vec.vmsp = 31 → VecReady s (.vmpush f) 1 → exec (.vmpush f) s = .next (takeTrap 25 (1 + 31 * 2 ^ 8) s)) ∧
    (s.self.vec.vmsp = 0 → VecReady s (.vmelse f) 1 → exec (.vmelse f) s = .next (takeTrap 25 0 s)) ∧
    (s.self.vec.vmsp = 0 → VecReady s (.vmpop f) 1 → exec (.vmpop f) s = .next (takeTrap 25 0 s))

/-- 15 R376, R377: a legal SETVL with its operands there grants min(x[a], 32) columns and min(x[b], 32 / w) rows, writes them with its type and
answers them, or answers 0 and writes no length for an empty grant; with a pre-emption pending outside a trap handler it raises cause 31
instead. -/
def Obligations.SetLengths : Prop :=
  ∀ (s : State) (f : LongFields), vecLegal s (.setvl f) 1 = true → OperandsThere s (.setvl f) →
    let gc := min (s.xval f.a).toNat 32
    let gr := min (s.xval f.b).toNat (32 / fmtBytes f.ty.toNat)
    let armed := s.self.kstat.pend && !s.self.kstat.hnd
    (armed = true → exec (.setvl f) s = .next (takeTrap 31 0 s)) ∧
    (armed = false → gc = 0 ∨ gr = 0 → exec (.setvl f) s = .next ((s.wrote f.d 0).retired 8)) ∧
    (armed = false → gc ≠ 0 → gr ≠ 0 → exec (.setvl f) s =
      .next (((s.modHart s.cur (fun h => { h with vec := { h.vec with vlc := gc, vlr := gr, vty := f.ty } })).wrote f.d
        (BitVec.ofNat 64 (gr * 2 ^ 32 + gc))).retired 8))

/-- (1) 08 R195, 15 R371, 11 R271: a lane instruction with its operands there that finds the queue or the lanes busy takes a place in the queue of 8,
with its lengths, type and scalars captured, and retires; one that names a queue or may trap takes its place there too, but its context waits
and retires when it executes; a full queue makes it wait. VECTOR_EXECUTE executes the head with what it captured, and the rest stays.
(2) 08 R200–R204: an eligible step of a lane instruction with a vector result, outside a program buffer, whose lookup key is in the result-reuse table, with no flag of an enabled
class, takes the stored result in one lane cycle and counts a lookup and a hit; one whose key is not there executes, counts a lookup, and
enters its result as the most recently used. -/
def Obligations.VectorQueueingAndReuse : Prop :=
  ((∀ (s : State) (i : Instr) (f : LongFields) (k : LongSpec) (op : LaneOp), i.long? = some (f, k) → laneOpOf i = some op →
    vecLegal s i (op.width f) = true → OperandsThere s i →
    let u := unitOf s.cur
    (s.core u).vq ≠ [] ∨ s.now < startAt s s.cur i →
    (8 ≤ (s.core u).vq.length → exec i s = .next (enterWait .vecRoom s)) ∧
    ((s.core u).vq.length < 8 → ∃ t e, exec i s = .next t ∧ (t.core u).vq = (s.core u).vq ++ [e] ∧
      e.hart = s.cur ∧ e.instr = i ∧ e.vlc = s.self.vec.vlc ∧ e.vlr = s.self.vec.vlr ∧ e.vty = s.self.vec.vty ∧
      e.sa = (s.args i).a ∧ e.sb = (s.args i).b ∧ t.self.vec = s.self.vec ∧
      (usesQueue i = true ∨ mayTrap s s.cur i = true → e.held = true ∧ t.self.waiting = some .vecHeld ∧ t.self.pc = s.self.pc) ∧
      (usesQueue i = false → mayTrap s s.cur i = false → e.held = false ∧ t.self.pc = s.self.pc + 8))) ∧
  (∀ (s : State) (u : Nat) (e : VecEntry) (rest : List VecEntry) (f : LongFields) (k : LongSpec) (op : LaneOp), (s.core u).vq = e :: rest →
    unitOf e.hart = u → e.held = false → startAt s e.hart e.instr ≤ s.now → (s.core u).failingLanes = [] → (s.core u).parity = [] →
    (s.core u).reuse = [] → (s.hart e.hart).vec.failing = [] → (s.hart e.hart).vec.enabled = 0 → e.instr.long? = some (f, k) →
    laneOpOf e.instr = some op → op.scalar = false → f.rep = 0 →
    ∃ t, exec (.vectorExecute u) s = .next t ∧ (t.core u).vq = rest ∧ (t.hart e.hart).pc = (s.hart e.hart).pc ∧
      (t.hart e.hart).vec.getV f.d.toNat =
        BitVec.ofNat 8192 (op.step (laneIn k op e f 0 (s.hart e.hart).vec (s.hart e.hart).vec)).value)) ∧
  (∀ (s : State) (i : Instr) (f : LongFields) (k : LongSpec) (op : LaneOp) (e : VecEntry), i.long? = some (f, k) → op.scalar = false →
    let u := unitOf e.hart
    let v := (s.hart e.hart).vec
    let key := reuseKey k op e f 0 v v (laneIn k op e f 0 v v)
    let a := laneStep i k f op e v 0 { s := s }
    reuseEligible i k f v = true → programRuns s u = false →
    (∀ r, (s.core u).reuse.find? (fun r => r.key = key && r.flags.toNat &&& v.enabled = 0) = some r → a.cycles = 1 ∧ (a.s.hart e.hart).vec.getV f.d.toNat = r.result ∧
      (a.s.hart e.hart).vec.vrlook = v.vrlook + 1 ∧ (a.s.hart e.hart).vec.vrhit = v.vrhit + 1) ∧
    ((s.core u).reuse.find? (fun r => r.key = key && r.flags.toNat &&& v.enabled = 0) = none →
      (a.s.hart e.hart).vec.vrlook = v.vrlook + 1 ∧ (a.s.hart e.hart).vec.vrhit = v.vrhit ∧
      (a.s.hart e.hart).vec.getV f.d.toNat = BitVec.ofNat 8192 (op.step (laneIn k op e f 0 v v)).value ∧
      ∃ r l, (a.s.core u).reuse = r :: l ∧ r.key = key ∧ r.result = (a.s.hart e.hart).vec.getV f.d.toNat))

/-- 13 R324: the byte offset of a memory instruction is sext({imm6, c}) × 16, a multiple of 16 from −16,384 to 16,368; of VST with nt = 1 it is
sext(imm6) × 512, from −16,384 to 15,872, and c names its progress-word register; the row stride of a strided one is the low 48 bits of x[b],
sign-extended. An instruction that may issue at once issues with these; VSAVE and VRSTR put their offset to their base in the same way. -/
def Obligations.MemoryOffsetsAndStride : Prop :=
  (∀ f : LongFields, memOffset f false = (f.imm ++ f.c : BitVec 11).signExtend 64 * 16 ∧ memOffset f true = f.imm.signExtend 64 * 512 ∧
    -16384 ≤ (memOffset f false).toInt ∧ (memOffset f false).toInt ≤ 16368 ∧
    -16384 ≤ (memOffset f true).toInt ∧ (memOffset f true).toInt ≤ 15872) ∧
  (∀ e ∈ memTable, ∀ (s : State) (f : LongFields), MemReady s (e.1 f) e.2 f →
    ∃ x xs, memIssue (e.1 f) e.2 f s = .ok ((x, xs), s) ∧ x = s.memIn (e.1 f) e.2 f ∧
      x.base = s.xval f.a + memOffset f (e.2 = .store && f.nt) ∧
      (e.2.indexed = false → x.stride = ((s.xval f.b).truncate 48 : BitVec 48).signExtend 64) ∧
      (e.2 = .store → f.nt = true → xs.c = s.xval f.c)) ∧
  (∀ (s s' : State) (f : LongFields) (a : MemAcc) (l : List Spot),
    (wholeReg (.vsave f) f .store s = .ok ((a, l), s') → a.addr = (s.xval f.a + memOffset f false).toNat) ∧
    (wholeReg (.vrstr f) f .load s = .ok ((a, l), s') → a.addr = (s.xval f.a + memOffset f false).toNat))

/-- (1) 16 R392, R395, R396, 00 R8, 11 R273: the elements of a memory instruction are the ACTIVE ones, or those that vflt marks when it resumes; element
(r, col) of a strided one has the address base + r × stride + col × u, of an indexed one base + the signed 32-bit element of the index group, which
does not go past v15.
(2) 16 R399–R401, 11 R272, 08 R193: VLD, VGATHER and VLDFF from device memory or a local memory complete when no element faults: into a register,
where each element becomes what its context sees at its address and no other register changes, or as a new entry of a queue with room. With a
fault the register form takes the lowest one and marks the faulting elements; VLDFF with an element below its first fault instead ends before it,
retires, and clears the bits of the elements from there on in p0.
(3) 16 R402, R403, R394, R398, 10 R262: VST and VSCATTER store the data of their elements that do not fault, the last one at each byte: their context
reads the stored bytes there and every other byte of global memory and of its core's local memories as before, and the packets for other cores'
scratch are posted. Without a fault they retire, with faults they take the lowest. VST with nt and without a fault posts, for each row with
ACTIVE elements, one add of their number to its progress word. The paths to other devices' memory are assumed up. -/
def Obligations.VectorMemoryTransfers : Prop :=
  (∀ e ∈ memTable, ∀ (s : State) (f : LongFields), MemReady s (e.1 f) e.2 f →
    let x := s.memIn (e.1 f) e.2 f
    (∀ i, i < 1024 → (i ∈ x.slots ↔ (if s.self.resuming then s.self.vec.vflt.getLsbD i else s.active f i) = true)) ∧
    (∀ i, i < 1024 → x.addrOf s.self.vec i =
      (x.base + (if e.2.indexed then
          (if f.b.toNat < 16 then sext32 (BitVec.ofNat 32 (elemAt (s.self.vec.getV (f.b.toNat + i / 256)).toNat 4 (i % 256)))
           else sext32 (BitVec.ofNat 32 (s.elem f.b 4 (i % 256))))
        else BitVec.ofNat 64 (i / 32) * x.stride + BitVec.ofNat 64 (i % 32 * (if e.2 = .acc then 16 else fmtBytes f.ty.toNat)))).toNat) ∧
    (e.2.indexed = true → f.b.toNat < 16 → s.self.resuming = false → f.b.toNat + (s.self.vec.vlr + 7) / 8 ≤ 16)) ∧
  ((∀ e ∈ [(Instr.vld, MemKind.load), (.vgather, .gather), (.vldff, .loadFF)], ∀ (s : State) (f : LongFields),
    let x := s.memIn (e.1 f) e.2 f
    let l := s.reached x
    MemReady s (e.1 f) e.2 f → NoReuse s → InDevice l →
    (faultsOf l = [] → f.d.toNat < 16 → ∃ t, exec (e.1 f) s = .next t ∧ MemRetires s t ∧ LoadsElements s t f x (okSpots l)) ∧
    (faultsOf l = [] → 16 ≤ f.d.toNat → f.b ≠ f.d → s.self.resuming = false →
      (s.self.vec.getQ (f.d.toNat - 16)).length < queueDepth (f.d.toNat - 16) →
      ∃ t q, exec (e.1 f) s = .next t ∧ MemRetires s t ∧ (∀ b, byteAt t b = byteAt s b) ∧
        t.self.vec.getQ (f.d.toNat - 16) = s.self.vec.getQ (f.d.toNat - 16) ++ [q] ∧ q.complete = true ∧
        ∀ a ps, (a, ps) ∈ okSpots l → elemAt q.data.toNat x.w (a.slots.headD 0) = loadedElem x a (spotsValue s s.cur ps)) ∧
    (∀ bad c a, (bad, c, a) ∈ faultsOf l → f.d.toNat < 16 → (∀ g ∈ faultsOf l, bad.headD 0 ≤ g.1.headD 0) →
      (e.2 = .loadFF → ∀ r ∈ l, bad.headD 0 ≤ r.1.slots.headD 0) →
      ∃ t, exec (e.1 f) s = .next (takeTrap c (BitVec.ofNat 64 a) t) ∧ MemFaults s t (faultsOf l) ∧ LoadsElements s t f x (okSpots l))) ∧
  (∀ (s : State) (f : LongFields) (first : Nat),
    let x := s.memIn (.vldff f) .loadFF f
    let l := s.reached x
    MemReady s (.vldff f) .loadFF f → NoReuse s → InDevice l → f.d.toNat < 16 → (∃ g ∈ faultsOf l, g.1.headD 0 = first) →
    (∀ g ∈ faultsOf l, first ≤ g.1.headD 0) → (∃ r ∈ l, r.1.slots.headD 0 < first) →
    ∃ t, exec (.vldff f) s = .next t ∧ MemRetires s t ∧
      LoadsElements s t f x (okSpots (l.filter (fun r => r.1.slots.headD 0 < first))) ∧
      ∀ i, i < 1024 → (t.self.vec.getP 0).getLsbD i = ((s.self.vec.getP 0).getLsbD i && !(decide (i ∈ x.slots) && decide (first ≤ i))))) ∧
  ((∀ e ∈ [(Instr.vst, MemKind.store), (.vscatter, .scatter)], ∀ (s : State) (f : LongFields),
    let x := s.memIn (e.1 f) e.2 f
    let l := s.reached x
    let cells := storeCells x (dataValue s.self.vec f.d.toNat) (okSpots l)
    MemReady s (e.1 f) e.2 f → f.nt = false → PathsUp s l →
    (faultsOf l = [] → ∃ t, exec (e.1 f) s = .next t ∧ MemRetires s t ∧ StoresCells s t cells) ∧
    (∀ bad c a, (bad, c, a) ∈ faultsOf l → (∀ g ∈ faultsOf l, g ≠ (bad, c, a) → bad.headD 0 < g.1.headD 0) →
      ∃ t, exec (e.1 f) s = .next (takeTrap c (BitVec.ofNat 64 a) t) ∧ MemFaults s t (faultsOf l) ∧ StoresCells s t cells)) ∧
  (∀ (s : State) (f : LongFields) (p : Phys),
    let word := (s.args (.vst f)).c.toNat
    let x := s.memIn (.vst f) .store f
    let l := (s.looked .store word 8).reached x
    MemReady s (.vst f) .store f → f.nt = true → s.self.resuming = false → word % 8 = 0 → windowRange word = false →
    (∃ e, translateHart s s.cur .store word 8 = .ok (p, e)) → strictCtx s s.cur = false → faultsOf l = [] → PathsUp s l →
    ∃ t, exec (.vst f) s = .next t ∧ MemRetires s t ∧ StoresCells s t (storeCells x (dataValue s.self.vec f.d.toNat) (okSpots l)) ∧
      t.ownPosted.filterMap (fun o => match o with
        | .progress a n _ _ => some (a, n)
        | _ => none) =
      ((List.range 32).map (fun r => (p.num, (x.slots.filter (fun i => i / 32 = r)).length))).filter (fun e => e.2 ≠ 0)))

/-- (1) 16 R404–R407, 12 R316, R317: without a fault VRRED, VAMOADD and VLDACC retire. With at most 64 elements, and every byte of memory as before, VRRED
has then posted the A128 contribution of each element whose value has one, and VAMOADD one add for each element in global memory; in the core's
own scratch VAMOADD has added each element to its place. VLDACC has rounded the accumulator of each element into its register.
(2) 15 R381: VSAVE stores the 1,024 bytes of v[d] to consecutive places, VRSTR loads v[d] from there; neither looks at the lengths or at a mask. A fault of
the translation of any byte stops either with that byte's cause and address, before any byte of memory or register is written.
(3) 16 R408, 10 R248: a SAMO at an aligned address in device memory, whose release (where it is one) has a scope that takes in the destination's class, or
in the core's own scratch, performs its access and retires: LOAD puts the value and an atomic the old value, sign-extended, in flight towards xd;
an atomic stores its new value, and STORE its operand, at once or as a posted access. An atomic in host memory takes cause 7; a misaligned address
takes cause 6, and 4 for LOAD. -/
def Obligations.VectorMemoryUpdates : Prop :=
  ((∀ (s : State) (f : LongFields),
    let x := s.memIn (.vrred f) .red f
    let l := s.reached x
    MemReady s (.vrred f) .red f → faultsOf l = [] → NoArithTraps s →
    ∃ t, exec (.vrred f) s = .next t ∧ MemRetires s t ∧ ((okSpots l).length ≤ 64 → (∀ b, byteAt t b = byteAt s b) ∧
      t.ownPosted = (okSpots l).filterMap (fun e =>
        match e.2.head?, (contribution f.ty.toNat (s.elem f.d x.w (e.1.slots.headD 0))).1 with
        | some p, some n => some (.contribute p.pos (BitVec.ofNat 128 n))
        | _, _ => none))) ∧
  (∀ (s : State) (f : LongFields),
    let x := s.memIn (.vamoadd f) .add f
    let l := s.reached x
    let u := unitOf s.cur
    MemReady s (.vamoadd f) .add f → faultsOf l = [] →
    ∃ t, exec (.vamoadd f) s = .next t ∧ MemRetires s t ∧
      (s.self.vec.vmt = 0 → (okSpots l).length ≤ 64 → (∀ b, byteAt t b = byteAt s b) ∧
        t.ownPosted = (okSpots l).filterMap (fun e =>
          e.2.head?.map (fun p => .fadd p.pos f.ty (BitVec.ofNat 64 (s.elem f.d x.w (e.1.slots.headD 0)))))) ∧
      (s.self.vec.vmt = 1 → ((okSpots l).map (fun e => e.2.head?)).Nodup → (∀ b, byteAt t b = byteAt s b) ∧
        (∀ a p ps, (a, p :: ps) ∈ okSpots l → memRead (t.core u).scratch p.pos x.w =
          elemAdd f.ty (memRead (s.core u).scratch p.pos x.w) (s.elem f.d x.w (a.slots.headD 0)) % 2 ^ (8 * x.w)) ∧
        ∀ b, (∀ a ps, (a, ps) ∈ okSpots l → ∀ p ∈ ps, p.pos ≠ b) → memGet (t.core u).scratch b = memGet (s.core u).scratch b)) ∧
  (∀ (s : State) (f : LongFields),
    let x := s.memIn (.vldacc f) .acc f
    let l := s.reached x
    MemReady s (.vldacc f) .acc f → faultsOf l = [] → InDevice l → NoArithTraps s → f.d.toNat < 16 →
    ∃ t, exec (.vldacc f) s = .next t ∧ MemRetires s t ∧ (∀ b, byteAt t b = byteAt s b) ∧
      (∀ a ps, (a, ps) ∈ okSpots l → t.elem f.d x.w (a.slots.headD 0) =
        (accTo f.ty.toNat (s.rounding f) (sintOf 128 (spotsValue s s.cur ps))
          (if s.self.vec.vmt = 5 then accExponent s (unitOf s.cur) a.addr else -64)).bits % 2 ^ (8 * x.w)) ∧
      ∀ i, i < 1024 / x.w → i ∉ x.slots → t.elem f.d x.w i = s.elem f.d x.w i)) ∧
  (∀ (s : State) (f : LongFields),
    let va := (s.xval f.a + memOffset f false).toNat
    (WholeReady s (.vsave f) → s.self.vec.vmt ≠ 5 →
      (∀ l, s.wholePlaces .store va = .ok l → ∃ t, exec (.vsave f) s = .next t ∧ t.cur = s.cur ∧ t.self.pc = s.self.pc + 8 ∧
        t.self.vec.v = s.self.vec.v ∧ StoresCells s t (l.zip (leBytes 1024 (s.self.vec.getV f.d.toNat).toNat))) ∧
      (∀ c a, s.wholePlaces .store va = .error (c, a) → ∃ t, exec (.vsave f) s = .next (takeTrap c (BitVec.ofNat 64 a) t) ∧
        SameBytes s t ∧ t.self.vec.v = s.self.vec.v ∧ t.self.pc = s.self.pc)) ∧
    (WholeReady s (.vrstr f) → s.self.vec.vmt ≠ 5 → s.self.vec.vmt ≠ 3 →
      (∀ l, s.wholePlaces .load va = .ok l → (∀ p ∈ l, p.space = 0 → isHostNum p.pos = false) →
        ∃ t, exec (.vrstr f) s = .next t ∧ t.cur = s.cur ∧ t.self.pc = s.self.pc + 8 ∧ (∀ b, byteAt t b = byteAt s b) ∧
          (∀ i (h : i < l.length), elemAt (t.self.vec.getV f.d.toNat).toNat 1 i = (spotByte s s.cur l[i]).toNat) ∧
          ∀ r, r ≠ f.d.toNat → t.self.vec.getV r = s.self.vec.getV r) ∧
      (∀ c a, s.wholePlaces .load va = .error (c, a) → ∃ t, exec (.vrstr f) s = .next (takeTrap c (BitVec.ofNat 64 a) t) ∧
        SameBytes s t ∧ t.self.vec.v = s.self.vec.v ∧ t.self.pc = s.self.pc))) ∧
  (∀ (s : State) (f : LongFields),
    let n := 2 ^ f.ty.toNat
    let u := unitOf s.cur
    (let va := (s.args (.samoLoad f)).a
     SamoReady s (.samoLoad f) →
      (va.toNat % n ≠ 0 → exec (.samoLoad f) s = .next (takeTrap 4 va s)) ∧
      (∀ r, va.toNat % n = 0 → Reaches s .load va.toNat n r → r.host = false → heldByte s r.num n = none →
        ∃ t, exec (.samoLoad f) s = .next t ∧ Advances s t 8 ∧
          InFlight s t f.d (sextW (8 * n) (leNat (viewBytes s s.cur r.num n))) ∧ ∀ b, byteAt t b = byteAt s b) ∧
      (∀ off, ReachesLocal s va.toNat n (.scratch off) → BankOpen s u off → WordsWhole s →
        ∃ t, exec (.samoLoad f) s = .next t ∧ Advances s t 8 ∧
          InFlight s t f.d (sextW (8 * n) (memRead (s.core u).scratch off n)) ∧ ∀ b, byteAt t b = byteAt s b)) ∧
    (let va := (s.args (.samoStore f)).a
     let data := leBytes n (s.args (.samoStore f)).b.toNat
     SamoReady s (.samoStore f) →
      (va.toNat % n ≠ 0 → exec (.samoStore f) s = .next (takeTrap 6 va s)) ∧
      (∀ r, va.toNat % n = 0 → Reaches s .store va.toNat n r → heldByte s r.num n = none → bufferFull s u = false →
        (samoReleases f = true → (scopeClasses (samoScope f)).getLsbD (classOf s u r (partOfHart s s.cur)) = true) →
        ∃ t, exec (.samoStore f) s = .next t ∧ Advances s t 8 ∧
          (StoresOnly s t r.num data ∨
            ((∀ b, byteAt t b = byteAt s b) ∧ PostedOp.bytes (cellsAt r.num data) ∈ t.ownPosted))) ∧
      (∀ off, ReachesLocal s va.toNat n (.scratch off) → BankOpen s u off → WordsWhole s →
        ∃ t, exec (.samoStore f) s = .next t ∧ Advances s t 8 ∧
          LocalStores (s.core u).scratch (t.core u).scratch off data ∧ ∀ b, byteAt t b = byteAt s b)) ∧
    (∀ e ∈ samoTable,
      let x := s.args (e.1 f)
      let new (old : Nat) := leBytes n (e.2 (8 * n) old (x.b.toNat % 2 ^ (8 * n)) (x.c.toNat % 2 ^ (8 * n)))
      SamoReady s (e.1 f) →
      (x.a.toNat % n ≠ 0 → exec (e.1 f) s = .next (takeTrap 6 x.a s)) ∧
      (∀ r, x.a.toNat % n = 0 → Reaches s .store x.a.toNat n r → r.host = false → (isRemote r.pa = true → pathUp s r.pa = true) →
        heldByte s r.num n = none → ovfSlice s (partOfHart s s.cur) (sectorOf r.num) = none →
        (samoReleases f = true → (scopeClasses (samoScope f)).getLsbD (classOf s u r (partOfHart s s.cur)) = true) →
        ∃ t, exec (e.1 f) s = .next t ∧ Advances s t 8 ∧ InFlight s t f.d (sextW (8 * n) (gRead s r.num n)) ∧
          StoresOnly s t r.num (new (gRead s r.num n))) ∧
      (∀ r, x.a.toNat % n = 0 → Reaches s .store x.a.toNat n r → r.host = true → (samoReleases f = true → strictCtx s s.cur = false) →
        ∃ t, exec (e.1 f) s = .next (takeTrap 7 x.a t) ∧ ∀ b, byteAt t b = byteAt s b) ∧
      (∀ off, ReachesLocal s x.a.toNat n (.scratch off) → BankOpen s u off → WordsWhole s →
        ∃ t, exec (e.1 f) s = .next t ∧ Advances s t 8 ∧
          InFlight s t f.d (sextW (8 * n) (memRead (s.core u).scratch off n)) ∧
          LocalStores (s.core u).scratch (t.core u).scratch off (new (memRead (s.core u).scratch off n)) ∧ ∀ b, byteAt t b = byteAt s b)))

/-- 17 R420, R421, R424–R427, R429, R430, R433: an instruction of the Bench that passes its checks enters the command queue of 8 and retires, and waits
while the queue is full; the first check that fails raises cause 27 with its code. BFMT of scales takes the bytes at x[b] with it. A failure of an
earlier instruction is reported with cause 29 by the next Bench instruction of any kind. -/
def Obligations.BenchIssue : Prop :=
  ∀ (s : State) (f : LongFields) (c : Nat),
    (∀ e ∈ benchChecks s f c, BenchReady s e.1 c →
      ((∀ k ∈ e.2, k.2 = true) → (s.cluster c).bench.length < 8 → ∃ t, exec e.1 s = .next t ∧ BenchAccepts s t e.1 c []) ∧
      ((∀ k ∈ e.2, k.2 = true) → 8 ≤ (s.cluster c).bench.length → exec e.1 s = .next (enterWait .benchRoom s)) ∧
      (∀ before code rest, e.2 = before ++ (code, false) :: rest → (∀ k ∈ before, k.2 = true) →
        (∀ g, e.1 = .bfmtFormat g ∨ e.1 = .bfmtRowScales g ∨ e.1 = .bfmtColumnScales g → wfld (s.args e.1).a 9 8 = 0) →
        exec e.1 s = .next (takeTrap 27 (BitVec.ofNat 64 code) s))) ∧
    (∀ i ∈ [Instr.bfmtFormat f, .bfmtRowScales f, .bfmtColumnScales f],
      let op := wfld (s.args i).a 9 8
      BenchReady s i c →
      (onlyBits (s.args i).a 0x307 = false ∨ op = 3 → exec i s = .next (takeTrap 27 1 s)) ∧
      (∀ l, onlyBits (s.args i).a 0x307 = true → op = 1 ∨ op = 2 → (s.cluster c).bench.length < 8 → MemoryIdle s →
        s.ctrlPlaces .load (s.args i).b.toNat (if op = 1 then 256 else 64) = some l → (∀ p ∈ l, isHostNum p.pos = false) →
        ∃ t, exec i s = .next t ∧ BenchAccepts s t i c (l.map (spotByte s s.cur)))) ∧
    (∀ i ∈ [Instr.bfmtFormat f, .bfmtRowScales f, .bfmtColumnScales f, .bls f, .bswap f, .bstream f, .bclr f, .bsync f, .bstat f, .bsave f, .brstr f],
      ∀ off pc, isControl s.cur = true → ctxOf s.cur = 1 → i.wellFormed = true → OperandsThere s i → c = myCluster s →
      (s.cluster c).benchFail = some (off, pc) → ∃ t, exec i s = .next (takeTrap 29 (BitVec.ofNat 64 off) t) ∧ (t.cluster c).benchFail = none)

/-- (1) 17 R431, R432: with an empty command queue BSTAT reports a format context's flags, pair and anchor and the planes, and clears its flags where x[a]
says so; BSAVE stores the context's 512-byte record, and BRSTR sets the context from such a record or takes cause 27 with code 7. A misaligned
record takes cause 6 or 4.
(2) 17 R420, R424–R430, 12 R306–R309: while no word of a local memory is under integrity hold, BENCH_EXECUTE takes the oldest instruction from the
command queue and gives it its effect: a format context, the shadow or the active plane, cleared accumulators, a token for a target with room,
or the exact products of the streamed rows added to the accumulators modulo 2^128. -/
def Obligations.BenchContextsAndExecution : Prop :=
  (∀ (s : State) (f : LongFields) (c : Nat), (s.cluster c).bench = [] →
    (let x := s.args (.bstat f)
     let q := (s.cluster c).format (wfld x.a 2 0)
     BenchReady s (.bstat f) c → onlyBits x.a 0x107 = true → ∃ t v, exec (.bstat f) s = .next t ∧ WritesOnly s t 8 f.d v ∧
      v.getLsbD 0 = q.overflow ∧ v.getLsbD 1 = q.inexact ∧ v.getLsbD 2 = q.invalid ∧
      (q.afmt < 16 → q.wfmt < 16 → wfld v 11 8 = q.afmt ∧ wfld v 15 12 = q.wfmt ∧ wfld v 23 16 = q.anchor.toNat ∧
        v.getLsbD 24 = decide ((s.cluster c).active.map Plane.pair = some q.pair) ∧ v.getLsbD 25 = (s.cluster c).shadow.isSome) ∧
      (t.cluster c).format (wfld x.a 2 0) =
        (if x.a.getLsbD 8 then { q with overflow := false, inexact := false, invalid := false } else q)) ∧
    (let x := s.args (.bsave f)
     let q := (s.cluster c).format (wfld x.a 2 0)
     BenchReady s (.bsave f) c → onlyBits x.a 7 = true →
      (x.b.toNat % 64 ≠ 0 → exec (.bsave f) s = .next (takeTrap 6 x.b s)) ∧
      (∀ l, x.b.toNat % 64 = 0 → MemoryIdle s → s.ctrlPlaces .store x.b.toNat 512 = some l →
        ∃ t, exec (.bsave f) s = .next t ∧ Advances s t 8 ∧ StoresCells s t (l.zip (formatRecord q)))) ∧
    (let x := s.args (.brstr f)
     BenchReady s (.brstr f) c → onlyBits x.a 7 = true →
      (x.b.toNat % 64 ≠ 0 → exec (.brstr f) s = .next (takeTrap 4 x.b s)) ∧
      (∀ l, x.b.toNat % 64 = 0 → MemoryIdle s → s.ctrlPlaces .load x.b.toNat 512 = some l → (∀ p ∈ l, isHostNum p.pos = false) →
        (∀ r, formatOfRecord (l.map (spotByte s s.cur)) = some r →
          ∃ t, exec (.brstr f) s = .next t ∧ Advances s t 8 ∧ (t.cluster c).format (wfld x.a 2 0) = r ∧ ∀ b, byteAt t b = byteAt s b) ∧
        (formatOfRecord (l.map (spotByte s s.cur)) = none → exec (.brstr f) s = .next (takeTrap 27 7 s))))) ∧
  ((∀ (s : State) (c : Nat), (s.cluster c).bench = [] → exec (.benchExecute c) s = .next s) ∧
  ∀ (s : State) (c : Nat) (cmd : BenchCmd) (rest : List BenchCmd) (f : LongFields), (s.cluster c).bench = cmd :: rest →
    (∀ k ∈ s.cores, k.2.failingWords = []) →
    let k := s.cluster c
    let j := wfld cmd.xa 2 0
    let q := k.format j
    let (m, rows, c0) := streamArgs cmd.xa
    ∃ t, exec (.benchExecute c) s = .next t ∧ (t.cluster c).bench = rest ∧ (∀ b, byteAt t b = byteAt s b) ∧
      (cmd.instr = .bfmtFormat f → wfld cmd.xa 9 8 = 0 → (t.cluster c).format j =
        { q with afmt := wfld cmd.xb 3 0, wfmt := wfld cmd.xb 7 4, anchor := BitVec.ofNat 8 (wfld cmd.xb 23 16) }) ∧
      (cmd.instr = .bfmtFormat f → wfld cmd.xa 9 8 = 1 → ∀ r, r < cmd.bytes.length →
        tblGet 0 ((t.cluster c).format j).rowScale r = nth 0 cmd.bytes r) ∧
      (cmd.instr = .bfmtFormat f → wfld cmd.xa 9 8 = 2 → ∀ r, r < cmd.bytes.length →
        tblGet 0 ((t.cluster c).format j).colScale r = nth 0 cmd.bytes r) ∧
      (cmd.instr = .bls f → (t.cluster c).active = k.active ∧ (t.cluster c).shadow =
        some (Plane.mk q.afmt q.wfmt (memRead (s.core (8 * c + j)).wbuf cmd.xb.toNat (64 * benchRowBytes q.afmt)))) ∧
      (cmd.instr = .bswap f → (t.cluster c).active = k.shadow ∧ (t.cluster c).shadow = none) ∧
      (cmd.instr = .bclr f → ∀ r n, r < rows → n < 64 → memRead (t.core (8 * c + m)).cbuf (accOffset (c0 + r) n) 16 =
        if cmd.xb.getLsbD n then 0 else memRead (s.core (8 * c + m)).cbuf (accOffset (c0 + r) n) 16) ∧
      (∀ h, cmd.instr = .bsync f → cmd.mute = false → bsyncTarget c cmd.xa = some h → (s.core (unitOf h)).kcut.recorded = false →
        (s.core (unitOf h)).tokens = [] → (s.hart h).q7.length < 32 → (s.hart h).run = .running ∨ isVector h = false →
        (t.hart h).q7 = (s.hart h).q7 ++ [(cmd.xb, BitVec.ofNat 16 (0x6000 + c % 64 * 2 ^ 4))]) ∧
      (∀ p, cmd.instr = .bstream f → k.active = some p → ∀ r n, r < rows → n < 64 →
        memRead (t.core (8 * c + m)).cbuf (accOffset (c0 + r) n) 16 =
          wrapInt 128 (sintOf 128 (memRead (s.core (8 * c + m)).cbuf (accOffset (c0 + r) n) 16) +
            (benchDot (k.format m).pair (k.format m).exponent
              (memRead (s.core (8 * c + m)).abuf (cmd.xb.toNat + r * cmd.xc.toNat) (benchRowBytes (k.format m).afmt))
              (fld p.data (8 * benchRowBytes (k.format m).afmt * (n + 1) - 1) (8 * benchRowBytes (k.format m).afmt * n))).value)))

/-- (1) 17 R435–R437: into four registers, VTEX and VTEXLOD write zeros for all ACTIVE elements where the descriptor is misaligned, and otherwise, reading
device memory without a fault, zeros for each invalid element and the four channels of each other one. RQ and RQANY write status 3 or take
cause 28 where their depth has reached its limit, and otherwise, reading device memory without a wait or a fault, the result of each query.
(2) 17 R438–R441: XPAIR answers status 4 for a misaligned block, takes cause 5 for one in the window, and answers status 4 for a block in device memory
that breaks a limit; a new descent that needs no wait answers its status with the number of its records in [63:32], and WP is advanced by that number.
AGPUSH of no record and no close retires where the queue is open and has the bin, changing no byte; AGPUSH retires with the state that its
commit or staging leaves, and takes cause 4 for a misaligned record. AGPOP into the core's own scratch stores the head record of q6, drops it and
answers its type and the number of records left; it takes cause 6 for a misaligned address and cause 28 for an empty q6. -/
def Obligations.RenderingPairsAndRecords : Prop :=
  (∀ (s : State) (f : LongFields),
    let v := s.self.vec
    let reg (k : Nat) : Nat := (v.getV (f.b.toNat + k)).toNat
    let depth := wfld v.vrqctl 4 0
    (∀ e ∈ [(Instr.vtex, false), (.vtexlod, true)],
      let desc := (s.args (e.1 f)).a.toNat
      let r := s.reads (texElems e.2 desc (reg 0) (reg 1) (if e.2 then sourceValue v f.c.toNat f.c.toNat 0 else 0) (s.slots f))
      RenderReady s (e.1 f) f →
      (desc % 32 ≠ 0 → ∃ t, exec (e.1 f) s = .next t ∧ MemRetires s t ∧ (∀ b, byteAt t b = byteAt s b) ∧
        ResultsBecome s t f ((s.slots f).map (fun k => (k, [0, 0, 0, 0])))) ∧
      (PlainReads s r.2 → endedFaults r.1.2.1 = [] →
        ∃ t, exec (e.1 f) s = .next t ∧ MemRetires s t ∧ (∀ b, byteAt t b = byteAt s b) ∧
          ResultsBecome s t f (r.1.1.map (fun k => (k, [0, 0, 0, 0])) ++ r.1.2.1.filterMap (fun e => match e.2 with
            | .ok c => some (e.1, c)
            | .error _ => none)))) ∧
    (∀ e ∈ [(Instr.rq, false), (.rqany, true)],
      let r := s.reads (eachElem (fun k => rayQuery (s.args (e.1 f)).a.toNat (((List.range 8).map reg).map (fun r => elemAt r 4 k)) e.2) (s.slots f))
      RenderReady s (e.1 f) f →
      (wfld v.vrqctl 9 5 ≤ depth → v.vrqctl.getLsbD 10 = true → exec (e.1 f) s = .next (takeTrap 28 (BitVec.ofNat 64 depth) s)) ∧
      (wfld v.vrqctl 9 5 ≤ depth → v.vrqctl.getLsbD 10 = false → ∃ t, exec (e.1 f) s = .next t ∧ MemRetires s t ∧
        (∀ b, byteAt t b = byteAt s b) ∧ ResultsBecome s t f ((s.slots f).map (fun k => (k, [0x7F800000, 0, 0, 3])))) ∧
      (depth < wfld v.vrqctl 9 5 → PlainReads s r.2 → endedWait r.1 = none → endedFaults r.1 = [] →
        ∃ t, exec (e.1 f) s = .next t ∧ MemRetires s t ∧ (∀ b, byteAt t b = byteAt s b) ∧
          ResultsBecome s t f (r.1.filterMap (fun e => match e.2 with
            | .ok (some h) => some (e.1, [h.t, h.key % 2 ^ 32, h.key / 2 ^ 32, 1])
            | .ok none => some (e.1, [0x7F800000, 0, 0, 0])
            | .error .malformed => some (e.1, [0x7F800000, 0, 0, 4])
            | .error _ => none))))) ∧
  (∀ (s : State) (f : LongFields),
    (let x := s.args (.xpair f)
     let va := x.c.toNat
     let again := s.looked .load va 64
     isVector s.cur = true → (Instr.xpair f).wellFormed = true → OperandsThere s (.xpair f) → MemoryIdle s →
      (va % 64 ≠ 0 → ∃ t, exec (.xpair f) s = .next t ∧ Advances s t 8 ∧ InFlight s t f.d 4 ∧ ∀ b, byteAt t b = byteAt s b) ∧
      (va % 64 = 0 → inWindow s.cur va = true → exec (.xpair f) s = .next (takeTrap 5 x.c s)) ∧
      (∀ r p e, va % 64 = 0 → Reaches s .load va 64 r → r.host = false → translateHart again s.cur .store va 64 = .ok (p, e) →
        pairBlock va (leNat (viewBytes s s.cur r.num 64)) = none →
        ∃ t, exec (.xpair f) s = .next t ∧ Advances s t 8 ∧ InFlight s t f.d 4 ∧ ∀ b, byteAt t b = byteAt s b) ∧
      (∀ v s1 p s2 b cont s3 h1 h2 s4 d s5 r s6, va % 64 = 0 → inWindow s.cur va = false →
        readsM (gNum va 64).run s = .ok (.ok v, s1) → translateM .store va 64 s1 = .ok (p, s2) →
        pairBlock va v = some b → strictCtx s s.cur = false → readsM (contBlock b.cont).run s2 = .ok (.ok cont, s3) →
        heldDescent s3 (cont.headD (0, 0)).2 = none → (∀ d ∈ s3.descents, d.begun = false → d.hart ≠ s.cur) → b.live = false → x.a ≠ 0 →
        readsM (readRoots x.a.toNat x.b.toNat).run s3 = .ok (.ok (h1, h2), s4) →
        beginPair cont (x.a.toNat, x.b.toNat) h1 h2 s4 = .ok (d, s5) →
        readsM (pairLoop b pairFuel (newWalk h1 h2) []).run s5 = .ok (.ok r, s6) →
        ∃ t, exec (.xpair f) s = .next t ∧ Advances s t 8 ∧
          InFlight s t f.d (BitVec.ofNat 64 (r.status + (if r.fault.isSome then 8 else 0) + r.records.length * 2 ^ 32)) ∧
          viewBytes t s.cur (p.num + 0x10) 4 = leBytes 4 ((b.wp + r.records.length) % 2 ^ 32))) ∧
    (let x := s.args (.agpush f)
     isVector s.cur = true → (Instr.agpush f).wellFormed = true → OperandsThere s (.agpush f) → noVectorWork s → MemoryIdle s →
      s.self.widening = false →
      (∀ r q, x.c = 0 → f.nt = false → Reaches s .load x.a.toNat 8 r → lqFind s r.num = some q →
        lqClosed (lqDesc s r.num) = false → x.b.toNat < lqBins (lqDesc s r.num) → s.self.thread.batch = none →
        ∃ t, exec (.agpush f) s = .next t ∧ Advances s t 8 ∧ ∀ b, byteAt t b = byteAt s b) ∧
      (∀ s', readsM (agpushG s.cur x.a.toNat x.b.toNat x.c.toNat f.nt).run s = .ok (.ok (), s') →
        exec (.agpush f) s = .next (s'.retired 8)) ∧
      (x.c.toNat % 64 ≠ 0 → exec (.agpush f) s = .next (takeTrap 4 x.c s))) ∧
    (let x := s.args (.agpop f)
     isVector s.cur = true → (Instr.agpop f).wellFormed = true → OperandsThere s (.agpop f) →
      (x.a.toNat % 64 ≠ 0 → exec (.agpop f) s = .next (takeTrap 6 x.a s)) ∧
      (x.a.toNat % 64 = 0 → s.self.vec.q6 = [] → exec (.agpop f) s = .next (takeTrap 28 22 s)) ∧
      (∀ r rest off, s.self.vec.q6 = r :: rest → ReachesLocal s x.a.toNat 64 (.scratch off) → BankOpen s (unitOf s.cur) off → WordsWhole s →
        noVectorWork s → ∃ t, exec (.agpop f) s = .next t ∧ t.self.vec.q6 = rest ∧
          WritesOnly s t 8 f.d (BitVec.ofNat 64 (r.toNat % 256 + rest.length * 2 ^ 8)) ∧ (∀ b, byteAt t b = byteAt s b) ∧
          LocalStores (s.core (unitOf s.cur)).scratch (t.core (unitOf s.cur)).scratch off (leBytes 64 r.toNat))))

/-- (1) 00 R4, 07 R168, 09 R220, R221, R228, 10 R254: the data of a load arrive and rd is full; an error fails the read of host memory that waits; a posted
entry is sent at its timeout; the one entry of a unit, sent, of bytes or an add, in a device line that is neither in overflow nor under hold, is
performed when it arrives and leaves the buffer, and a packet of bytes where its bank has no lock and no other access waits; a widened release
whose context's earlier accesses are acknowledged is forwarded and counted in vsmiss.
(2) 07 R170, R173, 08 R211, 11 R266, R268, R269: WAIT_RELEASE ends the wait of a hart whose condition holds, and no other; an enabled pending interrupt
saves the pc, the cause and the enable, and goes to the handler of S-mode or of M-mode; the timer event makes interrupt 16 pending exactly where
cycle has reached ktimecmp. The only lock of a core lapses at the end of its lease; one that is being handed over, with no access waiting at its
bank, passes to the one context that waits for it. -/
def Obligations.MemoryAndCoreEvents : Prop :=
  ((∀ (s : State) (h : Nat) (rd : Reg) (v : Word), rd ≠ 0 → (s.hart h).loads.find? (fun l => l.1 = rd.toNat) = some (rd.toNat, v) →
    ∃ t, exec (.loadDataReturn h rd) s = .next t ∧ (t.hart h).getX rd.toNat = v ∧ (t.hart h).xFe t.now rd.toNat = .full ∧
      (t.hart h).loads = (s.hart h).loads.filter (fun l => l.1 ≠ rd.toNat) ∧ (t.hart h).pc = (s.hart h).pc ∧
      (∀ r, r ≠ rd.toNat → (t.hart h).getX r = (s.hart h).getX r) ∧ (∀ k, k ≠ h → t.hart k = s.hart k) ∧ ∀ b, byteAt t b = byteAt s b) ∧
  (∀ (s : State) (h a : Nat) (abort : Bool), (s.hart h).hostRead = some (a, .pending) →
    ∀ i ∈ [Instr.hostErrorCompletion h abort, .hostCompletionTimeout h], ∃ t, exec i s = .next t ∧
      (t.hart h).hostRead = some (a, .failed) ∧ (t.hart h).waiting = none ∧ (t.hart h).pc = (s.hart h).pc) ∧
  (∀ (s : State) (u : Nat) (e : Posted), e ∈ (s.core u).posted → e.sent = false → e.parked = false → e.refused = false → e.release = false →
    ∃ t n, exec (.postedEntryTimeout u e.id) s = .next t ∧ { e with sent := true } ∈ (t.core u).posted ∧
      (n, Instr.postedStoreAck u e.id) ∈ t.agenda ∧ ∀ b, byteAt t b = byteAt s b) ∧
  (∀ (s : State) (u : Nat) (e : Posted) (a : Nat) (bs : List Byte), (s.core u).posted = [e] → e.sent = true → e.parked = false →
    e.refused = false → isRemote a = false → s.failing.contains e.sector = false → ovfSlice s (partOfHart s e.hart) e.sector = none →
    (bs ≠ [] ∧ e.op = .bytes (cellsAt a bs)) ∨
      (∃ n, e.op = .contribute a n ∧ bs = leBytes 16 ((gRead s a 16 + n.toNat) % 2 ^ 128)) ∨
      (∃ n first last, e.op = .progress a n first last ∧ bs = leBytes 8 ((gRead s a 8 + n) % 2 ^ 64)) ∨
      (∃ ty v, e.op = .fadd a ty v ∧ bs = leBytes (fmtBytes ty.toNat) (elemAdd ty (gRead s a (fmtBytes ty.toNat)) v.toNat)) →
    ∃ t, exec (.postedStoreAck u e.id) s = .next t ∧ StoresOnly s t a bs ∧ (t.core u).posted = []) ∧
  (∀ (s : State) (u : Nat) (e : Posted) (o a : Nat) (bs : List Byte), (s.core u).posted = [e] → e.sent = true → e.parked = false →
    e.refused = false → bs ≠ [] → e.op = .packet o (cellsAt a bs) → (∀ b, lockHolder s o b = none ∧ ∀ q ∈ bankQueue s o b, q.2 = 2 ^ 20 + e.id) →
    ∃ t, exec (.postedStoreAck u e.id) s = .next t ∧ LocalStores (s.core o).scratch (t.core o).scratch a bs ∧ (t.core u).posted = [] ∧
      ∀ b, byteAt t b = byteAt s b) ∧
  (∀ (s : State) (c n : Nat) (p : Parked), (s.cluster c).router.find? (fun x => x.idx = n && x.widened) = some p → earlierDone s p = true →
    ∃ t k, exec (.routerForward c n) s = .next t ∧ (t.hart p.hart).vec.vsmiss = (s.hart p.hart).vec.vsmiss + 1 ∧
      (k, Instr.postedStoreAck p.core p.posted) ∈ t.agenda ∧ ∀ b, byteAt t b = byteAt s b)) ∧
  ((∀ (s : State) (h : Nat) (w : Wait), (s.hart h).waiting = some w →
    (released s h w = true → ∃ t, exec (.waitRelease h) s = .next t ∧ (t.hart h).waiting = none ∧
      (w ≠ .barrier → (t.hart h).pc = (s.hart h).pc ∧ (t.hart h).readyAt = s.now + 1 ∧ ∀ k, k ≠ h → t.hart k = s.hart k)) ∧
    (released s h w = false → exec (.waitRelease h) s = .next s)) ∧
  (∀ (s : State) (h i : Nat), nextIrq s h = some i →
    let g := s.hart h
    let target (tvec : Word) : Word := (tvec &&& ~~~ 3) + (if wfld tvec 1 0 = 1 then BitVec.ofNat 64 (4 * i) else 0)
    ∃ t, exec (.interruptEntry h) s = .next t ∧ (t.hart h).kstat.hnd = true ∧ (t.hart h).reservation = none ∧ (t.hart h).waiting = none ∧
      (∀ r, (t.hart h).getX r = g.getX r) ∧
      (g.priv ≠ .machine ∧ g.csr.mideleg.getLsbD i = true →
        (t.hart h).csr.sepc = g.pc ∧ (t.hart h).csr.scause = BitVec.ofNat 64 (2 ^ 63 + i) ∧ (t.hart h).priv = .supervisor ∧
        (t.hart h).pc = target g.csr.stvec ∧ (t.hart h).csr.mstatus.getLsbD 5 = g.csr.mstatus.getLsbD 1 ∧
        (t.hart h).csr.mstatus.getLsbD 1 = false) ∧
      (g.priv = .machine ∨ g.csr.mideleg.getLsbD i = false →
        (t.hart h).csr.mepc = g.pc ∧ (t.hart h).csr.mcause = BitVec.ofNat 64 (2 ^ 63 + i) ∧ (t.hart h).priv = .machine ∧
        (t.hart h).pc = target g.csr.mtvec ∧ (t.hart h).csr.mstatus.getLsbD 7 = g.csr.mstatus.getLsbD 3 ∧
        (t.hart h).csr.mstatus.getLsbD 3 = false)) ∧
  (∀ (s : State) (h : Nat), ∃ t, exec (.coreTimerExpiry h) s = .next t ∧
    (t.hart h).irqPending.getLsbD 16 = decide ((s.hart h).csr.ktimecmp.toNat ≤ s.cycle.toNat) ∧
    ∀ i, i ≠ 16 → (t.hart h).irqPending.getLsbD i = (s.hart h).irqPending.getLsbD i) ∧
  (∀ (s : State) (u b ctx due : Nat), (s.core u).locks = [(b, ctx, due)] → due ≤ s.now →
    (ctx < 16 → ∃ t, exec (.scratchLockLeaseExpiry u b) s = .next t ∧ lockHolder t u b = none ∧
      (lockWaiters s u b ≠ [] → (s.now + 4, Instr.scratchLockLeaseExpiry u b) ∈ t.agenda)) ∧
    (16 ≤ ctx → bankQueue s u b = [] → ∀ c, c < 16 → lockWaiters s u b = [c] → ∃ t, exec (.scratchLockLeaseExpiry u b) s = .next t ∧
      lockHolder t u b = some c ∧ (t.hart (hartOf u c)).waiting = none)))

/-- (1) 07 R172, 09 R225, R226, 10 R254, R255: SLACQ grants a bank that has no lock and at which no access waits, and answers 1; it waits for one that another
context holds; SLREL answers whether the context held the lock, and gives it up. In S-mode of context 0 the service registers pop the oldest record,
invalidate sectors of a line in a core's L1, end the overflow of a line at which no write is held, and widen a popped release; in another mode they
take an access fault.
(2) 11 R289–R292: with the debug window on a core, a halt request is recorded or has halted it; with the core halted, and neither a step nor the program
buffer running, a resume request with no step bit set lets its contexts go on at dpc in the mode of dcsr, a step lets one running thread go on alone,
an access reads or writes an x register or dpc, and the program buffer starts in M-mode. An access to a core that is not halted sets cmderr to 4. -/
def Obligations.ServiceAndDebug : Prop :=
  ((∀ (s : State) (h b : Nat) (rd : Reg), isVector h = true → b < 32 → Writable { s with cur := h } rd →
    let u := unitOf h
    let here := { s with cur := h }
    ((s.core u).locks.find? (fun e => e.1 = b) = none → bankQueue s u b = [] → ∃ t, exec (.slacq h b rd) s = .next t ∧ Advances here t 4 ∧ InFlight here t rd 1 ∧
      lockHolder t u b = some (ctxOf h)) ∧
    (∀ c due, (s.core u).locks.find? (fun e => e.1 = b) = some (b, c, due) → c ≠ ctxOf h →
      exec (.slacq h b rd) s = .next (enterWait (.lock u b) here)) ∧
    (∀ due, (s.core u).locks = [(b, ctxOf h, due)] → ∃ t, exec (.slrel h b rd) s = .next t ∧ Advances here t 4 ∧ InFlight here t rd 1 ∧
      lockHolder t u b = none) ∧
    (lockHolder s u b ≠ some (ctxOf h) → ∃ t, exec (.slrel h b rd) s = .next t ∧ Advances here t 4 ∧ InFlight here t rd 0 ∧
      (t.core u).locks = (s.core u).locks)) ∧
  (∀ (s : State) (u : Nat) (rd : Reg) (value : Word),
    let here := { s with cur := 16 * u }
    ((s.hart (16 * u)).priv = .supervisor →
      (Writable here rd →
        ((s.core u).ovf = [] → ∃ t, exec (.directoryRecordPop u rd) s = .next t ∧ Advances here t 4 ∧ InFlight here t rd 0) ∧
        (∀ r rest, (s.core u).ovf = r :: rest → r.core < 4096 → ∃ t v, exec (.directoryRecordPop u rd) s = .next t ∧ Advances here t 4 ∧
          InFlight here t rd v ∧ (t.core u).ovf = rest ∧ wfld v 37 0 = r.line % 2 ^ 38 ∧ wfld v 59 48 = r.core ∧ v.getLsbD 62 = r.write ∧
          v.getLsbD 63 = true) ∧
        ((s.cluster (u / 8)).router.find? (fun p => p.core = u && !p.popped) = none →
          ∃ t, exec (.routerRecordPop u rd) s = .next t ∧ Advances here t 4 ∧ InFlight here t rd 0) ∧
        (∀ p, (s.cluster (u / 8)).router.find? (fun p => p.core = u && !p.popped) = some p → p.idx < 16 → p.scope < 8 → p.cls < 4 →
          ∃ t v, exec (.routerRecordPop u rd) s = .next t ∧ Advances here t 4 ∧ InFlight here t rd v ∧ wfld v 3 0 = p.idx ∧
            wfld v 7 4 = ctxOf p.hart % 16 ∧ wfld v 10 8 = p.scope ∧ wfld v 12 11 = p.cls ∧ v.getLsbD 13 = p.nBit ∧ v.getLsbD 63 = true ∧
            (t.core u).maddr = p.addr ∧ ∀ x ∈ (t.cluster (u / 8)).router, x.idx = p.idx → x.popped = true)) ∧
      (∃ t, exec (.directoryInvalidate u value) s = .next t ∧ Advances here t 4 ∧
        ∀ e k, l1Find (t.core (wfld value 59 48)) (wfld value 37 0) = some e → k < 8 →
          (wfld value 47 40 = 0 ∨ value.getLsbD (40 + k) = true) → e.valid.getLsbD k = false) ∧
      (∀ d, dirFind s u (wfld value 37 0) = some d → d.held = [] → ∃ t, exec (.directoryDone u value) s = .next t ∧ Advances here t 4 ∧
        dirFind t u d.line = if d.leaving then none else some { d with owner := none, sharers := [], ovf := false, held := [] }) ∧
      (∃ t, exec (.routerWiden u value) s = .next t ∧ Advances here t 4 ∧ ∀ p ∈ (t.cluster (u / 8)).router, p.core = u →
        p.idx = wfld value 3 0 → p.popped = true → p.widened = true)) ∧
    ((s.hart (16 * u)).priv ≠ .supervisor →
      (Writable here rd → exec (.directoryRecordPop u rd) s = .next (takeTrap 5 (dirRegVa 0) here) ∧
        ∃ v t, exec (.routerRecordPop u rd) s = .next (takeTrap 5 v t) ∧ t.self = here.self) ∧
      exec (.directoryInvalidate u value) s = .next (takeTrap 7 (dirRegVa 8) here) ∧
      exec (.directoryDone u value) s = .next (takeTrap 7 (dirRegVa 16) here) ∧
      ∃ v t, exec (.routerWiden u value) s = .next (takeTrap 7 v t) ∧ t.self = here.self))) ∧
  (∀ (s : State) (h : Nat), isVector h = true → debugServes s (unitOf h) = true →
    let u := unitOf h
    let d := (s.core u).dbg
    let quiet : Prop := d.halted = true ∧ d.prog = none ∧ d.stepping = none
    (d.halted = false → d.haltreq = false → ∃ t, exec (.debugHaltRequest u) s = .next t ∧
      ((t.core u).dbg.haltreq = true ∨ (t.core u).dbg.halted = true) ∧ ∀ b, byteAt t b = byteAt s b) ∧
    (quiet → (∀ k, k < 16 → (s.hart (hartOf u k)).csr.dcsr.getLsbD 2 = false) → ∃ t, exec (.debugResumeRequest u) s = .next t ∧
      (t.core u).dbg.halted = false ∧ ∀ k, k < 16 → (s.hart (hartOf u k)).run = .running →
        (t.hart (hartOf u k)).pc = (s.hart (hartOf u k)).csr.dpc ∧
        (t.hart (hartOf u k)).priv = privOf (wfld (s.hart (hartOf u k)).csr.dcsr 1 0)) ∧
    (quiet → (s.hart h).run = .running → ∃ t, exec (.debugSingleStep h) s = .next t ∧ (t.core u).dbg.stepping = some h ∧
      (t.hart h).pc = (s.hart h).csr.dpc ∧ (t.hart h).priv = privOf (wfld (s.hart h).csr.dcsr 1 0) ∧ ∀ k, k ≠ h → t.hart k = s.hart k) ∧
    (quiet → d.cmderr = 0 → ∀ r, r < 32 → ∀ v,
      (∃ t, exec (.debugAccessRegister h (0x1000 + r) false v) s = .next t ∧ (t.core u).dbg.data0 = (s.hart h).getX r ∧ t.hart h = s.hart h) ∧
      (∃ t, exec (.debugAccessRegister h (0x1000 + r) true v) s = .next t ∧ (r ≠ 0 → (t.hart h).getX r = v) ∧
        ∀ q, q ≠ r → (t.hart h).getX q = (s.hart h).getX q) ∧
      (∃ t, exec (.debugAccessRegister h 0x7B1 true v) s = .next t ∧ (t.hart h).csr.dpc = v &&& ~~~ 1) ∧
      (∃ t, exec (.debugAccessRegister h 0x7B1 false v) s = .next t ∧ (t.core u).dbg.data0 = (s.hart h).csr.dpc)) ∧
    (d.halted = false → d.cmderr = 0 → ∀ r w v, ∃ t, exec (.debugAccessRegister h r w v) s = .next t ∧ (t.core u).dbg.cmderr = 4 ∧
      t.hart h = s.hart h) ∧
    (quiet → d.cmderr = 0 → ∃ t, exec (.debugProgramBuffer h) s = .next t ∧ (t.core u).dbg.prog = some (h, 0) ∧ (t.hart h).priv = .machine))

/-- 16 R411–R413, 11 R277: the oldest request of a context that is not stopped checks its words and addresses first, and a failed check stops it with
kind and address, every byte as before. It then moves one piece in a step, with the next one a cycle later, or waits for the first
cycle in which the core's Hoist moves no piece yet; a piece from scratch to scratch copies its bytes. When all is moved it is written and completes at once: it leaves the FIFO, having added 1 to its counter where it has one. -/
def Obligations.HoistTransfers : Prop :=
  ∀ (s : State) (u : Nat) (r : HoistReq), (s.core u).hoist.find? (fun x => x.id = r.id) = some r →
    (r.stopped = none → r.written = false → isOldest (s.core u) r = true → (s.core u).kcut.arm = false → hoistRehoming s r = false →
      (∀ kind a, r.progress = 0 → hoistCheck s r = some (kind, a) → ∃ t, exec (.hoistRequestStart u r.id) s = .next t ∧
        (∃ x ∈ (t.core u).hoist, x.id = r.id ∧ x.stopped = some (kind, BitVec.ofNat 64 a)) ∧ ∀ b, byteAt t b = byteAt s b) ∧
      ((r.progress = 0 → hoistCheck s r = none) →
        (r.bytes ≤ r.progress → ∃ t, exec (.hoistRequestStart u r.id) s = .next t ∧
          (s.now, Instr.hoistRequestComplete u r.id) ∈ t.agenda ∧ ∃ x ∈ (t.core u).hoist, x.id = r.id ∧ x.written = true) ∧
        (r.progress < r.bytes → pieceLocked s r (r.piece r.progress) = false → pieceTurn s u r = true → ∀ s', hoistPiece s r (r.piece r.progress) = .ok (true, s') →
          ∃ t, exec (.hoistRequestStart u r.id) s = .next t ∧ (∀ b, byteAt t b = byteAt s' b) ∧ (t.core u).scratch = (s'.core u).scratch ∧
            (s.now + 1, Instr.hoistRequestStart u r.id) ∈ t.agenda ∧
            ∃ x ∈ (t.core u).hoist, x.id = r.id ∧ x.progress = r.after r.progress) ∧
        (r.progress < r.bytes → pieceLocked s r (r.piece r.progress) = false → pieceTurn s u r = false →
          ∃ t, exec (.hoistRequestStart u r.id) s = .next t ∧ (∀ b, byteAt t b = byteAt s b) ∧
            ((s.core u).pieceFree, Instr.hoistRequestStart u r.id) ∈ t.agenda))) ∧
    (r.ssp = 1 → r.dsp = 1 → WordsWhole { s with cur := r.hart } → (∀ j, j < r.bytes → r.srcByte j < 0x80000 ∧ r.dstByte j < 0x80000) →
      r.progress < r.bytes → (r.piece r.progress).Pairwise (fun i j => r.dstByte i ≠ r.dstByte j) →
      (∀ j ∈ r.piece r.progress, j < r.bytes) → ∃ s', hoistPiece s r (r.piece r.progress) = .ok (true, s') ∧
        ∀ j ∈ r.piece r.progress, memGet (s'.core (unitOf r.hart)).scratch (r.dstByte j) = memGet (s.core (unitOf r.hart)).scratch (r.srcByte j)) ∧
    (r.written = true → r.cen = false → r.tok = false → hoistRehoming s r = false → ∃ t, exec (.hoistRequestComplete u r.id) s = .next t ∧
      (t.core u).hoist = (s.core u).hoist.filter (fun x => x.id ≠ r.id) ∧ ∀ b, byteAt t b = byteAt s b) ∧
    (∀ p, r.written = true → r.cen = true → hoistTranslate s r .store r.counter = .ok p → isRemote p.num = false →
      p.num % 128 + 8 ≤ 128 → hoistRehoming s r = false → s.failing.contains (sectorOf p.num) = false →
      ovfSlice s (partOfHart s r.hart) (sectorOf p.num) = none →
      ∃ t, exec (.hoistRequestComplete u r.id) s = .next t ∧ StoresOnly s t p.num (leBytes 8 ((gRead s p.num 8 + 1) % 2 ^ 64)))

/-- 02 R48–R50, 03 R70–R80, R87: a packet at the head of a queue with an empty inbox and no QWB that passes its checks and may start moves HEAD and has
its effect: NOP and FENCE complete, WAIT stands until a read of its counter reaches its value, ADD adds to a counter and posts its event, HOSTINT
writes its status and posts its event, and COPY and PATCH whose work ends without a fault complete; within one sector COPY fills or copies its
bytes and PATCH writes a die's replica; PATCH empties the instruction caches of the partition's cores. A packet that is not fetched or fails its
checks puts its queue into QSTATE 3 with the ERR code, and HEAD and the bytes of memory stay. A vector fires when its timer is reached, and a
masked message goes when it is unmasked. -/
def Obligations.PacketsOfAQueue : Prop :=
  ∀ (s : State) (fn q : Nat) (p : BitVec 512),
    let k := s.queue fn q
    let u := (consume fn q p none s).2
    (∀ e ∈ [(Instr.nop fn q, 11), (.fencePacket fn q, 7)], PacketReady s fn q e.2 p →
      ∃ t, exec e.1 s = .next t ∧ HeadMoves s t fn q ∧ (t.queue fn q).started = k.started ∧ SameBytes s t) ∧
    (PacketReady s fn q 4 p → ∃ t e, exec (.wait fn q) s = .next t ∧ HeadMoves s t fn q ∧ (t.queue fn q).started = k.started ++ [e] ∧
      e.packet = p ∧ e.seqNo = k.nextSeq ∧ SameBytes s t) ∧
    (∀ e a, k.started.find? (fun x => pFld x.packet 0 1 = 4 && x.stopped.isNone) = some e → startedFind s fn q e.seqNo = some e → e.src = none →
      FnReads s fn (pFld e.packet 8 8) 8 a → ∃ t, exec (.waitSatisfied fn q) s = .next t ∧ SameBytes s t ∧ (t.queue fn q).started =
        if pFld e.packet 0x10 8 ≤ gRead s a 8 then k.started.filter (fun x => x.seqNo ≠ e.seqNo) else k.started) ∧
    (∀ a, PacketReady s fn q 5 p → FnWrites u fn (pFld p 8 8) 8 a → ∃ t, exec (.addPacket fn q) s = .next t ∧ HeadMoves s t fn q ∧
      (t.queue fn q).started = k.started ∧ StoresOnly s t a (leBytes 8 ((gRead s a 8 + pFld p 0x10 8) % 2 ^ 64)) ∧
      (pBits p 5 7 7 = 1 → EventPosted s t fn (pBits p 5 4 0)) ∧ (pBits p 5 7 7 = 0 → t.out = s.out)) ∧
    (PacketReady s fn q 10 p →
      let vec := pBits p 4 4 0
      let w := if pBits p 5 0 0 = 1 then u.modMsix fn vec (fun v => { v with countTh := pFld p 6 2, timer := pFld p 8 4 }) else u
      (pFld p 0x10 8 = 0 → ∃ t, exec (.hostint fn q) s = .next t ∧ HeadMoves s t fn q ∧ SameBytes s t ∧ EventPosted w t fn vec) ∧
      (∀ a, pFld p 0x10 8 ≠ 0 → FnWrites w fn (pFld p 0x10 8) 8 a → ∃ t, exec (.hostint fn q) s = .next t ∧ HeadMoves s t fn q ∧
        StoresOnly s t a (leBytes 8 (pFld p 0x18 8)) ∧ EventPosted w t fn vec)) ∧
    (PacketReady s fn q 3 p →
      let src := pFld p 8 8
      let dst := pFld p 0x10 8
      let n := pFld p 0x18 5
      (∀ v, runFn fn (copyBody p) u = (.ok (), v) → ∃ t, exec (.copy fn q) s = .next t ∧ HeadMoves s t fn q ∧
        Completes v t fn q k.nextSeq (pFld p 0x20 8)) ∧
      (∀ a, FnWrites u fn dst n a → (pBits p 4 0 0 = 1 → ∃ v, runFn fn (copyBody p) u = (.ok (), v) ∧
          StoresOnly s v a ((List.range n).map (fun i => BitVec.ofNat 8 (src >>> (8 * (i % 8)))))) ∧
        (∀ b, pBits p 4 0 0 = 0 → FnReads u fn src n b → ∃ v, runFn fn (copyBody p) u = (.ok (), v) ∧ StoresOnly s v a (gBytes s b n)))) ∧
    (∀ bs v w, PacketReady s fn q 6 p →
      runFn fn (gBytesAt (pFld p 0x10 8) (pFld p 0x18 4) (pFld p 0x18 4 / 64 + 2)) u = (.ok bs, v) →
      (List.range 8).foldl (fun r d => patchDie fn d (pFld p 8 8) bs r) (none, v) = (none, w) → ∃ t, exec (.patch fn q) s = .next t ∧
        HeadMoves s t fn q ∧ Completes (emptyIcaches fn w) t fn q k.nextSeq (pFld p 0x20 8) ∧
        ∀ c ∈ coresOfClusters (clustersOf s fn), (t.core c).icache = []) ∧
    (∀ die text bs a, text % 128 + bs.length ≤ 128 → bs ≠ [] → text < 2 ^ 64 → textReach s fn die text = .ok a → s.failing = [] →
      ovfSlice s fn (sectorOf a) = none → ∃ t, patchDie fn die text bs (none, s) = (none, t) ∧ StoresOnly s t a bs) ∧
    (∀ err, (∃ src, nextPacket s fn q = some (.error err, src)) ∨
        (∃ src, nextPacket s fn q = some (.ok p, src) ∧ packetCheck s fn p src.isSome = some err) →
      ∀ i ∈ [Instr.populate fn q, .graph fn q, .copy fn q, .wait fn q, .addPacket fn q, .patch fn q, .fencePacket fn q, .hostint fn q, .nop fn q,
        .resize fn q], ∃ t, exec i s = .next t ∧ QueueFails t fn q err ∧ (t.queue fn q).head = k.head ∧ (t.queue fn q).inbox = k.inbox ∧
          SameBytes s t ∧ ((s.vector fn k.vec).masked = false → t.out = s.out ++ [.msix fn k.vec])) ∧
    (∀ vec, let v := s.vector fn vec
      (v.pending ≠ 0 → v.since + v.timer ≤ cmdCycles s → ∃ t, exec (.coalesceTimerExpiry fn vec) s = .next t ∧ (t.vector fn vec).pending = 0 ∧
        (v.masked = false → t.out = s.out ++ [.msix fn vec]) ∧ (v.masked = true → (t.vector fn vec).pciePending = true)) ∧
      ∃ t, exec (.msixUnmask fn vec) s = .next t ∧ (t.vector fn vec).masked = false ∧ (t.vector fn vec).pciePending = false ∧
        t.out = if v.pciePending then s.out ++ [.msix fn vec] else s.out)

/-- 03 R83–R85, 11 R282: a KILL that may start lists the packets that it stops, and the queues that it names are empty where it names queues; once the
contexts that it stopped are quiet it completes: its packets are gone and its contexts free. A packet whose watchdog has run out, with no save or
cut of its work in progress, is marked expired and its queue enters QSTATE 3 with ERR 6; it goes when its contexts are quiet. A KILL that is
late, and a save or cut that holds up a watchdog too long, reset the partition. -/
def Obligations.KillsAndWatchdogs : Prop :=
  ∀ (s : State) (fn q : Nat),
    (∀ p, PacketReady s fn q 8 p → killReady s fn q = none →
      let u := (consume fn q p none s).2
      ∃ t e, exec (.kill fn q) s = .next t ∧ e ∈ (t.queue fn q).started ∧ e.packet = p ∧ e.seqNo = (s.queue fn q).nextSeq ∧
        (∀ x ∈ killTargets u fn q e.seqNo p, x ∈ e.targets) ∧ (pBits p 4 1 0 = 0 → HeadMoves s t fn q) ∧
        (pBits p 4 1 0 ≠ 0 → ∀ k ∈ killQueues fn q p, (t.queue k.1 k.2).head = (t.queue k.1 k.2).tail)) ∧
    (∀ e, killReady s fn q = some e → startedFind s fn q e.seqNo = some e → e.src = none → pFld e.packet 8 8 = 0 →
      ∃ t, exec (.kill fn q) s = .next t ∧ startedFind t fn q e.seqNo = none ∧ (∀ x ∈ e.targets, startedFind t x.1 x.2.1 x.2.2 = none) ∧
        (∀ h ∈ e.harts, (s.hart h).tkilling = true → (t.hart h).run = .free ∧ (t.hart h).tkilling = false) ∧ SameBytes s t) ∧
    (∀ e, startedFind s fn q e.seqNo = some e → e.expired = true → threadsQuiet s e.harts = true → e.src = none →
      ∃ t, exec (.watchdogExpiry fn q e.seqNo) s = .next t ∧ startedFind t fn q e.seqNo = none ∧
        ∀ h ∈ e.harts, (s.hart h).tkilling = true → (t.hart h).run = .free) ∧
    (∀ e, startedFind s fn q e.seqNo = some e → e.expired = false → watchdogDue s fn e = true →
      workHeld s fn q e.seqNo = false → (s.queue fn q).en = true → (s.queue fn q).qstate ≠ 3 →
      ∃ t x, exec (.watchdogExpiry fn q e.seqNo) s = .next t ∧ QueueFails t fn q 6 ∧ startedFind t fn q e.seqNo = some x ∧ x.expired = true ∧
        x.packet = e.packet) ∧
    (∀ e, killLate s fn q = some e → ∃ t, exec (.killTimeout fn q) s = .next t ∧ startedFind t fn q e.seqNo = none ∧
      PartitionIsReset s t (if pBits e.packet 4 1 0 = 2 then partByte (pFld e.packet 6 1) else fn)) ∧
    (∀ e, startedFind s fn q e.seqNo = some e → saveTimeoutDue s fn q e = true →
      ∃ t, exec (.saveTimeout fn q e.seqNo) s = .next t ∧ PartitionIsReset s t fn)

/-- 03 R66–R69, R72, 05 R109–R115: POPULATE hands its population to the list of its priority, or with XT to the Weighbridge processor, which puts the
packet into its target's inbox or refuses it with ERR 5; a head of the most urgent list that is not co-resident is admitted when its counter slot,
its window and its gang are free, its counter becoming 0; the first record of the most urgent admitted population goes to its core's launch queue
when there is room; a packet's population whose counter equals its count completes, and one that can never fit is a bad packet. -/
def Obligations.PopulationsAreAdmitted : Prop :=
  (∀ (s : State) (fn q : Nat) (p : BitVec 512), PacketReady s fn q 1 p →
    (pBits p 1 1 1 = 0 → ∃ t, exec (.populate fn q) s = .next t ∧ HeadMoves s t fn q ∧ SameBytes s t ∧
      Submitted s t fn (pBits p 5 1 0) (.packet fn q (s.queue fn q).nextSeq) p) ∧
    (pBits p 1 1 1 = 1 → ∃ t, exec (.populate fn q) s = .next t ∧ t.queue fn q = s.queue fn q ∧
      t.weighbridge = s.weighbridge ++ [(fn, q, (s.queue fn q).nextSeq, p)])) ∧
  (∀ (s : State) (fn q seq : Nat) (p : BitVec 512), s.weighbridge.find? (forwardReady s) = some (fn, q, seq, p) →
    (sieveAccepts s fn p = none → (s.queue fn q).en = true → (s.queue fn q).qstate ≠ 3 →
      ∃ t, exec .forwardedPacketAccept s = .next t ∧ QueueFails t fn q 5 ∧ (t.queue fn q).head = (s.queue fn q).head) ∧
    (∀ k, sieveAccepts s fn p = some k → (s.queue fn q).wben = false →
      let target := partByte (pFld p 2 1)
      ∃ t i, exec .forwardedPacketAccept s = .next t ∧ HeadMoves s t fn q ∧ i.packet = p ∧ i.srcFn = fn ∧ i.srcQ = q ∧
        (t.queue target (pFld p 3 1)).inbox = (s.queue target (pFld p 3 1)).inbox ++ [i] ∧
        (tblGet {} t.sieve k).inflight = (tblGet {} s.sieve k).inflight + 1)) ∧
  (∀ (s : State) (p : Population) (fn q seq : Nat), admissionHead s fn = some p → p.fn = fn → p.origin = .packet fn q seq →
    (neverFits s p = true → (s.queue fn q).en = true → (s.queue fn q).qstate ≠ 3 →
      ∃ t, exec (.admitPopulation fn) s = .next t ∧ QueueFails t fn q 5) ∧
    (∀ base a, neverFits s p = false → p.coresident = false → admissionBase s p = some base →
      let n := (s.part fn).nextPop
      let comp := ((s.func fn).compbase.toNat + 8 * (n % 8192)) % 2 ^ 64
      FnWrites (popWaiting p s) fn comp 8 a →
      ∃ t x, exec (.admitPopulation fn) s = .next t ∧ StoresOnly s t a (leBytes 8 0) ∧ (t.part fn).running = (s.part fn).running ++ [x] ∧
        x.popid = n ∧ x.body = p.body ∧ x.stackBase = base ∧ x.comp = BitVec.ofNat 64 comp ∧ x.prio = p.prio ∧
        (t.part fn).nextPop = (n + 1) % 2 ^ 32 ∧ 
        tblGet [] (t.part fn).waiting p.prio = (tblGet [] (s.part fn).waiting p.prio).filter (fun y => y.origin ≠ p.origin))) ∧
  (∀ (s : State) (fn c : Nat) (p : Population) (r : LaunchRec), nextRecord s fn = some (p, c, r) →
    ∃ t, exec (.launchRecordWrite fn) s = .next t ∧ SameBytes s t ∧
      tblGet [] (t.core c).launch p.prio = stampHead s.now (tblGet [] (s.core c).launch p.prio ++ [r]) ∧
      ∃ x ∈ (t.part fn).running, x.popid = p.popid ∧ x.records = p.records.drop 1) ∧
  (∀ (s : State) (fn popid q seq : Nat) (p : Population) (e : Started), (s.part fn).running.find? (fun x => x.popid = popid) = some p → p.fn = fn →
    p.origin = .packet fn q seq → popCounted s p = true → startedFind s fn q seq = some e → e.src = none →
    ∃ t, exec (.populationComplete fn popid) s = .next t ∧ (∀ x ∈ (t.part fn).running, x.popid ≠ popid) ∧
      Completes (removePopulation p s) t fn q seq (pFld p.body 0x38 8))

/-- 03 R81, R82: a well-formed graph starts with pass 1 and every node idle; a node that may start does what the packet of its kind does and
completes; COND completes and re-arms the graph where its test holds and the limit allows; a re-armed graph begins its next pass, and a graph of
which every node is complete ends. An AGENT node takes its unit, and gives it back when its input is drained. -/
def Obligations.GraphsRunTheirNodes : Prop :=
  (∀ (s v : State) (fn q : Nat) (p : BitVec 512) (nodes : List (BitVec 512)), PacketReady s fn q 2 p →
    runFn fn (readTable (pFld p 8 8) (pFld p 0x10 2)) (consume fn q p none s).2 = (.ok nodes, v) →
    (∀ n, n < nodes.length → nodeOk v fn n (nth 0 nodes n) = true) →
    ∃ t g, exec (.graph fn q) s = .next t ∧ HeadMoves s t fn q ∧ SameBytes s t ∧ t.graphs = s.graphs ++ [g] ∧ g.fn = fn ∧ g.q = q ∧
      g.seqNo = (s.queue fn q).nextSeq ∧ g.nodes = nodes ∧ g.pass = 1 ∧ g.rearm = false ∧ g.failure = none ∧
      g.states = nodes.map (fun _ => .idle)) ∧
  (∀ (s : State) (g n : Nat) (e : Graph), graphFind s g = some e →
    let b := e.node n
    let u := setNode g n .started s
    (nodeReady s e n = true → waitNodeReady s e n = false →
      (e.kind n = 1 → ∃ t, exec (.graphNodeStart g n) s = .next t ∧ NodeIs t g n .started ∧
        Submitted s t e.fn (pBits b 5 1 0) (.node g n) b) ∧
      (∀ v, e.kind n = 3 → runFn e.fn (copyBody b) u = (.ok (), v) → pFld b 0x20 8 = 0 →
        ∃ t, exec (.graphNodeStart g n) s = .next t ∧ NodeIs t g n .complete ∧ SameBytes v t) ∧
      (e.kind n = 4 → ∃ t, exec (.graphNodeStart g n) s = .next t ∧ NodeIs t g n .started ∧ SameBytes s t) ∧
      (∀ a, e.kind n = 5 → FnWrites u e.fn (pFld b 8 8) 8 a → ∃ t, exec (.graphNodeStart g n) s = .next t ∧ NodeIs t g n .complete ∧
        StoresOnly s t a (leBytes 8 ((gRead s a 8 + pFld b 0x10 8) % 2 ^ 64)) ∧
        (pBits b 5 7 7 = 1 → EventPosted s t e.fn (pBits b 5 4 0)))) ∧
    (∀ a, e.kind n = 4 → nth .idle e.states n = .started → graphStopped s e = false → FnReads s e.fn (pFld b 8 8) 8 a →
      pFld b 0x10 8 ≤ gRead s a 8 → ∃ t, exec (.graphNodeStart g n) s = .next t ∧ NodeIs t g n .complete ∧ SameBytes s t) ∧
    (∀ a, e.kind n = 0x0D → nodeReady s e n = true → FnReads s e.fn (pFld b 8 8) 8 a →
      ∃ t x, exec (.condNode g n) s = .next t ∧ SameBytes s t ∧ graphFind t g = some x ∧ nth .idle x.states n = .complete ∧
        (x.rearm = true ↔ condTest b (gRead s a 8) = true ∧ (e.iterLimit = 0 ∨ e.pass < e.iterLimit))) ∧
    (e.rearm = true → e.failure = none → (∀ x ∈ e.states, x ≠ .started) → queuesQuiet s e = true → e.id = g →
      ∃ t x, exec (.graphPassRearm g) s = .next t ∧ graphFind t g = some x ∧ x.pass = e.pass + 1 ∧ x.rearm = false ∧
        x.states = e.states.map (fun _ => .idle)) ∧
    (∀ st, graphEnds s e = true → e.failure = none → startedFind s e.fn e.q e.seqNo = some st → st.src = none → pFld st.packet 0x18 8 = 0 →
      ∃ t, exec (.graphEnd g) s = .next t ∧ graphFind t g = none ∧ startedFind t e.fn e.q e.seqNo = none ∧ ∀ x ∈ t.units, x.graph ≠ g) ∧
    (∀ i o c v, e.kind n = 0x0E → nodeReady s e n = true → s.units.find? (fun x => x.graph = g && x.node = n) = none →
      runFn e.fn (agentStart g e.fn b) u = (.ok (i, o, c), v) → ∃ t x, exec (.agentNode g n) s = .next t ∧ NodeIs t g n .started ∧
        t.units = s.units ++ [x] ∧ x.graph = g ∧ x.node = n ∧ x.kind = pBits b 4 3 0 ∧ x.inst = pFld b 6 2 ∧ x.input = i ∧ x.output = o ∧
        x.config = c ∧ x.held = none ∧ SameBytes v t) ∧
    (∀ x, s.units.find? (fun y => y.graph = g && y.node = n) = some x → agentDone s x = true → x.output = 0 → pFld b 0x20 8 = 0 → n < e.states.length →
      ∃ t, exec (.agentNode g n) s = .next t ∧ NodeIs t g n .complete ∧ (∀ y ∈ t.units, ¬ (y.graph = g ∧ y.node = n)) ∧ SameBytes s t))

/-- 05 R121–R125, 06 R128–R151: the lowest bin that has a batch hands its population on; a queue that has neither DOWN nor DONE and may finish is marked
FINISHED; a unit that holds a record pushes its next output, or frees the record after the last; a draw is cut into meshlets of at most the
configured number; a block's coverage is that of its pixel centres inside the target; the optimiser engine of a cluster that runs no change
claims one that the hierarchy allows and lists its writes, and it makes none where EPOCH is odd, HOLDS is not 0 or the header is frozen. -/
def Obligations.ListQueuesAndUnits : Prop :=
  (∀ (s v : State) (pa bin n first : Nat) (q : ListQueue) (body : BitVec 512), lqFind s pa = some q → batchFirst s q bin = true → batchSize s q bin = some n →
    runFn q.fn (do
      let x ← binAt (lqDesc s pa) bin
      let b ← gNum (lqTemplate (lqDesc s pa)) 64
      lqClaim pa bin n
      pure (x.head, BitVec.ofNat 512 b)) s = (.ok (first, body), v) →
    ∀ i ∈ [Instr.batchForm pa bin, .flushExpiry pa bin], ∃ t x, exec i s = .next t ∧ SameBytes v t ∧
      Submitted s t q.fn (pBits (batchBody body bin n (lqPer (lqDesc s pa))) 5 1 0) (.batch pa bin q.nextBatch)
        (batchBody body bin n (lqPer (lqDesc s pa))) ∧
      lqFind t pa = some x ∧ x.nextBatch = q.nextBatch + 1) ∧
  (∀ (body : BitVec 512) (bin n per : Nat), 0 < per → n < 2 ^ 32 → pFld (batchBody body bin n per) 0x30 4 = (n + per - 1) / per ∧
    pFld (batchBody body bin n per) 0x28 4 = n ∧ (bin < 2 ^ 32 → pFld (batchBody body bin n per) 0x2C 4 = bin) ∧
    pFld (batchBody body bin n per) 8 8 = pFld body 8 8) ∧
  (∀ (s : State) (pa : Nat) (q : ListQueue), lqFind s pa = some q → q.closing = [] → queueFinishes s q = true → lqDown (lqDesc s pa) = 0 →
    lqDone (lqDesc s pa) = 0 → ovfSlice s q.fn (sectorOf (pa + 0x3A)) = none →
    ∃ t, exec (.queueFinish pa) s = .next t ∧ StoresOnly s t (pa + 0x3A) [2]) ∧
  (∀ (s : State) (v w : Reads) (g n b ob : Nat) (e : Graph) (u : AgentUnit) (r out : BitVec 512), graphFind s g = some e → u.graph = g → u.node = n →
    u.stopped = false → graphStopped s e = false → partitionBusy s e.fn = false → u.held = some (b, r) →
    w.s.units = s.units → (∀ q ∈ w.s.listQueues, q.commits = []) →
    ∀ i ∈ [(Instr.meshDistribute g n, 1, meshlet u), (.rasterise g n b, 2, triBlock u), (.rayTraversal g n b, 3, rayRecord u),
        (.blend g n b, 4, blendRecord u)],
      unitOfNode s g n i.2.1 = some u →
      ((i.2.2 r u.carry).run { s := s, who := .func e.fn } = (.ok (some (ob, out)), v) → ob < lqBins (lqDesc v.s u.output) →
        (lqPush u.output ob out).run v = (.ok (), w) → ∃ t x, exec i.1 s = .next t ∧ SameBytes w.s t ∧ unitOfNode t g n i.2.1 = some x ∧
          x.held = some (b, r) ∧ x.carry = u.carry + 1) ∧
      ((i.2.2 r u.carry).run { s := s, who := .func e.fn } = (.ok none, v) → (lqFree u.input b 1).run v = (.ok (), w) →
        ∃ t x, exec i.1 s = .next t ∧ SameBytes w.s t ∧ unitOfNode t g n i.2.1 = some x ∧ x.held = none ∧ x.carry = 0)) ∧
  (∀ (s : State) (fn k : Nat) (u : AgentUnit) (r : BitVec 512), pFld r 0 1 = 0x10 →
    onlyNamed [(0, 0, 8), (8, 0, 64), (0x10, 0, 32), (0x14, 0, 32), (0x18, 0, 64)] r = true → pFld r 8 8 % 4 = 0 → 1 ≤ pFld r 0x10 4 →
    pFld r 0x10 4 < 2 ^ 31 →
    let top := pBits u.config 0 6 0
    (k * top < pFld r 0x10 4 → ∃ m, runG fn (meshlet u r k) s = (.ok (some (0, m)), s) ∧ pFld m 0 1 = 0x11 ∧
      pFld m 8 8 = (pFld r 8 8 + 12 * (k * top)) % 2 ^ 64 ∧ pFld m 0x10 4 = min top (pFld r 0x10 4 - k * top) ∧ pFld m 0x14 4 = pFld r 0x14 4 ∧
      pFld m 0x18 8 = pFld r 0x18 8 ∧ pFld m 0x20 4 = k * top) ∧
    (pFld r 0x10 4 ≤ k * top → runG fn (meshlet u r k) s = (.ok none, s))) ∧
  (∀ (t : Tri) (w h bx y c : Nat), c < 32 → ((t.block w h bx y).testBit c = true ↔
    8 * bx + c % 8 < w ∧ 4 * y + c / 8 < h ∧ t.covers (8 * bx + c % 8) (4 * y + c / 8) = true)) ∧
  (∀ (s : State) (cluster : Nat) (root : Word) (change : OptChange),
    let p := partOfCluster s cluster
    let index := clusterIndex s cluster
    (∀ pos w v, clusterOwner s cluster ≠ none → (∀ r ∈ (s.part p).changes, r.cluster ≠ cluster) →
      (∀ b ∈ (s.part p).bound, b.1 = pos → b.2.1 = index → b.2.2 = cluster) → runG p (claimG index root.toNat change) s = (.ok (pos, w), v) →
      ∃ t, exec (.optimiserChange cluster root change) s = .next t ∧ SameBytes v t ∧
        (t.part p).changes = (v.part p).changes ++ [{ cluster := cluster, root := root.toNat, writes := w, since := s.now }]) ∧
    (∀ h word v, runG p (do
        let h ← readRoot root.toNat
        let word ← gNum ((root.toNat + 8) % 2 ^ 64) 8
        pure (h, word)) s = (.ok (h, word), v) → h.epoch % 2 = 1 ∨ word ≠ h.epoch ∨ h.frozen = true →
      exec (.optimiserChange cluster root change) s = .next s))

/-- (1) 11 R283–R287, 03 R84, 05 R116–R119: a CUT of mode 0 or 1 makes its partition's STATE 2 and begins a cut over its clusters; a unit is armed, records
itself when it has drained, and takes its markers; a recorded cut of mode 0 or 1 writes its image and the partition goes on, after mode 1 with its
packets stopped and its contexts free; a mode-2 CUT that finds no image stops at the fault, and otherwise completes with every packet that the
image's cut had stopped going on. Victims get their pending flag and interrupt 18, a late one begins a cut over its cluster, and a saved thread that
returns by itself is running in its context with the pc, the x registers and, after a hard save, the vector registers that its record holds.
(2) 02 R42–R46, 03 R73: a RESIZE whose descriptor fails a check writes its code and changes nothing; one that passes begins a cut over the clusters
that change hands, makes the partitions' accesses wait, and then gives every named partition its new entry. -/
def Obligations.CutsPreemptionAndResizing : Prop :=
  ((∀ (s : State) (fn q : Nat) (p : BitVec 512), PacketReady s fn q 9 p →
    (∀ e ∈ [(Instr.cutCheckpoint fn q, 0), (.cutStop fn q, 1)], pBits p 4 1 0 = e.2 → ∃ t k, exec e.1 s = .next t ∧ HeadMoves s t fn q ∧
      SameBytes s t ∧ (t.part fn).entry.state = 2 ∧ (t.part fn).cut = some k ∧ k.kind = e.2 ∧ k.clusters = clustersOf s fn ∧ k.fn = fn ∧ k.q = q ∧
      k.seqNo = (s.queue fn q).nextSeq ∧ k.recorded = []) ∧
    (pBits p 4 1 0 = 2 → restoreReady s fn q = none → ∃ t e, exec (.cutRestore fn q) s = .next t ∧ HeadMoves s t fn q ∧
      (t.queue fn q).started = (s.queue fn q).started ++ [e] ∧ e.packet = p)) ∧
  (∀ (s : State) (fn q : Nat) (e : Started), startedFind s fn q e.seqNo = some e → e.src = none →
    (∀ c, restoreReady s fn q = some (e, .error c) → (s.queue fn q).en = true → (s.queue fn q).qstate ≠ 3 →
      ∃ t, exec (.cutRestore fn q) s = .next t ∧ QueueFails t fn q c ∧ startedFind t fn q e.seqNo = none) ∧
    (∀ img l, restoreReady s fn q = some (e, .ok (img, l)) → pFld e.packet 0x18 8 = 0 →
      ∃ t, exec (.cutRestore fn q) s = .next t ∧ startedFind t fn q e.seqNo = none ∧
        ∀ j k, ∀ x ∈ (t.queue j k).started, x.stopped.map (·.1) ≠ some img.id)) ∧
  (∀ (s : State) (u p : Nat) (k : Cut), cutOf s u = some (p, k) →
    (unitArmed s u = false → ∃ t, exec (.cutArm u) s = .next t ∧ unitArmed t u = true ∧ unitRecorded t u = false ∧ SameBytes s t) ∧
    (unitArmed s u = true → unitRecorded s u = false → unitUnsent s u = false → unitDrained s u = true →
      ∃ t, exec (.cutArm u) s = .next t ∧ unitArmed t u = true ∧ unitRecorded t u = true ∧ SameBytes s t)) ∧
  (∀ (s : State) (u channel : Nat), markerReady s u channel = true → ∃ t, exec (.cutMarkerArrival u channel) s = .next t ∧ SameBytes s t ∧
    ∀ i, i < 8 → (t.core u).kcut.pend.getLsbD i = ((s.core u).kcut.pend.getLsbD i && decide (8 + i ≠ channel))) ∧
  (∀ (s : State) (p : Nat) (k : Cut), cutEnds s p = true → (s.part p).cut = some k →
    (∀ e ok v, k.kind = 0 → startedFind s k.fn k.q k.seqNo = some e → e.src = none → pFld e.packet 0x18 8 = 0 →
      writeImage p k e.packet s = (.ok ok, v) → ∃ t, exec (.cutResume p) s = .next t ∧ (t.part p).cut = none ∧
        (t.part p).entry.state ≠ 2 ∧ startedFind t k.fn k.q k.seqNo = none ∧ SameBytes v t ∧
        ∀ u ∈ cutUnits k.clusters, unitArmed t u = false ∧ unitRecorded t u = false) ∧
    (∀ e ok v, k.kind = 1 → startedFind s k.fn k.q k.seqNo = some e → e.src = none → pFld e.packet 0x18 8 = 0 → k.fn = p →
      writeImage p k e.packet s = (.ok ok, v) → ∃ t, exec (.cutResume p) s = .next t ∧ (t.part p).cut = none ∧
        (t.part p).entry.state ≠ 2 ∧ startedFind t k.fn k.q k.seqNo = none ∧ (ok = true →
          (∀ x ∈ stoppedPackets s p, ∀ y ∈ (t.queue x.1 x.2.1).started, y.seqNo = x.2.2 → y.stopped.isSome = true) ∧
          ∀ h, isVector h = true → ctxOf h ≠ 0 → k.clusters.contains (h / 128) = true → (t.hart h).run = .free)) ∧
    (k.kind = 4 → ∃ t, exec (.cutResume p) s = .next t ∧ (t.part p).cut = none ∧ (t.func p).hardcuts = satInc (s.func p).hardcuts)) ∧
  (∀ (s : State) (p : Nat) (d : Demand) (l victims runs : List Nat), preemptPlan s p = some (d, l) →
    freeRuns (s.func p).saveslots victims.length (s.part p).slotsUsed = some runs → victims.Nodup →
    (threadPlaces s victims).isPerm (threadPlaces s l) = true →
    (∀ h ∈ victims, (possibleVictims s p (s.hart h).thread.popid.toNat).contains h = true) →
    ∃ t, exec (.preemptRequest p victims) s = .next t ∧ SameBytes s t ∧
      (t.part p).victims = (s.part p).victims ++ (victims.zip runs).map (fun e => (e.1, e.2, s.now)) ∧
      ∀ h ∈ victims, (t.hart h).kstat.pend = true ∧ (t.hart (h / 16 * 16)).irqPending.getLsbD 18 = true) ∧
  (∀ (s : State) (p c : Nat), hardDue s p c = true → ∃ t k, exec (.hardPreemptCut p c) s = .next t ∧ SameBytes s t ∧
    (t.part p).cut = some k ∧ k.kind = 4 ∧ k.clusters = [c]) ∧
  (∀ (s v : State) (p slot h first rest : Nat) (g : SavedThread), returnPlan s p slot h = some [(slot, h)] → savedFind s p slot = some g →
    runFn p (savedRecord p g) s = (.ok (first, rest), v) → ∃ t, exec (.preemptRestore p slot h) s = .next t ∧ savedFind t p slot = none ∧
      (t.hart h).run = .running ∧ (t.hart h).pc = recWord first 0xF8 ∧ (∀ i, 0 < i → i < 32 → (t.hart h).getX i = recWord first (8 * (i - 1))) ∧
      (g.hard = true → ∀ r, r < 16 → (t.hart h).vec.getV r = BitVec.ofNat 8192 (byteFld rest (1024 * r) 1024)))) ∧
  ((∀ (s v : State) (fn q : Nat) (p : BitVec 512) (vs : List Nat), PacketReady s fn q 12 p →
    runFn fn ((List.range (pBits p 0x10 6 0)).mapM (fun i => gNum (pFld p 8 8 + 256 * i) 256)) (consume fn q p none s).2 = (.ok vs, v) →
    (∀ l, vs.mapM parseEntry = some l → resizeCode v l = 0 → ∃ t k, exec (.resize fn q) s = .next t ∧ HeadMoves s t fn q ∧ SameBytes s t ∧
      (t.part 64).cut = some k ∧ k.kind = 3 ∧ k.entries = l ∧ k.clusters = affectedClusters v l ∧ k.seqNo = (s.queue fn q).nextSeq) ∧
    (∀ code a, (vs.mapM parseEntry = none ∧ code = 5) ∨ (∃ l, vs.mapM parseEntry = some l ∧ resizeCode v l = code ∧ code ≠ 0) →
      FnWrites v fn (pFld p 0x20 8) 8 a → pFld p 0x18 8 = 0 → ∃ t, exec (.resize fn q) s = .next t ∧ HeadMoves s t fn q ∧
        StoresOnly s t a (leBytes 8 code) ∧ ∀ i, (t.part i).entry = (s.part i).entry)) ∧
  (∀ (s : State) (l : List (Nat × PartEntry)), resizeCode s l = 0 → (l.map (·.1)).Nodup ∧
    ((resizedTable s l).map (fun e => e.2.clusters.toNat)).Pairwise (fun a b => a &&& b = 0) ∧
    ((resizedTable s l).map (fun e => e.2.heads.toNat)).Pairwise (fun a b => a &&& b = 0)) ∧
  (∀ (s : State) (k : Cut), cutEnds s 64 = true → (s.part 64).cut = some k → k.kind = 3 →
    ((∃ e ∈ k.entries, (s.part e.1).rehoming = none) → ∃ t, exec (.cutResume 64) s = .next t ∧ SameBytes s t ∧
      ∀ e ∈ k.entries, (t.part e.1).rehoming = some s.now) ∧
    ((∀ e ∈ k.entries, (s.part e.1).rehoming ≠ none) → (k.entries.map (·.1)).Nodup → ∃ t, exec (.cutResume 64) s = .next t ∧
      (t.part 64).cut = none ∧ (∀ e ∈ k.entries, e.2.valid = true → (t.part e.1).entry.clusters = e.2.clusters ∧
        (t.part e.1).entry.heads = e.2.heads ∧ (t.part e.1).entry.s2root = e.2.s2root ∧ (t.part e.1).entry.cmdcores = e.2.cmdcores) ∧
      ∀ e ∈ k.entries, e.2.valid = false → (t.part e.1).entry = {})))

/-- 02 R38, R39, R47, R48, R52, R53, 01 R16, 03 R65: what the host's writes of the notify block and of registers do: a tail moves a queue on, a bad
tail stops it, a write to a queue that is off is counted; EN starts a queue empty where its setting is legal; settings that an enabled queue holds
stay; the power limit is clamped; and a configuration request is answered, or retried during a reset. The walk along the capability list from
0x1000 finds every entry that it lists; a write of 8 bytes in BAR 0 acts by the place that its offset names, and a VF changes nothing outside its
function control block by one in its list, and nothing in a head's block that it does not reach. Where the offsets lie is the model's choice
(log entry 113). -/
def Obligations.HostRegisters : Prop :=
  ∀ (s : State) (fn q : Nat), exposed s fn = true →
    let f := s.func fn
    let k := s.queue fn q
    (∀ tag, exec (.configurationRequest fn tag) s =
      .next { s with out := s.out ++ [if f.flr.isSome then .retryStatus tag else .configOk tag] }) ∧
    (∀ value : Word32,
      let tail := value.toNat % 2 ^ 16
      let size := 2 ^ k.size
      (f.funcEn = false ∨ k.en = false ∨ k.qstate = 3 → ∃ t, exec (.notifyWrite fn q value) s = .next t ∧ (t.func fn).drops = satInc f.drops ∧
        t.queue fn q = k) ∧
      (f.funcEn = true → k.en = true → k.qstate ≠ 3 →
        (size ≤ tail → ∃ t, exec (.notifyWrite fn q value) s = .next t ∧ QueueFails t fn q 1 ∧ (t.queue fn q).tail = k.tail) ∧
        (tail < size → (tail + size - k.head) % size < (k.tail + size - k.head) % size →
          ∃ t, exec (.notifyWrite fn q value) s = .next t ∧ QueueFails t fn q 2 ∧ (t.queue fn q).tail = k.tail) ∧
        (tail < size → (k.tail + size - k.head) % size ≤ (tail + size - k.head) % size →
          ∃ t, exec (.notifyWrite fn q value) s = .next t ∧ (t.queue fn q).tail = tail ∧ (t.queue fn q).head = k.head ∧
            (t.queue fn q).qstate = if k.head = tail then 1 else 2))) ∧
    (∀ value : Word32, ∃ t, exec (.funcEnWrite fn value) s = .next t ∧ (t.func fn).funcEn = value.getLsbD 0 ∧
      (value.getLsbD 0 = true → (t.func fn).drops = 0 ∧ (f.funcEn = false → (t.part fn).nextPop = 0) ∧
        ((s.part fn).entry.state = 3 → (t.part fn).entry.state = 1))) ∧
    (∀ value : Word32,
      let size := fld value.toNat 5 2
      let legal := wfld k.qbase 11 0 = 0 ∧ 2 ≤ size ∧ size ≤ 15 ∧ (value.getLsbD 6 = true → wfld k.qwb 2 0 = 0)
      (k.en = false → value.getLsbD 0 = true → legal → ∃ t, exec (.queueEnableWrite fn q value) s = .next t ∧ (t.queue fn q).en = true ∧
        (t.queue fn q).head = 0 ∧ (t.queue fn q).tail = 0 ∧ (t.queue fn q).qstate = 1 ∧ (t.queue fn q).err = 0 ∧ (t.queue fn q).size = size ∧
        (t.queue fn q).space = value.getLsbD 1 ∧ (t.queue fn q).wben = value.getLsbD 6) ∧
      (k.en = false → value.getLsbD 0 = true → ¬ legal → ∃ t, exec (.queueEnableWrite fn q value) s = .next t ∧ (t.queue fn q).en = false) ∧
      (k.en = true → ∃ t, exec (.queueEnableWrite fn q value) s = .next t ∧ (t.queue fn q).size = k.size ∧ (t.queue fn q).space = k.space ∧
        (t.queue fn q).en = value.getLsbD 0 ∧ (value.getLsbD 0 = false → (t.queue fn q).qstate = 0))) ∧
    (∀ c ∈ capabilities s fn, findCapability s fn c.id c.version 16 0x1000 = some c.off) ∧
    (∀ (value : Word) (addr : Nat), addr % 8 = 0 →
      (∀ off, bar0Place s fn addr = some (.entry 3 off) →
        (anyEnabled s fn = true → off ∈ [0x10, 0x38, 0x80, 0x88, 0x90, 0x98, 0xA0, 0xA8, 0xC8, 0xD0, 0xD8] →
          exec (.registerWrite fn addr 8 value) s = .next s) ∧
        (anyEnabled s fn = false → off = 0x10 → ∃ t, exec (.registerWrite fn addr 8 value) s = .next t ∧ (t.func fn).asReg = value) ∧
        (off = 0x18 → ∃ t, exec (.registerWrite fn addr 8 value) s = .next t ∧ (t.func fn).wdt = wfld value 31 0) ∧
        (q < 16 → off = 0x400 + 32 * q →
          (k.en = false → ∃ t, exec (.registerWrite fn addr 8 value) s = .next t ∧ (t.queue fn q).qbase = value) ∧
          (k.en = true → exec (.registerWrite fn addr 8 value) s = .next s))) ∧
      (fn ≠ 64 → (∀ off, bar0Place s fn addr ≠ some (.table off) ∧ bar0Place s fn addr ≠ some (.sieve off)) ∧
        ∀ id off, bar0Place s fn addr = some (.entry id off) →
          id ∈ [0x01, 0x03, 0x04, 0x10, 0x20] ∧ (id ≠ 3 → exec (.registerWrite fn addr 8 value) s = .next s)) ∧
      (fn = 64 → bar0Place s fn addr = some (.entry 0x10 8) →
        ∃ t, exec (.registerWrite fn addr 8 value) s = .next t ∧ t.pwrCap = max 1200 (min 2700 (value.toNat % 4096))) ∧
      (∀ h, bar0Place s fn addr = some (.heads (64 * h)) →
        (headReached s fn h = true → ∃ t, exec (.registerWrite fn addr 8 value) s = .next t ∧ (t.head h).surf = value) ∧
        (headReached s fn h = false → exec (.registerWrite fn addr 8 value) s = .next s)))

/-- 09 R222, R238, 02 R59, R60, 01 R22–R24: an invalidation drops the translations that it names; a second-stage one gives the frames their owners, or
is refused; a region is frozen, and stays so while some partition is granted it; a route changes only while its old and its new port are idle; a
port of 8 lanes retrains to 4, and any other loses its lanes; the host link trains to a legal width and rate. -/
def Obligations.InvalidationsFreezesAndRoutes : Prop :=
  (∀ (s : State) (fn : Nat), exposed s fn = true → (s.func fn).invBusy = none →
    (∃ t, exec (.tlbInvalidatePage fn) s = .next t ∧ SameBytes s t ∧
      ∀ u k, ∀ e ∈ (t.core u).tlb ++ (t.core u).itlb ++ tblGet [] (t.core u).pipes k,
        e ∈ (s.core u).tlb ++ (s.core u).itlb ++ tblGet [] (s.core u).pipes k ∧
        ¬ (e.partition = fn ∧ e.va = (sextW 48 (s.func fn).invva.toNat).toNat / 2 ^ e.bits ∧ e.global = false ∧ e.asid = asidOf s fn)) ∧
    (∃ t, exec (.tlbInvalidateAll fn) s = .next t ∧ SameBytes s t ∧
      ∀ u k, ∀ e ∈ (t.core u).tlb ++ (t.core u).itlb ++ tblGet [] (t.core u).pipes k,
        e ∈ (s.core u).tlb ++ (s.core u).itlb ++ tblGet [] (s.core u).pipes k ∧
        ¬ (e.partition = fn ∧ e.global = false ∧ e.asid = asidOf s fn)) ∧
    (olderPosted s fn s.nextId = false → ∃ t, exec (.tlbInvalidateAll fn) s = .next t ∧ (t.func fn).invBusy = none) ∧
    ∀ psel, (fn ≠ 64 → exec (.tlbInvalidateStage2 fn psel) s = .next s) ∧
      (fn = 64 → frameOwners s (tableNow s) = none → ∃ t, exec (.tlbInvalidateStage2 fn psel) s = .next t ∧ (t.func fn).invRefused = true ∧
        t.frames = s.frames ∧ t.cores = s.cores) ∧
      (∀ owners, fn = 64 → frameOwners s (tableNow s) = some owners → ∃ t, exec (.tlbInvalidateStage2 fn psel) s = .next t ∧ t.frames = owners ∧
        (t.func fn).invRefused = false ∧ SameBytes s t ∧
        ∀ u k, ∀ e ∈ (t.core u).tlb ++ (t.core u).itlb ++ tblGet [] (t.core u).pipes k, e.partition ≠ partByte psel)) ∧
  (∀ (s : State) (fn region : Nat),
    (fn ≠ 64 ∨ 8 ≤ region → ∀ b, exec (.freezeWrite fn region b) s = .next s) ∧
    (fn = 64 → region < 8 →
      ((s.region region).freeze = false → ∃ t n, exec (.freezeWrite fn region true) s = .next t ∧ (t.region region).freeze = true ∧
        (t.region region).busy = some n ∧ (t.region region).base = (s.region region).base ∧ SameBytes s t) ∧
      (s.parts.any (fun e => e.2.entry.shw.getLsbD region) = true → exec (.freezeWrite fn region false) s = .next s) ∧
      (s.parts.any (fun e => e.2.entry.shw.getLsbD region) = false → ∃ t, exec (.freezeWrite fn region false) s = .next t ∧
        (t.region region).freeze = false ∧ (t.region region).busy = none))) ∧
  (∀ (s : State) (dev port : Nat), dev < 64 → port < 12 →
    (portBusy s port = false → (∀ p, s.routes.find? (fun r => r.1 = dev) = some (dev, p) → portBusy s p = false) →
      (∃ t, exec (.routeTableWrite 64 dev port true) s = .next t ∧ t.routes = tblSet s.routes dev port) ∧
      ∃ t, exec (.routeTableWrite 64 dev port false) s = .next t ∧ t.routes = tblDel s.routes dev) ∧
    (portBusy s port = true → ∀ v, exec (.routeTableWrite 64 dev port v) s = .next s) ∧
    (∀ fn, fn ≠ 64 → ∀ v, exec (.routeTableWrite fn dev port v) s = .next s) ∧
    ((s.port port).lanes ≠ 0 → ∃ t, exec (.haulLaneRetrain port) s = .next t ∧ (t.port port).lanes = (if (s.port port).lanes = 8 then 4 else 0) ∧
      (t.port port).changed = true)) ∧
  (∀ (s : State) (width gts : Nat), width ∈ [16, 8, 4, 2, 1] → gts ∈ [128, 64, 32, 16, 8, 5, 2] →
    exec (.hostLinkTraining width gts) s = .next { s with link := { width := width, gts := gts } })

/-- 02 R36, R37, 10 R264, 01 R23, R29, 09 R234: the host reads and writes device memory through BAR 4, and another device over a haul link: the bytes
go where they are named, and are answered; data that fail end a read in Completer Abort, a read of more than 4,096 bytes is unsupported, and a write
that is poisoned, fails its check or is longer than 512 bytes is discarded and reported; a page that the host refuses is refused, and one that it
grants is not. -/
def Obligations.HostAccesses : Prop :=
  (∀ (s : State) (fn bytes tag : Nat) (addr : Word), exposed s fn = true →
    ((List.range bytes).mapM (fun i => bar4 s fn .load (addr.toNat + i)) = none →
      exec (.hostBar4Read fn addr bytes tag) s = .next { s with out := s.out ++ [.unsupported tag] }) ∧
    (∀ l, (List.range bytes).mapM (fun i => bar4 s fn .load (addr.toNat + i)) = some l →
      (bytes ≤ 4096 → (∀ a ∈ l, s.failing.contains (sectorOf a) = false) →
        exec (.hostBar4Read fn addr bytes tag) s = .next { s with out := s.out ++ [.readData tag (l.map (memGet s.mem))] }) ∧
      (bytes ≤ 4096 → (∃ a ∈ l, s.failing.contains (sectorOf a) = true) →
        exec (.hostBar4Read fn addr bytes tag) s = .next { s with out := s.out ++ [.completerAbort tag] })) ∧
    (4096 < bytes → exec (.hostBar4Read fn addr bytes tag) s = .next { s with out := s.out ++ [.unsupported tag] })) ∧
  (∀ (s : State) (bytes i : Nat) (addr : Word), addr.toNat + bytes ≤ dramBytes → i < bytes → bar4 s 64 .load (addr.toNat + i) = some (addr.toNat + i)) ∧
  (∀ (s : State) (addr : Word) (data : List Byte),
    (addr.toNat + data.length ≤ dramBytes → data.length ≤ 512 → s.failing = [] →
      (∀ i, i < data.length → regionOf s (addr.toNat + i) = none ∧ ovfSlice s 64 (sectorOf (addr.toNat + i)) = none) → ∃ t, exec (.hostBar4Write 64 addr data true false) s = .next t ∧ StoresOnly s t addr.toNat data ∧ t.out = s.out) ∧
    (∀ fn ecrcOk poisoned, ecrcOk = false ∨ poisoned = true ∨ 512 < data.length →
      exec (.hostBar4Write fn addr data ecrcOk poisoned) s = .next { s with out := s.out ++ [.aer fn false] })) ∧
  (∀ (s : State) (a n : Nat), s.failing = [] → s.regions = [] →
    (a + n ≤ dramBytes → exec (.remoteDeviceAccess (.load a n)) s = .next { s with out := s.out ++ [.haulReply (memBytes s.mem a n)] }) ∧
    (∀ data, data ≠ [] → a + data.length ≤ dramBytes → (∀ i, i < data.length → ovfSlice s (ownerOf s a) (sectorOf (a + i)) = none) → ∃ t, exec (.remoteDeviceAccess (.store a data)) s = .next t ∧ StoresOnly s t a data ∧
      t.out = s.out ++ [.haulAck]) ∧
    (∀ v : BitVec 128, a + 16 ≤ dramBytes → a % 16 = 0 → ovfSlice s (ownerOf s a) (sectorOf a) = none → ∃ t, exec (.remoteDeviceAccess (.contribute a v)) s = .next t ∧
      StoresOnly s t a (leBytes 16 ((memRead s.mem a 16 + v.toNat) % 2 ^ 128)) ∧ t.out = s.out ++ [.haulAck]) ∧
    (dramBytes < a + n → exec (.remoteDeviceAccess (.load a n)) s = .next { s with out := s.out ++ [.haulError] })) ∧
  (∀ (s : State) (fn page : Nat), ∃ t, exec (.pageRequestResponse fn page true) s = .next t ∧
    fn * 2 ^ 48 + page ∉ t.pagesRefused ∧ .pageRequest fn page ∉ t.out ∧
    ∃ u, exec (.pageRequestResponse fn page false) s = .next u ∧ fn * 2 ^ 48 + page ∈ u.pagesRefused ∧ .pageRequest fn page ∉ u.out)

/-- 02 R51, R52, 03 R63–R65, 11 R282: a function-level reset disables the function and its queues and kills its work, and one that is late resets the
partition; that of the PF disables every VF and gives entry 64 everything; a plug-in is copied into its text region and measured when it is loaded;
a call starts its hart in U-mode at the first byte with the summary page in a0 and the number of its entries in a1; what it answers starts the
packet of the queue that it names, a population with its priority, starts nothing for -1, and otherwise gives the default choice; and its 16th
fault in a row disables it. -/
def Obligations.FunctionResetsAndPlugins : Prop :=
  (∀ (s : State) (fn : Nat), fn < 64 → exposed s fn = true → ∃ t, exec (.functionLevelReset fn) s = .next t ∧ (t.func fn).funcEn = false ∧
    (t.func fn).drops = 0 ∧ (t.func fn).flr = some (cmdCycles s) ∧
    ∀ q, (t.queue fn q).en = false ∧ (t.queue fn q).qstate = 0 ∧ (t.queue fn q).inbox = []) ∧
  (∀ (s : State) (fn : Nat), flrLate s fn = true → ∃ t, exec (.flrKillTimeout fn) s = .next t ∧ PartitionIsReset s t fn ∧ (t.func fn).flr = none) ∧
  (∀ s : State, ∃ t, exec .pfFunctionLevelReset s = .next t ∧ (t.part 64).entry = PartEntry.reset64 ∧ (∀ p, p ≠ 64 → (t.part p).entry = {}) ∧
    t.frames = [] ∧ (∀ fn, fn < 64 → exposed t fn = false) ∧ ∀ fn, fn ≤ 64 → (t.func fn).funcEn = false ∧ ∀ q, (t.queue fn q).en = false) ∧
  (∀ (s v : State) (fn : Nat) (bs : List Byte), exposed s fn = true → wfld (s.func fn).pluginBase 11 0 = 0 → (s.func fn).pluginLen ≤ 131072 →
    runFn fn (gBytesAt (s.func fn).pluginBase.toNat (s.func fn).pluginLen ((s.func fn).pluginLen / 64 + 2)) s = (.ok bs, v) →
    ∃ t, exec (.pluginLoad fn) s = .next t ∧ (t.func fn).pluginActive = true ∧
      (∀ i (h : i < bs.length), memGet t.mem (pluginBase fn + i) = bs[i]) ∧ (∀ b, b < 2 ^ 52 ∨ hostBase ≤ b → byteAt t b = byteAt s b) ∧
      tblGet 0 t.boot.mr 4 = sm3 (leBytes 32 (tblGet 0 s.boot.mr 4).toNat ++ leBytes 32 (sm3 bs).toNat)) ∧
  (∀ (s : State) (fn : Nat), exposed s fn = true → wfld (s.func fn).pluginBase 11 0 ≠ 0 ∨ 131072 < (s.func fn).pluginLen →
    exec (.pluginLoad fn) s = .next s) ∧
  (∀ (s : State) (p : Nat) (a0 a1 : Word), pluginDue s p = true → ∃ t c, exec (.pluginCall p a0 a1) s = .next t ∧
    (t.part p).pluginCall = some c ∧ c.core = pluginCore s p ∧ c.queues = readyQueues s p ∧ c.since = cmdCycles s ∧
    (t.hart (0x20000 + c.core)).priv = .user ∧ (t.hart (0x20000 + c.core)).pc = 0 ∧ (t.hart (0x20000 + c.core)).getX 10 = 0x40000 ∧
    (t.hart (0x20000 + c.core)).getX 11 = BitVec.ofNat 64 (readyQueues s p).length) ∧
  (∀ (s : State) (p : Nat) (c : PluginCall), (s.part p).pluginCall = some c →
    let called := (endPlugin p s).modPart p (fun x => { x with pluginRow := 0 })
    let late := ((endPlugin p s).modPart p (fun x => { x with pluginRow := (s.part p).pluginRow + 1 })).modFunc p
      (fun f => { f with pluginFaults := satInc f.pluginFaults, pluginActive := decide ((s.part p).pluginRow + 1 < 16) })
    (∀ a1, exec (.pluginCall p (BitVec.allOnes 64) a1) s = .next called) ∧
    (∀ (a0 a1 : Word) (pk : BitVec 512), a0 ≠ BitVec.allOnes 64 →
      (a0.toNat ∈ c.queues → a1.toNat < 4 →
        (PacketReady called p a0.toNat 11 pk → ∃ t, exec (.pluginCall p a0 a1) s = .next t ∧ HeadMoves s t p a0.toNat) ∧
        (PacketReady called p a0.toNat 1 pk → pBits pk 1 1 1 = 0 → ∃ t, exec (.pluginCall p a0 a1) s = .next t ∧ HeadMoves s t p a0.toNat ∧
          Submitted s t p a1.toNat (.packet p a0.toNat (s.queue p a0.toNat).nextSeq) pk)) ∧
      (a0.toNat ∉ c.queues ∨ 4 ≤ a1.toNat → PacketReady called p (c.queues.headD 0) 11 pk →
        ∃ t, exec (.pluginCall p a0 a1) s = .next t ∧ HeadMoves s t p (c.queues.headD 0))) ∧
    (∀ pk : BitVec 512, PacketReady late p (c.queues.headD 0) 11 pk → ∃ t, exec (.pluginTimeout p) s = .next t ∧
      HeadMoves s t p (c.queues.headD 0) ∧ (t.func p).pluginFaults = satInc (s.func p).pluginFaults ∧
      (t.func p).pluginActive = decide ((s.part p).pluginRow + 1 < 16) ∧ (t.part p).pluginRow = (s.part p).pluginRow + 1))

/-- 01 R31–R35: a cold reset clears every measurement register but MR0, which the ROM extends with itself, and starts the images of the three stages in
order, each measured into its register; an image that does not verify enters recovery, in which the PF alone is exposed and gives a new image. A
quote has 0x250 bytes, with the nonce first and the measurement registers after it. -/
def Obligations.BootAndAttestation : Prop :=
  (∀ s : State, ∃ t, exec (.coldReset []) s = .next t ∧ t.boot.recovery = true ∧ t.boot.stage = 0 ∧ t.hostMem = s.hostMem ∧ t.mem = [] ∧
    tblGet 0 t.boot.mr 0 = sm3 (leBytes 32 0 ++ leBytes 32 Config.romDigest.toNat) ∧ ∀ i, 0 < i → tblGet 0 t.boot.mr i = 0) ∧
  (∀ (s : State) (a b c : BootImage), s.boot.upload = none → imageVerifies s.boot a = true → imageVerifies s.boot b = true → imageVerifies s.boot c = true →
    a.mr = 1 → b.mr = 2 → c.mr = 3 → ∃ t, exec (.coldReset [a, b, c]) s = .next t ∧ t.boot.recovery = false ∧ t.boot.stage = 3 ∧
      t.boot.version = a.version ∧ t.boot.held = false ∧
      (∀ e ∈ [(1, a), (2, b), (3, c)], tblGet 0 t.boot.mr e.1 = sm3 (leBytes 32 0 ++ leBytes 32 e.2.digest.toNat)) ∧
      ∀ i, 3 < i → tblGet 0 t.boot.mr i = 0) ∧
  (∀ (s : State) (a : BootImage) (rest : List BootImage), s.boot.upload = none → imageVerifies s.boot a = false →
    ∃ t, exec (.coldReset (a :: rest)) s = .next t ∧ t.boot.recovery = true ∧ t.boot.stage = 0 ∧ ∀ fn, exposed t fn = true → fn = 64) ∧
  (∀ (s : State) (a : BootImage), s.boot.recovery = true → imageVerifies s.boot a = true →
    (∃ t, exec (.recoveryImageUpload 64 a) s = .next t ∧ t.boot.upload = some a) ∧
    ∀ fn, fn ≠ 64 → exec (.recoveryImageUpload fn a) s = .next s) ∧
  (∀ (s : State) (fn : Nat) (nonce : BitVec 256), exposed s fn = true →
    (1 ≤ s.boot.stage → exec (.attestationQuoteRequest fn nonce) s = .next { s with out := s.out ++ [.quote fn (quoteBytes s fn nonce)] }) ∧
    exec (.identityCertificateRequest fn) s = .next { s with out := s.out ++ [.certificate fn Config.identityCertificate] } ∧
    (quoteBytes s fn nonce).length = 0x250 ∧ (quoteBytes s fn nonce).take 32 = leBytes 32 nonce.toNat ∧
    (∀ i, i < 8 → ((quoteBytes s fn nonce).drop (0x20 + 32 * i)).take 32 = leBytes 32 (tblGet 0 s.boot.mr i).toNat) ∧
    ((quoteBytes s fn nonce).drop 0x120).take 8 = leBytes 8 s.boot.version ∧
    ((quoteBytes s fn nonce).drop 0x128).take 8 = leBytes 8 (if fn = 64 then 0xFF else fn) ∧
    ((quoteBytes s fn nonce).drop 0x130).take 32 = leBytes 32 (sm3 (((quoteBytes s fn nonce).drop 0x190).take 64)).toNat)

/-- 01 R14: an evaluation above the power limit or above 105 °C lowers a die's clock by one step of 25 MHz, never below 600; below both limits the clock
rises by one step at most once in 50 evaluations (a millisecond), never above 1,200; a failed check of a flit is counted with its replays. -/
def Obligations.PowerControl : Prop :=
  (∀ (s : State) (die mw tj : Nat), die < 8 → tj < 115 → ∃ t, exec (.powerEvaluation die mw tj) s = .next t ∧ t.boot.held = s.boot.held ∧
    t.out = s.out ∧ (t.die die).tj = tj ∧ (t.die die).power = mw ∧
    (dieLimit s < mw ∨ 105 < tj → (t.die die).clock = max 600 ((s.die die).clock - 25)) ∧
    (mw < dieLimit s → tj < 105 → 50 ≤ (s.die die).sinceRaise + 1 → (s.die die).clock < 1200 →
      (t.die die).clock = (s.die die).clock + 25 ∧ (t.die die).sinceRaise = 0) ∧
    (mw ≤ dieLimit s → tj ≤ 105 → (s.die die).sinceRaise + 1 < 50 ∨ 1200 ≤ (s.die die).clock → (t.die die).clock = (s.die die).clock) ∧
    ∀ k, k ≠ die → t.die k = s.die k) ∧
  (∀ s : State, s.pwrCap = 2700 → dieLimit s = 280000) ∧
  (∀ (s : State) (die n : Nat), die < 10 → 0 < n → ∃ t, exec (.linkCrcReplay die n) s = .next t ∧ (t.die die).replays = (s.die die).replays + n ∧
    (t.die die).retrains = (s.die die).retrains + (n - 1) / 8 ∧ (t.die die).corrected = (s.die die).corrected + 1 ∧ SameBytes s t)

/-- 01 R15: if any die's junction temperature reaches 115 °C, every die is held in reset and a fatal error goes to the host; nothing steps until a cold
reset; a lower temperature does neither. -/
def Obligations.ThermalShutdown : Prop :=
  (∀ (s : State) (die tj : Nat), die < 10 → 115 ≤ tj → ∃ t, exec (.thermalShutdown die tj) s = .next t ∧ t.boot.held = true ∧
    t.out = s.out ++ [.aer 64 true]) ∧
  (∀ (s : State) (die mw tj : Nat), die < 8 → 115 ≤ tj → ∃ t, exec (.powerEvaluation die mw tj) s = .next t ∧ t.boot.held = true ∧
    t.out = s.out ++ [.aer 64 true]) ∧
  (∀ (s : State) (die tj : Nat), die < 10 → tj < 115 → ∃ t, exec (.thermalShutdown die tj) s = .next t ∧ t.boot.held = s.boot.held ∧ t.out = s.out) ∧
  (∀ s : State, s.boot.held = true → (∀ e ∈ s.agenda, ∀ l, e.2 ≠ .coldReset l) → step s = .fault .heldInReset)

/-- 02 R53–R55: a FLIP with every setting in range takes one of the head's four slots with what it latches and the engine slots that its frame needs;
with the slots full or a setting out of range it is refused and counted. In a slot an engine serves the only flip that it has; the flip's frame
is written when its last slot is served. -/
def Obligations.FlipsAndSlots : Prop :=
  (∀ (s : State) (fn h p : Nat) (seq : Word32), exposed s fn = true → headReached s fn h = true → headOwner s h = some p →
    let d := s.head h
    (d.slots.length < 4 → flipInRange d = true → ∃ t f, exec (.flip fn h seq) s = .next t ∧ (t.head h).slots = d.slots ++ [f] ∧
      (t.head h).flip = seq ∧ (t.head h).refused = d.refused ∧ f.owner = p ∧ f.seqNo = seq ∧ f.surf = d.surf ∧ f.dims = d.dims ∧
      f.mode = d.mode ∧ 12000 * f.owed < (if d.mode.getLsbD 2 then 2 else 1) * (wfld d.dims 15 0 * wfld d.dims 31 16) + 12000 ∧
      (if d.mode.getLsbD 2 then 2 else 1) * (wfld d.dims 15 0 * wfld d.dims 31 16) ≤ 12000 * f.owed) ∧
    (4 ≤ d.slots.length ∨ flipInRange d = false → ∃ t, exec (.flip fn h seq) s = .next t ∧ (t.head h).slots = d.slots ∧
      (t.head h).flip = d.flip ∧ (t.head h).refused = satInc d.refused)) ∧
  (∀ (s : State) (fn h : Nat) (seq : Word32), headReached s fn h = false → exec (.flip fn h seq) s = .next s) ∧
  (∀ (s : State) (engine h : Nat) (f : Flip) (rest : List Flip), engine < 8 → (tblGet {} s.engines engine).last < s.now / slotCycles →
    engineFlips s engine = [(h, f)] → (s.head h).slots = f :: rest →
    (1 < f.owed → ∃ t, exec (.encodeSlot engine) s = .next t ∧ (t.head h).slots = { f with owed := f.owed - 1 } :: rest ∧ SameBytes s t ∧
      (tblGet {} t.engines engine).last = s.now / slotCycles) ∧
    (f.owed ≤ 1 → ∀ v, finishFlip h { f with owed := 0 } { s with engines := tblSet s.engines engine (engineNow s engine) } = some v →
      ∃ t, exec (.encodeSlot engine) s = .next t ∧ (t.head h).done = (v.head h).done ∧ (t.head h).wp = (v.head h).wp ∧ SameBytes v t)) ∧
  (∀ (seq : Word32) (key : Bool) (obus : List Byte), (frameRecord seq key obus).take 4 = leBytes 4 seq.toNat ∧
    ((frameRecord seq key obus).drop 4).take 4 = leBytes 4 obus.length ∧ nth 0 (frameRecord seq key obus) 8 = (if key then 1 else 0) ∧
    (frameRecord seq key obus).drop 16 = obus)

/-- 13 R318–R322, R330: every well-formed instruction with an encoding decodes from its own bytes, with every operand, whatever follows. BFMT's three
rows are one word. -/
def Obligations.EncodedWordsDecodeBack : Prop :=
  ∀ (i : Instr) (bs rest : List Byte), i.wellFormed = true → encodeBytes i = some bs → decode (bs ++ rest) = some (asRead i, rest)

/-- 13 R318–R322: what the decoder reads is well formed, is 4 or 8 bytes long, and its encoding is exactly the bytes that it was read from: no bit of a
word is ignored. A stream that is too short, and one that begins with a marker of another length, is no instruction. -/
def Obligations.DecodedBytesAreTheEncoding : Prop :=
  (∀ (bs rest : List Byte) (i : Instr), decode bs = some (i, rest) → i.wellFormed = true ∧ ∃ own, encodeBytes i = some own ∧
    bs = own ++ rest ∧ (own.length = 4 ∨ own.length = 8)) ∧
  (∀ bs : List Byte, bs.length < 4 → decode bs = none) ∧
  (∀ (b : Byte) (rest : List Byte), b.toNat % 4 ≠ 3 ∨ (b.toNat % 32 = 31 ∧ b.toNat % 128 ≠ 0x3F) → decode (b :: rest) = none)

/-- 13 R318–R330, 14 R342, R345, 17 R423: some words written out from the encoding tables, one of each format, and the instructions that they are. -/
def Obligations.DecodeWords : Prop :=
  decodeTableWord 32 0b000000000101_00010_000_00001_0010011 = some (.addi 1 2 5) ∧
  decodeTableWord 32 0b0100000_00011_00010_000_00001_0110011 = some (.sub 1 2 3) ∧
  decodeTableWord 32 0b0000000_00011_00010_011_01000_0100011 = some (.sd 2 3 8) ∧
  decodeTableWord 32 0b0_000000_00011_00010_001_1000_0_1100011 = some (.bne 2 3 8) ∧
  decodeTableWord 32 0b00000_10_00011_00010_010_00001_0101111 = some (.amoadd false true false 1 2 3) ∧
  decodeTableWord 32 0b0000000_00011_00010_000_00001_0001011 = some (.tspawn 1 2 3) ∧
  decodeTableWord 64 (0b000000_0_0_0_000_00_0_0_0_000_0000_0001000000 * 2 ^ 30 + 0b00000_00011_00010_010_00001_0111111) =
    some (.vadd { d := 1, a := 2, b := 3, ty := 2 }) ∧
  decodeTableWord 64 (0b000000_0_0_0_000_00_0_0_0_000_0000_0110000010 * 2 ^ 30 + 0b00000_00000_00000_000_00000_0111111) = some (.bswap {}) ∧
  decodeTableWord 32 0 = none

/-- 07 R162–R168, 11 R270, 13 R319: when hart h issues, the word at its pc is fetched through its translation, from its instruction cache where that
holds it and else from memory; when the bytes decode to an instruction, and no register that its slot reads is empty, the step executes it, after the
state of the issue has been noted; a word that is no instruction, and a misaligned pc, trap; behind an acquire a memory access waits. -/
def Obligations.StepRunsDecoded : Prop :=
  (∀ (s : State) (h : Nat) (va : Word) (r : Phys) (e : Option Lookup), inWindow h va.toNat = false →
    translateHart s h .fetch va.toNat 4 = .ok (r, e) →
    (∀ w, iFind (s.core (unitOf h)) r.num = some w → ∃ t, fetchWord s h va = .ok (w, t) ∧ t.now = s.now ∧ SameBytes s t) ∧
    (iFind (s.core (unitOf h)) r.num = none → (s.part (partOfHart s h)).rehoming = none → heldByte s r.num 4 = none →
      ∃ t, fetchWord s h va = .ok (gRead s r.num 4, t) ∧ t.now = s.now ∧ SameBytes s t)) ∧
  (∀ (s : State) (h : Nat), Issues s h →
    let pc := (s.hart h).pc
    (∀ w t i, wfld pc 1 0 = 0 → fetchWord s h pc = .ok (w, t) → lengthOf w = some 4 → decode (natBytes 4 w) = some (i, []) →
      slotWait h 3 t (slotAdd none h i pc) (pc + 4) = none → (acquirePending t h && accessesMemory i) = false →
      step s = endIssue s h 4 (exec i (beginIssue h (slotAdd none h i (t.hart h).pc) t))) ∧
    (∀ w t w' t' i, wfld pc 1 0 = 0 → fetchWord s h pc = .ok (w, t) → lengthOf w = some 8 → fetchWord t h (pc + 4) = .ok (w', t') →
      w < 2 ^ 32 → w' < 2 ^ 32 → decode (natBytes 8 (w + w' * 2 ^ 32)) = some (i, []) →
      slotWait h 3 t' (slotAdd none h i pc) (pc + 8) = none → (acquirePending t' h && accessesMemory i) = false →
      step s = endIssue s h 8 (exec i (beginIssue h (slotAdd none h i (t'.hart h).pc) t'))) ∧
    (∀ w t i, wfld pc 1 0 = 0 → fetchWord s h pc = .ok (w, t) → lengthOf w = some 4 → decode (natBytes 4 w) = some (i, []) →
      slotWait h 3 t (slotAdd none h i pc) (pc + 4) = none → (acquirePending t h && accessesMemory i) = true →
      step s = endIssue s h 4 (.next (enterWait .acquire (beginIssue h (slotAdd none h i (t.hart h).pc) t)))) ∧
    (∀ w t i e, wfld pc 1 0 = 0 → fetchWord s h pc = .ok (w, t) → lengthOf w = some 4 → decode (natBytes 4 w) = some (i, []) →
      slotWait h 3 t (slotAdd none h i pc) (pc + 4) = some e → step s = endIssue s h 0 (.next (enterWait e (beginIssue h none t)))) ∧
    (∀ w t, wfld pc 1 0 = 0 → w < 2 ^ 32 → fetchWord s h pc = .ok (w, t) → lengthOf w ≠ some 8 → decode (natBytes 4 w) = none →
      step s = endIssue s h 0 (.next (takeIllegal w (beginIssue h none t)))) ∧
    (wfld pc 1 0 ≠ 0 → step s = endIssue s h 0 (.next (takeTrap 0 pc (beginIssue h none s)))) ∧
    (∀ c t, wfld pc 1 0 = 0 → fetchWord s h pc = .error (.fault c, t) →
      step s = endIssue s h 0 (.next (takeTrap c pc (beginIssue h none t))))) ∧
  (∀ (s u : State) (h n : Nat), ∃ t, endIssue s h n (.next u) = .next t ∧ StepEnds s h (.next u) t)

/-- 01 R16, 02 R36, R41, R47, R48, R53, 07 R163, 08 R189, 11 R266: what the machine holds right after reset where the manual gives it: partition 64
owns everything and no other entry is valid; the compute dies run at 1,200 MHz and the I/O dies at 1,600 MHz; every queue, Sieve entry and head is
at zero, and so is a region's FREEZE, which is the model's choice (log entry 115); contexts 1 to 15 are free and context 0 runs in S-mode; the delegation is fixed; the boot core is in M-mode; and both memories have their canonical form. -/
def Obligations.ResetValues : Prop :=
  let s := State.reset
  MemoriesWf s = true ∧ (s.part 64).entry = PartEntry.reset64 ∧ (∀ p, p ≠ 64 → (s.part p).entry.valid = false) ∧ s.pwrCap = 0xA8C ∧
    (∀ d, d < 10 → (s.die d).clock = if d < 8 then 1200 else 1600) ∧
    (∀ fn q, (s.queue fn q).en = false ∧ (s.queue fn q).qstate = 0 ∧ (s.func fn).funcEn = false ∧ (s.func fn).drops = 0) ∧
    (∀ k, (s.region k).freeze = false ∧ (tblGet {} s.sieve k).w0 = 0) ∧ (∀ h, (s.head h).surf = 0 ∧ (s.head h).flip = 0 ∧ (s.head h).refused = 0) ∧
    (∀ c k, c < 4096 → 0 < k → k < 16 → (s.hart (16 * c + k)).run = .free) ∧
    (∀ c, c < 4096 → (s.hart (16 * c)).run = .running ∧ (s.hart (16 * c)).priv = .supervisor) ∧
    (∀ h, h < 65536 → (s.hart h).csr.medeleg = 0x7F00B1FF ∧ (s.hart h).csr.mideleg = 0x7F0000 ∧ (s.hart h).csr.ktimecmp = BitVec.allOnes 64) ∧
    s.cur = 0x20000 ∧ s.self.priv = .machine ∧ s.self.run = .running ∧ ∀ i, tblGet 0 s.boot.mr i = 0

/-- Whatever a step does, both memories keep their canonical form: addresses strictly rising and no byte listed that an unlisted address reads as (the
model's form of memory, log entry 1). -/
def Obligations.StepKeepsTheMemoryForm : Prop :=
  ∀ s t : State, MemoriesWf s = true → step s = .next t → MemoriesWf t = true

/-- 00 R6: a byte reads as it was written last and every other byte as before, little-endian numbers come back whole, and memories of that form that read alike are equal. -/
def Obligations.MemoryReadsWhatWasWritten : Prop :=
  (∀ (m : List Host.Cell) (a : Nat) (bs : List Byte) (b : Nat), memGet (memWrite m a bs) b =
    if h : a ≤ b ∧ b - a < bs.length then bs[b - a] else memGet m b) ∧
  (∀ (m : List Host.Cell) (a n v : Nat), memRead (memWrite m a (leBytes n v)) a n = v % 2 ^ (8 * n)) ∧
  (∀ m m' : List Host.Cell, Memory.wf m = true → Memory.wf m' = true → (∀ a, memGet m a = memGet m' a) → m = m')
end

