-- ==== Sys2Proof/Laws/Bits.lean ====
section
/-! SUPPORT. The laws of bit fields and of the elements of a register. -/

namespace Sys2Proof.Machine.Laws

/-- A number cut at a bit: its low part, one field and the rest. -/
theorem split_field (v lo n : Nat) : v = v % 2 ^ lo + 2 ^ lo * (v / 2 ^ lo % 2 ^ n) + 2 ^ (lo + n) * (v / 2 ^ (lo + n)) := by
  have h1 := Nat.div_add_mod v (2 ^ lo)
  have h2 := Nat.div_add_mod (v / 2 ^ lo) (2 ^ n)
  rw [Nat.div_div_eq_div_mul, ← Nat.pow_add] at h2
  have h3 : 2 ^ lo * (2 ^ n * (v / 2 ^ (lo + n)) + v / 2 ^ lo % 2 ^ n) = 2 ^ lo * (v / 2 ^ lo) := by rw [h2]
  rw [Nat.mul_add, ← Nat.mul_assoc, ← Nat.pow_add] at h3
  omega

/-- A field of w bytes replaced by x leaves the low part and the rest. -/
theorem setElem_eq (v w i x : Nat) :
    setElem v w i x = v % 2 ^ (8 * w * i) + 2 ^ (8 * w * i) * (x % 2 ^ (8 * w)) +
      2 ^ (8 * w * i + 8 * w) * (v / 2 ^ (8 * w * i + 8 * w)) := by
  have h := split_field v (8 * w * i) (8 * w)
  unfold setElem elemAt
  rw [Nat.shiftRight_eq_div_pow, Nat.mul_comm (v / 2 ^ (8 * w * i) % 2 ^ (8 * w)), Nat.mul_comm (x % 2 ^ (8 * w))]
  omega

/-- An element reads as it was set. -/
theorem elemAt_setElem_self (v w i x : Nat) : elemAt (setElem v w i x) w i = x % 2 ^ (8 * w) := by
  rw [setElem_eq, elemAt, Nat.shiftRight_eq_div_pow]
  have hp : 0 < 2 ^ (8 * w * i) := Nat.pow_pos (by decide)
  have h1 : (v % 2 ^ (8 * w * i) + 2 ^ (8 * w * i) * (x % 2 ^ (8 * w)) + 2 ^ (8 * w * i + 8 * w) * (v / 2 ^ (8 * w * i + 8 * w))) / 2 ^ (8 * w * i)
      = x % 2 ^ (8 * w) + 2 ^ (8 * w) * (v / 2 ^ (8 * w * i + 8 * w)) := by
    generalize v / 2 ^ (8 * w * i + 8 * w) = q
    rw [Nat.pow_add, Nat.mul_assoc (2 ^ (8 * w * i)), Nat.add_assoc, ← Nat.mul_add, Nat.add_mul_div_left _ _ hp,
      Nat.div_eq_of_lt (Nat.mod_lt _ hp), Nat.zero_add]
  rw [h1, Nat.add_mul_mod_self_left, Nat.mod_mod]

/-- Another element reads as before. -/
theorem elemAt_setElem_ne (v w i j x : Nat) (h : j ≠ i) : elemAt (setElem v w i x) w j = elemAt v w j := by
  rw [setElem_eq]
  have hp : 0 < 2 ^ (8 * w * i) := Nat.pow_pos (by decide)
  have hx : x % 2 ^ (8 * w) < 2 ^ (8 * w) := Nat.mod_lt _ (Nat.pow_pos (by decide))
  unfold elemAt
  rw [Nat.shiftRight_eq_div_pow, Nat.shiftRight_eq_div_pow]
  apply Nat.eq_of_testBit_eq
  intro b
  simp only [Nat.testBit_mod_two_pow, Nat.testBit_div_two_pow]
  by_cases hb : b < 8 * w
  · simp only [hb, decide_true, Bool.true_and]
    rw [Nat.add_comm _ (2 ^ (8 * w * i + 8 * w) * _), Nat.testBit_two_pow_mul_add _ (by
      have : v % 2 ^ (8 * w * i) < 2 ^ (8 * w * i) := Nat.mod_lt _ hp
      have h2 : 2 ^ (8 * w * i + 8 * w) = 2 ^ (8 * w * i) * 2 ^ (8 * w) := Nat.pow_add ..
      have h3 : 2 ^ (8 * w * i) * (x % 2 ^ (8 * w)) + 2 ^ (8 * w * i) ≤ 2 ^ (8 * w * i) * 2 ^ (8 * w) := by
        rw [← Nat.mul_succ]; exact Nat.mul_le_mul_left _ hx
      omega)]
    by_cases hj : j < i
    · have h1 : b + 8 * w * j < 8 * w * i := by
        have : 8 * w * (j + 1) ≤ 8 * w * i := Nat.mul_le_mul_left _ hj
        rw [Nat.mul_succ] at this; omega
      have h2 : b + 8 * w * j < 8 * w * i + 8 * w := by omega
      rw [if_pos h2, Nat.add_comm (v % _), Nat.testBit_two_pow_mul_add _ (Nat.mod_lt _ hp), if_pos h1, Nat.testBit_mod_two_pow]
      simp [h1]
    · have hij : i + 1 ≤ j := by omega
      have h2 : ¬ b + 8 * w * j < 8 * w * i + 8 * w := by
        have : 8 * w * (i + 1) ≤ 8 * w * j := Nat.mul_le_mul_left _ hij
        rw [Nat.mul_succ] at this; omega
      rw [if_neg h2, Nat.testBit_div_two_pow]
      congr 1; omega
  · simp [hb]

/-- A slot names an element below the modulus of its width. -/
theorem elemAt_lt (v w i : Nat) : elemAt v w i < 2 ^ (8 * w) := Nat.mod_lt _ (Nat.pow_pos (by decide))

/-- A field is below the modulus of its width. -/
theorem fld_lt (v hi lo : Nat) : fld v hi lo < 2 ^ (hi - lo + 1) := Nat.mod_lt _ (Nat.pow_pos (by decide))

/-- Bit k of a field is bit lo + k of the number. -/
theorem testBit_fld (v hi lo k : Nat) : (fld v hi lo).testBit k = (decide (k < hi - lo + 1) && v.testBit (lo + k)) := by
  unfold fld
  rw [Nat.testBit_mod_two_pow, Nat.testBit_shiftRight]

end Sys2Proof.Machine.Laws
end

