-- ==== Sys2Proof/Laws/Mem.lean ====
section
/-! SUPPORT. The laws of tables and byte memories: read after write, the canonical form, and bytes of numbers. -/

namespace Sys2Proof.Machine.Laws

/- Tables. -/

/-- A table reads at a key that was set as what was set, and elsewhere as before, whatever its order. -/
theorem tblGet_tblSet {α : Type} (d : α) (t : Tbl α) (i j : Nat) (v : α) :
    tblGet d (tblSet t i v) j = if j = i then v else tblGet d t j := by
  have sym (k : Nat) : (k = j) = (j = k) := propext eq_comm
  induction t with
  | nil => simp only [tblSet, tblGet, sym]
  | cons e rest ih =>
    obtain ⟨k, w⟩ := e
    by_cases h1 : i < k
    · simp only [tblSet, h1, if_true, tblGet, sym]
    · by_cases h2 : i = k
      · subst h2
        simp only [tblSet, Nat.lt_irrefl, if_true, if_false, tblGet, sym]
        split <;> rfl
      · simp only [tblSet, h1, h2, if_false, tblGet, sym, ih]
        by_cases h3 : j = k
        · have : ¬ k = i := fun h => h2 h.symm
          simp [h3, this]
        · simp [h3]

@[simp] theorem tblGet_tblSet_self {α : Type} (d : α) (t : Tbl α) (i : Nat) (v : α) : tblGet d (tblSet t i v) i = v := by
  simp [tblGet_tblSet]

theorem tblGet_tblSet_ne {α : Type} (d : α) (t : Tbl α) {i j : Nat} (v : α) (h : j ≠ i) :
    tblGet d (tblSet t i v) j = tblGet d t j := by simp [tblGet_tblSet, h]

/-- Setting a key twice is setting it once. -/
@[simp] theorem tblSet_tblSet {α : Type} (t : Tbl α) (i : Nat) (v w : α) : tblSet (tblSet t i v) i w = tblSet t i w := by
  induction t with
  | nil => simp [tblSet]
  | cons e rest ih =>
    obtain ⟨k, u⟩ := e
    by_cases h1 : i < k
    · simp [tblSet, h1]
    · by_cases h2 : i = k
      · simp [tblSet, h2]
      · simp [tblSet, h1, h2, ih]

/-- A table reads at a key that was deleted as its default, and elsewhere as before. -/
theorem tblGet_tblDel {α : Type} (d : α) (t : Tbl α) (i j : Nat) :
    tblGet d (tblDel t i) j = if j = i then d else tblGet d t j := by
  induction t with
  | nil => simp [tblDel, tblGet]
  | cons e rest ih =>
    obtain ⟨k, w⟩ := e
    unfold tblDel at ih ⊢
    by_cases h : k = i
    · simp only [List.filter_cons, h, ne_eq, not_true_eq_false, decide_false, Bool.false_eq_true, ite_false, ih, tblGet]
      by_cases hj : j = i
      · simp [hj]
      · simp [hj, Ne.symm hj]
    · simp only [List.filter_cons, h, ne_eq, not_false_eq_true, decide_true, ite_true, tblGet, ih]
      by_cases hj : j = i
      · simp [hj, h]
      · simp [hj]

@[simp] theorem tblGet_tblDel_self {α : Type} (d : α) (t : Tbl α) (i : Nat) : tblGet d (tblDel t i) i = d := by
  simp [tblGet_tblDel]

/- One byte of memory. -/

/-- A memory reads at an address that was written as what was written, and elsewhere as before. -/
theorem memGet_memSet (m : List Host.Cell) (a : Nat) (b : Byte) (j : Nat) :
    memGet (memSet m a b) j = if j = a then b else memGet m j := by
  unfold memGet memSet
  split
  · subst_vars; exact tblGet_tblDel 0 m a j
  · exact tblGet_tblSet 0 m a j b

/- The canonical form. -/

/-- The canonical form from a bound holds from a lower bound. -/
theorem memWfFrom_mono {l l' : Nat} {m : List Host.Cell} (h : memWfFrom (some l) m = true) (hl : l' ≤ l) :
    memWfFrom (some l') m = true := by
  cases m with
  | nil => rfl
  | cons e rest =>
    obtain ⟨a, b⟩ := e
    simp only [memWfFrom, Bool.and_eq_true, decide_eq_true_eq] at h ⊢
    exact ⟨⟨by omega, h.1.2⟩, h.2⟩

/-- The canonical form from a bound is a canonical form. -/
theorem memWfFrom_none {l : Nat} {m : List Host.Cell} (h : memWfFrom (some l) m = true) : memWfFrom none m = true := by
  cases m with
  | nil => rfl
  | cons e rest =>
    obtain ⟨a, b⟩ := e
    simp only [memWfFrom, Bool.and_eq_true, decide_eq_true_eq] at h ⊢
    exact ⟨⟨trivial, h.1.2⟩, h.2⟩

/-- Deleting a key keeps the canonical form from any bound. -/
theorem memWfFrom_tblDel (m : List Host.Cell) (a l : Nat) (h : memWfFrom (some l) m = true) :
    memWfFrom (some l) (tblDel m a) = true := by
  induction m generalizing l with
  | nil => rfl
  | cons e rest ih =>
    obtain ⟨k, b⟩ := e
    simp only [memWfFrom, Bool.and_eq_true, decide_eq_true_eq] at h
    unfold tblDel at ih ⊢
    simp only [List.filter_cons]
    split
    · simp only [memWfFrom, Bool.and_eq_true, decide_eq_true_eq]
      exact ⟨h.1, ih k h.2⟩
    · exact memWfFrom_mono (ih k h.2) (by omega)

/-- Setting a key above a bound to a byte other than 0 keeps the canonical form from that bound. -/
theorem memWfFrom_tblSet (m : List Host.Cell) (a l : Nat) (b : Byte) (hb : b ≠ 0) (hl : l < a) (h : memWfFrom (some l) m = true) :
    memWfFrom (some l) (tblSet m a b) = true := by
  induction m generalizing l with
  | nil => simpa [tblSet, memWfFrom, hl] using hb
  | cons e rest ih =>
    obtain ⟨k, w⟩ := e
    simp only [memWfFrom, Bool.and_eq_true, decide_eq_true_eq] at h
    simp only [tblSet]
    split
    · simp only [memWfFrom, Bool.and_eq_true, decide_eq_true_eq]
      exact ⟨⟨hl, hb⟩, ⟨by assumption, h.1.2⟩, h.2⟩
    · split
      · subst_vars
        simp only [memWfFrom, Bool.and_eq_true, decide_eq_true_eq]
        exact ⟨⟨hl, hb⟩, h.2⟩
      · simp only [memWfFrom, Bool.and_eq_true, decide_eq_true_eq]
        exact ⟨h.1, ih k (by omega) h.2⟩

/-- Writing a byte keeps the canonical form. -/
theorem memSet_wf (m : List Host.Cell) (a : Nat) (b : Byte) (h : Memory.wf m = true) : Memory.wf (memSet m a b) = true := by
  unfold Memory.wf at h ⊢
  cases m with
  | nil =>
    unfold memSet
    split
    · rfl
    · rename_i hb
      simpa [tblSet, memWfFrom] using hb
  | cons e rest =>
    obtain ⟨k, w⟩ := e
    simp only [memWfFrom, Bool.and_eq_true, decide_eq_true_eq] at h
    unfold memSet
    split
    · unfold tblDel
      simp only [List.filter_cons]
      split
      · simp only [memWfFrom, Bool.and_eq_true, decide_eq_true_eq]
        exact ⟨⟨trivial, h.1.2⟩, memWfFrom_tblDel rest a k h.2⟩
      · exact memWfFrom_none (memWfFrom_tblDel rest a k h.2)
    · rename_i hb
      simp only [tblSet]
      split
      · simp only [memWfFrom, Bool.and_eq_true, decide_eq_true_eq]
        exact ⟨⟨trivial, hb⟩, ⟨by assumption, h.1.2⟩, h.2⟩
      · split
        · subst_vars
          simp only [memWfFrom, Bool.and_eq_true, decide_eq_true_eq]
          exact ⟨⟨trivial, hb⟩, h.2⟩
        · simp only [memWfFrom, Bool.and_eq_true, decide_eq_true_eq]
          exact ⟨⟨trivial, h.1.2⟩, memWfFrom_tblSet rest a k b hb (by omega) h.2⟩

/-- Writing bytes keeps the canonical form. -/
theorem memWrite_wf (bs : List Byte) : ∀ (m : List Host.Cell) (a : Nat), Memory.wf m = true → Memory.wf (memWrite m a bs) = true := by
  induction bs with
  | nil => exact fun _ _ h => h
  | cons b rest ih => exact fun m a h => ih _ _ (memSet_wf m a b h)

/-- Writing cells keeps the canonical form. -/
theorem memWriteCells_wf (cells : List Host.Cell) :
    ∀ m : List Host.Cell, Memory.wf m = true → Memory.wf (memWriteCells m cells) = true := by
  induction cells with
  | nil => exact fun _ h => h
  | cons c rest ih => obtain ⟨a, b⟩ := c; exact fun m h => ih _ (memSet_wf m a b h)

/-- The empty memory has the canonical form. -/
theorem empty_wf : Memory.wf [] = true := rfl

/- Numbers and bytes. -/

@[simp] theorem leBytes_length (n v : Nat) : (leBytes n v).length = n := by
  induction n generalizing v with
  | zero => rfl
  | succ n ih => simp [leBytes, ih]

/-- The bytes of a number give its low bytes back. -/
theorem leNat_leBytes (n v : Nat) : leNat (leBytes n v) = v % 2 ^ (8 * n) := by
  induction n generalizing v with
  | zero => simp [leBytes, leNat, Nat.mod_one]
  | succ n ih =>
    have e : 2 ^ (8 * (n + 1)) = 256 * 2 ^ (8 * n) := by
      rw [Nat.mul_add, Nat.pow_add, Nat.mul_comm]
    simp only [leBytes, leNat, ih, BitVec.toNat_ofNat, e, Nat.mod_mul]

/-- A number of n bytes is below 256^n. -/
theorem leNat_lt (bs : List Byte) : leNat bs < 2 ^ (8 * bs.length) := by
  induction bs with
  | nil => simp [leNat]
  | cons b rest ih =>
    have hb := b.isLt
    have e : 2 ^ (8 * (rest.length + 1)) = 256 * 2 ^ (8 * rest.length) := by
      rw [Nat.mul_add, Nat.pow_add, Nat.mul_comm]
    simp only [leNat, List.length_cons, e]
    omega

@[simp] theorem memBytes_length (m : List Host.Cell) (a n : Nat) : (memBytes m a n).length = n := by simp [memBytes]

end Sys2Proof.Machine.Laws
end

