-- ==== Sys2Proof/Laws/State.lean ====
section
/-! SUPPORT. The small laws of the state: what each update of one part of it leaves alone, and what it finds again. -/

namespace Sys2Proof.Machine.Laws

/- setHart changes harts only. -/

@[simp] theorem setHart_now (s : State) (h : Nat) (v : Hart) : (s.setHart h v).now = s.now := rfl
@[simp] theorem setHart_cur (s : State) (h : Nat) (v : Hart) : (s.setHart h v).cur = s.cur := rfl
@[simp] theorem setHart_turn (s : State) (h : Nat) (v : Hart) : (s.setHart h v).turn = s.turn := rfl
@[simp] theorem setHart_actAt (s : State) (h : Nat) (v : Hart) : (s.setHart h v).actAt = s.actAt := rfl
@[simp] theorem setHart_actLast (s : State) (h : Nat) (v : Hart) : (s.setHart h v).actLast = s.actLast := rfl
@[simp] theorem setHart_agenda (s : State) (h : Nat) (v : Hart) : (s.setHart h v).agenda = s.agenda := rfl
@[simp] theorem setHart_free (s : State) (h : Nat) (v : Hart) : (s.setHart h v).free = s.free := rfl
@[simp] theorem setHart_boot (s : State) (h : Nat) (v : Hart) : (s.setHart h v).boot = s.boot := rfl
@[simp] theorem setHart_cores (s : State) (h : Nat) (v : Hart) : (s.setHart h v).cores = s.cores := rfl
@[simp] theorem setHart_clusters (s : State) (h : Nat) (v : Hart) : (s.setHart h v).clusters = s.clusters := rfl
@[simp] theorem setHart_dies (s : State) (h : Nat) (v : Hart) : (s.setHart h v).dies = s.dies := rfl
@[simp] theorem setHart_parts (s : State) (h : Nat) (v : Hart) : (s.setHart h v).parts = s.parts := rfl
@[simp] theorem setHart_funcs (s : State) (h : Nat) (v : Hart) : (s.setHart h v).funcs = s.funcs := rfl
@[simp] theorem setHart_heads (s : State) (h : Nat) (v : Hart) : (s.setHart h v).heads = s.heads := rfl
@[simp] theorem setHart_engines (s : State) (h : Nat) (v : Hart) : (s.setHart h v).engines = s.engines := rfl
@[simp] theorem setHart_regions (s : State) (h : Nat) (v : Hart) : (s.setHart h v).regions = s.regions := rfl
@[simp] theorem setHart_sieve (s : State) (h : Nat) (v : Hart) : (s.setHart h v).sieve = s.sieve := rfl
@[simp] theorem setHart_weighbridge (s : State) (h : Nat) (v : Hart) : (s.setHart h v).weighbridge = s.weighbridge := rfl
@[simp] theorem setHart_graphs (s : State) (h : Nat) (v : Hart) : (s.setHart h v).graphs = s.graphs := rfl
@[simp] theorem setHart_listQueues (s : State) (h : Nat) (v : Hart) : (s.setHart h v).listQueues = s.listQueues := rfl
@[simp] theorem setHart_units (s : State) (h : Nat) (v : Hart) : (s.setHart h v).units = s.units := rfl
@[simp] theorem setHart_descents (s : State) (h : Nat) (v : Hart) : (s.setHart h v).descents = s.descents := rfl
@[simp] theorem setHart_nextId (s : State) (h : Nat) (v : Hart) : (s.setHart h v).nextId = s.nextId := rfl
@[simp] theorem setHart_mem (s : State) (h : Nat) (v : Hart) : (s.setHart h v).mem = s.mem := rfl
@[simp] theorem setHart_hostMem (s : State) (h : Nat) (v : Hart) : (s.setHart h v).hostMem = s.hostMem := rfl
@[simp] theorem setHart_dir (s : State) (h : Nat) (v : Hart) : (s.setHart h v).dir = s.dir := rfl
@[simp] theorem setHart_frames (s : State) (h : Nat) (v : Hart) : (s.setHart h v).frames = s.frames := rfl
@[simp] theorem setHart_failing (s : State) (h : Nat) (v : Hart) : (s.setHart h v).failing = s.failing := rfl
@[simp] theorem setHart_flaws (s : State) (h : Nat) (v : Hart) : (s.setHart h v).flaws = s.flaws := rfl
@[simp] theorem setHart_monitor (s : State) (h : Nat) (v : Hart) : (s.setHart h v).monitor = s.monitor := rfl
@[simp] theorem setHart_traffic (s : State) (h : Nat) (v : Hart) : (s.setHart h v).traffic = s.traffic := rfl
@[simp] theorem setHart_ports (s : State) (h : Nat) (v : Hart) : (s.setHart h v).ports = s.ports := rfl
@[simp] theorem setHart_routes (s : State) (h : Nat) (v : Hart) : (s.setHart h v).routes = s.routes := rfl
@[simp] theorem setHart_link (s : State) (h : Nat) (v : Hart) : (s.setHart h v).link = s.link := rfl
@[simp] theorem setHart_out (s : State) (h : Nat) (v : Hart) : (s.setHart h v).out = s.out := rfl
@[simp] theorem setHart_pagesRefused (s : State) (h : Nat) (v : Hart) : (s.setHart h v).pagesRefused = s.pagesRefused := rfl
@[simp] theorem setHart_pwrCap (s : State) (h : Nat) (v : Hart) : (s.setHart h v).pwrCap = s.pwrCap := rfl
@[simp] theorem setHart_powerW (s : State) (h : Nat) (v : Hart) : (s.setHart h v).powerW = s.powerW := rfl
@[simp] theorem setHart_dbgCore (s : State) (h : Nat) (v : Hart) : (s.setHart h v).dbgCore = s.dbgCore := rfl
@[simp] theorem setHart_dbgEn (s : State) (h : Nat) (v : Hart) : (s.setHart h v).dbgEn = s.dbgEn := rfl
@[simp] theorem setHart_vfsOff (s : State) (h : Nat) (v : Hart) : (s.setHart h v).vfsOff = s.vfsOff := rfl

/- modHart changes harts only. -/

@[simp] theorem modHart_now (s : State) (h : Nat) (f : Hart → Hart) : (s.modHart h f).now = s.now := rfl
@[simp] theorem modHart_cur (s : State) (h : Nat) (f : Hart → Hart) : (s.modHart h f).cur = s.cur := rfl
@[simp] theorem modHart_turn (s : State) (h : Nat) (f : Hart → Hart) : (s.modHart h f).turn = s.turn := rfl
@[simp] theorem modHart_actAt (s : State) (h : Nat) (f : Hart → Hart) : (s.modHart h f).actAt = s.actAt := rfl
@[simp] theorem modHart_actLast (s : State) (h : Nat) (f : Hart → Hart) : (s.modHart h f).actLast = s.actLast := rfl
@[simp] theorem modHart_agenda (s : State) (h : Nat) (f : Hart → Hart) : (s.modHart h f).agenda = s.agenda := rfl
@[simp] theorem modHart_free (s : State) (h : Nat) (f : Hart → Hart) : (s.modHart h f).free = s.free := rfl
@[simp] theorem modHart_boot (s : State) (h : Nat) (f : Hart → Hart) : (s.modHart h f).boot = s.boot := rfl
@[simp] theorem modHart_cores (s : State) (h : Nat) (f : Hart → Hart) : (s.modHart h f).cores = s.cores := rfl
@[simp] theorem modHart_clusters (s : State) (h : Nat) (f : Hart → Hart) : (s.modHart h f).clusters = s.clusters := rfl
@[simp] theorem modHart_dies (s : State) (h : Nat) (f : Hart → Hart) : (s.modHart h f).dies = s.dies := rfl
@[simp] theorem modHart_parts (s : State) (h : Nat) (f : Hart → Hart) : (s.modHart h f).parts = s.parts := rfl
@[simp] theorem modHart_funcs (s : State) (h : Nat) (f : Hart → Hart) : (s.modHart h f).funcs = s.funcs := rfl
@[simp] theorem modHart_heads (s : State) (h : Nat) (f : Hart → Hart) : (s.modHart h f).heads = s.heads := rfl
@[simp] theorem modHart_engines (s : State) (h : Nat) (f : Hart → Hart) : (s.modHart h f).engines = s.engines := rfl
@[simp] theorem modHart_regions (s : State) (h : Nat) (f : Hart → Hart) : (s.modHart h f).regions = s.regions := rfl
@[simp] theorem modHart_sieve (s : State) (h : Nat) (f : Hart → Hart) : (s.modHart h f).sieve = s.sieve := rfl
@[simp] theorem modHart_weighbridge (s : State) (h : Nat) (f : Hart → Hart) : (s.modHart h f).weighbridge = s.weighbridge := rfl
@[simp] theorem modHart_graphs (s : State) (h : Nat) (f : Hart → Hart) : (s.modHart h f).graphs = s.graphs := rfl
@[simp] theorem modHart_listQueues (s : State) (h : Nat) (f : Hart → Hart) : (s.modHart h f).listQueues = s.listQueues := rfl
@[simp] theorem modHart_units (s : State) (h : Nat) (f : Hart → Hart) : (s.modHart h f).units = s.units := rfl
@[simp] theorem modHart_descents (s : State) (h : Nat) (f : Hart → Hart) : (s.modHart h f).descents = s.descents := rfl
@[simp] theorem modHart_nextId (s : State) (h : Nat) (f : Hart → Hart) : (s.modHart h f).nextId = s.nextId := rfl
@[simp] theorem modHart_mem (s : State) (h : Nat) (f : Hart → Hart) : (s.modHart h f).mem = s.mem := rfl
@[simp] theorem modHart_hostMem (s : State) (h : Nat) (f : Hart → Hart) : (s.modHart h f).hostMem = s.hostMem := rfl
@[simp] theorem modHart_dir (s : State) (h : Nat) (f : Hart → Hart) : (s.modHart h f).dir = s.dir := rfl
@[simp] theorem modHart_frames (s : State) (h : Nat) (f : Hart → Hart) : (s.modHart h f).frames = s.frames := rfl
@[simp] theorem modHart_failing (s : State) (h : Nat) (f : Hart → Hart) : (s.modHart h f).failing = s.failing := rfl
@[simp] theorem modHart_flaws (s : State) (h : Nat) (f : Hart → Hart) : (s.modHart h f).flaws = s.flaws := rfl
@[simp] theorem modHart_monitor (s : State) (h : Nat) (f : Hart → Hart) : (s.modHart h f).monitor = s.monitor := rfl
@[simp] theorem modHart_traffic (s : State) (h : Nat) (f : Hart → Hart) : (s.modHart h f).traffic = s.traffic := rfl
@[simp] theorem modHart_ports (s : State) (h : Nat) (f : Hart → Hart) : (s.modHart h f).ports = s.ports := rfl
@[simp] theorem modHart_routes (s : State) (h : Nat) (f : Hart → Hart) : (s.modHart h f).routes = s.routes := rfl
@[simp] theorem modHart_link (s : State) (h : Nat) (f : Hart → Hart) : (s.modHart h f).link = s.link := rfl
@[simp] theorem modHart_out (s : State) (h : Nat) (f : Hart → Hart) : (s.modHart h f).out = s.out := rfl
@[simp] theorem modHart_pagesRefused (s : State) (h : Nat) (f : Hart → Hart) : (s.modHart h f).pagesRefused = s.pagesRefused := rfl
@[simp] theorem modHart_pwrCap (s : State) (h : Nat) (f : Hart → Hart) : (s.modHart h f).pwrCap = s.pwrCap := rfl
@[simp] theorem modHart_powerW (s : State) (h : Nat) (f : Hart → Hart) : (s.modHart h f).powerW = s.powerW := rfl
@[simp] theorem modHart_dbgCore (s : State) (h : Nat) (f : Hart → Hart) : (s.modHart h f).dbgCore = s.dbgCore := rfl
@[simp] theorem modHart_dbgEn (s : State) (h : Nat) (f : Hart → Hart) : (s.modHart h f).dbgEn = s.dbgEn := rfl
@[simp] theorem modHart_vfsOff (s : State) (h : Nat) (f : Hart → Hart) : (s.modHart h f).vfsOff = s.vfsOff := rfl

/- setCore changes cores only. -/

@[simp] theorem setCore_now (s : State) (u : Nat) (v : Core) : (s.setCore u v).now = s.now := rfl
@[simp] theorem setCore_cur (s : State) (u : Nat) (v : Core) : (s.setCore u v).cur = s.cur := rfl
@[simp] theorem setCore_turn (s : State) (u : Nat) (v : Core) : (s.setCore u v).turn = s.turn := rfl
@[simp] theorem setCore_actAt (s : State) (u : Nat) (v : Core) : (s.setCore u v).actAt = s.actAt := rfl
@[simp] theorem setCore_actLast (s : State) (u : Nat) (v : Core) : (s.setCore u v).actLast = s.actLast := rfl
@[simp] theorem setCore_agenda (s : State) (u : Nat) (v : Core) : (s.setCore u v).agenda = s.agenda := rfl
@[simp] theorem setCore_free (s : State) (u : Nat) (v : Core) : (s.setCore u v).free = s.free := rfl
@[simp] theorem setCore_boot (s : State) (u : Nat) (v : Core) : (s.setCore u v).boot = s.boot := rfl
@[simp] theorem setCore_harts (s : State) (u : Nat) (v : Core) : (s.setCore u v).harts = s.harts := rfl
@[simp] theorem setCore_clusters (s : State) (u : Nat) (v : Core) : (s.setCore u v).clusters = s.clusters := rfl
@[simp] theorem setCore_dies (s : State) (u : Nat) (v : Core) : (s.setCore u v).dies = s.dies := rfl
@[simp] theorem setCore_parts (s : State) (u : Nat) (v : Core) : (s.setCore u v).parts = s.parts := rfl
@[simp] theorem setCore_funcs (s : State) (u : Nat) (v : Core) : (s.setCore u v).funcs = s.funcs := rfl
@[simp] theorem setCore_heads (s : State) (u : Nat) (v : Core) : (s.setCore u v).heads = s.heads := rfl
@[simp] theorem setCore_engines (s : State) (u : Nat) (v : Core) : (s.setCore u v).engines = s.engines := rfl
@[simp] theorem setCore_regions (s : State) (u : Nat) (v : Core) : (s.setCore u v).regions = s.regions := rfl
@[simp] theorem setCore_sieve (s : State) (u : Nat) (v : Core) : (s.setCore u v).sieve = s.sieve := rfl
@[simp] theorem setCore_weighbridge (s : State) (u : Nat) (v : Core) : (s.setCore u v).weighbridge = s.weighbridge := rfl
@[simp] theorem setCore_graphs (s : State) (u : Nat) (v : Core) : (s.setCore u v).graphs = s.graphs := rfl
@[simp] theorem setCore_listQueues (s : State) (u : Nat) (v : Core) : (s.setCore u v).listQueues = s.listQueues := rfl
@[simp] theorem setCore_units (s : State) (u : Nat) (v : Core) : (s.setCore u v).units = s.units := rfl
@[simp] theorem setCore_descents (s : State) (u : Nat) (v : Core) : (s.setCore u v).descents = s.descents := rfl
@[simp] theorem setCore_nextId (s : State) (u : Nat) (v : Core) : (s.setCore u v).nextId = s.nextId := rfl
@[simp] theorem setCore_mem (s : State) (u : Nat) (v : Core) : (s.setCore u v).mem = s.mem := rfl
@[simp] theorem setCore_hostMem (s : State) (u : Nat) (v : Core) : (s.setCore u v).hostMem = s.hostMem := rfl
@[simp] theorem setCore_dir (s : State) (u : Nat) (v : Core) : (s.setCore u v).dir = s.dir := rfl
@[simp] theorem setCore_frames (s : State) (u : Nat) (v : Core) : (s.setCore u v).frames = s.frames := rfl
@[simp] theorem setCore_failing (s : State) (u : Nat) (v : Core) : (s.setCore u v).failing = s.failing := rfl
@[simp] theorem setCore_flaws (s : State) (u : Nat) (v : Core) : (s.setCore u v).flaws = s.flaws := rfl
@[simp] theorem setCore_monitor (s : State) (u : Nat) (v : Core) : (s.setCore u v).monitor = s.monitor := rfl
@[simp] theorem setCore_traffic (s : State) (u : Nat) (v : Core) : (s.setCore u v).traffic = s.traffic := rfl
@[simp] theorem setCore_ports (s : State) (u : Nat) (v : Core) : (s.setCore u v).ports = s.ports := rfl
@[simp] theorem setCore_routes (s : State) (u : Nat) (v : Core) : (s.setCore u v).routes = s.routes := rfl
@[simp] theorem setCore_link (s : State) (u : Nat) (v : Core) : (s.setCore u v).link = s.link := rfl
@[simp] theorem setCore_out (s : State) (u : Nat) (v : Core) : (s.setCore u v).out = s.out := rfl
@[simp] theorem setCore_pagesRefused (s : State) (u : Nat) (v : Core) : (s.setCore u v).pagesRefused = s.pagesRefused := rfl
@[simp] theorem setCore_pwrCap (s : State) (u : Nat) (v : Core) : (s.setCore u v).pwrCap = s.pwrCap := rfl
@[simp] theorem setCore_powerW (s : State) (u : Nat) (v : Core) : (s.setCore u v).powerW = s.powerW := rfl
@[simp] theorem setCore_dbgCore (s : State) (u : Nat) (v : Core) : (s.setCore u v).dbgCore = s.dbgCore := rfl
@[simp] theorem setCore_dbgEn (s : State) (u : Nat) (v : Core) : (s.setCore u v).dbgEn = s.dbgEn := rfl
@[simp] theorem setCore_vfsOff (s : State) (u : Nat) (v : Core) : (s.setCore u v).vfsOff = s.vfsOff := rfl

/- modCore changes cores only. -/

@[simp] theorem modCore_now (s : State) (u : Nat) (f : Core → Core) : (s.modCore u f).now = s.now := rfl
@[simp] theorem modCore_cur (s : State) (u : Nat) (f : Core → Core) : (s.modCore u f).cur = s.cur := rfl
@[simp] theorem modCore_turn (s : State) (u : Nat) (f : Core → Core) : (s.modCore u f).turn = s.turn := rfl
@[simp] theorem modCore_actAt (s : State) (u : Nat) (f : Core → Core) : (s.modCore u f).actAt = s.actAt := rfl
@[simp] theorem modCore_actLast (s : State) (u : Nat) (f : Core → Core) : (s.modCore u f).actLast = s.actLast := rfl
@[simp] theorem modCore_agenda (s : State) (u : Nat) (f : Core → Core) : (s.modCore u f).agenda = s.agenda := rfl
@[simp] theorem modCore_free (s : State) (u : Nat) (f : Core → Core) : (s.modCore u f).free = s.free := rfl
@[simp] theorem modCore_boot (s : State) (u : Nat) (f : Core → Core) : (s.modCore u f).boot = s.boot := rfl
@[simp] theorem modCore_harts (s : State) (u : Nat) (f : Core → Core) : (s.modCore u f).harts = s.harts := rfl
@[simp] theorem modCore_clusters (s : State) (u : Nat) (f : Core → Core) : (s.modCore u f).clusters = s.clusters := rfl
@[simp] theorem modCore_dies (s : State) (u : Nat) (f : Core → Core) : (s.modCore u f).dies = s.dies := rfl
@[simp] theorem modCore_parts (s : State) (u : Nat) (f : Core → Core) : (s.modCore u f).parts = s.parts := rfl
@[simp] theorem modCore_funcs (s : State) (u : Nat) (f : Core → Core) : (s.modCore u f).funcs = s.funcs := rfl
@[simp] theorem modCore_heads (s : State) (u : Nat) (f : Core → Core) : (s.modCore u f).heads = s.heads := rfl
@[simp] theorem modCore_engines (s : State) (u : Nat) (f : Core → Core) : (s.modCore u f).engines = s.engines := rfl
@[simp] theorem modCore_regions (s : State) (u : Nat) (f : Core → Core) : (s.modCore u f).regions = s.regions := rfl
@[simp] theorem modCore_sieve (s : State) (u : Nat) (f : Core → Core) : (s.modCore u f).sieve = s.sieve := rfl
@[simp] theorem modCore_weighbridge (s : State) (u : Nat) (f : Core → Core) : (s.modCore u f).weighbridge = s.weighbridge := rfl
@[simp] theorem modCore_graphs (s : State) (u : Nat) (f : Core → Core) : (s.modCore u f).graphs = s.graphs := rfl
@[simp] theorem modCore_listQueues (s : State) (u : Nat) (f : Core → Core) : (s.modCore u f).listQueues = s.listQueues := rfl
@[simp] theorem modCore_units (s : State) (u : Nat) (f : Core → Core) : (s.modCore u f).units = s.units := rfl
@[simp] theorem modCore_descents (s : State) (u : Nat) (f : Core → Core) : (s.modCore u f).descents = s.descents := rfl
@[simp] theorem modCore_nextId (s : State) (u : Nat) (f : Core → Core) : (s.modCore u f).nextId = s.nextId := rfl
@[simp] theorem modCore_mem (s : State) (u : Nat) (f : Core → Core) : (s.modCore u f).mem = s.mem := rfl
@[simp] theorem modCore_hostMem (s : State) (u : Nat) (f : Core → Core) : (s.modCore u f).hostMem = s.hostMem := rfl
@[simp] theorem modCore_dir (s : State) (u : Nat) (f : Core → Core) : (s.modCore u f).dir = s.dir := rfl
@[simp] theorem modCore_frames (s : State) (u : Nat) (f : Core → Core) : (s.modCore u f).frames = s.frames := rfl
@[simp] theorem modCore_failing (s : State) (u : Nat) (f : Core → Core) : (s.modCore u f).failing = s.failing := rfl
@[simp] theorem modCore_flaws (s : State) (u : Nat) (f : Core → Core) : (s.modCore u f).flaws = s.flaws := rfl
@[simp] theorem modCore_monitor (s : State) (u : Nat) (f : Core → Core) : (s.modCore u f).monitor = s.monitor := rfl
@[simp] theorem modCore_traffic (s : State) (u : Nat) (f : Core → Core) : (s.modCore u f).traffic = s.traffic := rfl
@[simp] theorem modCore_ports (s : State) (u : Nat) (f : Core → Core) : (s.modCore u f).ports = s.ports := rfl
@[simp] theorem modCore_routes (s : State) (u : Nat) (f : Core → Core) : (s.modCore u f).routes = s.routes := rfl
@[simp] theorem modCore_link (s : State) (u : Nat) (f : Core → Core) : (s.modCore u f).link = s.link := rfl
@[simp] theorem modCore_out (s : State) (u : Nat) (f : Core → Core) : (s.modCore u f).out = s.out := rfl
@[simp] theorem modCore_pagesRefused (s : State) (u : Nat) (f : Core → Core) : (s.modCore u f).pagesRefused = s.pagesRefused := rfl
@[simp] theorem modCore_pwrCap (s : State) (u : Nat) (f : Core → Core) : (s.modCore u f).pwrCap = s.pwrCap := rfl
@[simp] theorem modCore_powerW (s : State) (u : Nat) (f : Core → Core) : (s.modCore u f).powerW = s.powerW := rfl
@[simp] theorem modCore_dbgCore (s : State) (u : Nat) (f : Core → Core) : (s.modCore u f).dbgCore = s.dbgCore := rfl
@[simp] theorem modCore_dbgEn (s : State) (u : Nat) (f : Core → Core) : (s.modCore u f).dbgEn = s.dbgEn := rfl
@[simp] theorem modCore_vfsOff (s : State) (u : Nat) (f : Core → Core) : (s.modCore u f).vfsOff = s.vfsOff := rfl

/- modCluster changes clusters only. -/

@[simp] theorem modCluster_now (s : State) (c : Nat) (f : Cluster → Cluster) : (s.modCluster c f).now = s.now := rfl
@[simp] theorem modCluster_cur (s : State) (c : Nat) (f : Cluster → Cluster) : (s.modCluster c f).cur = s.cur := rfl
@[simp] theorem modCluster_turn (s : State) (c : Nat) (f : Cluster → Cluster) : (s.modCluster c f).turn = s.turn := rfl
@[simp] theorem modCluster_actAt (s : State) (c : Nat) (f : Cluster → Cluster) : (s.modCluster c f).actAt = s.actAt := rfl
@[simp] theorem modCluster_actLast (s : State) (c : Nat) (f : Cluster → Cluster) : (s.modCluster c f).actLast = s.actLast := rfl
@[simp] theorem modCluster_agenda (s : State) (c : Nat) (f : Cluster → Cluster) : (s.modCluster c f).agenda = s.agenda := rfl
@[simp] theorem modCluster_free (s : State) (c : Nat) (f : Cluster → Cluster) : (s.modCluster c f).free = s.free := rfl
@[simp] theorem modCluster_boot (s : State) (c : Nat) (f : Cluster → Cluster) : (s.modCluster c f).boot = s.boot := rfl
@[simp] theorem modCluster_harts (s : State) (c : Nat) (f : Cluster → Cluster) : (s.modCluster c f).harts = s.harts := rfl
@[simp] theorem modCluster_cores (s : State) (c : Nat) (f : Cluster → Cluster) : (s.modCluster c f).cores = s.cores := rfl
@[simp] theorem modCluster_dies (s : State) (c : Nat) (f : Cluster → Cluster) : (s.modCluster c f).dies = s.dies := rfl
@[simp] theorem modCluster_parts (s : State) (c : Nat) (f : Cluster → Cluster) : (s.modCluster c f).parts = s.parts := rfl
@[simp] theorem modCluster_funcs (s : State) (c : Nat) (f : Cluster → Cluster) : (s.modCluster c f).funcs = s.funcs := rfl
@[simp] theorem modCluster_heads (s : State) (c : Nat) (f : Cluster → Cluster) : (s.modCluster c f).heads = s.heads := rfl
@[simp] theorem modCluster_engines (s : State) (c : Nat) (f : Cluster → Cluster) : (s.modCluster c f).engines = s.engines := rfl
@[simp] theorem modCluster_regions (s : State) (c : Nat) (f : Cluster → Cluster) : (s.modCluster c f).regions = s.regions := rfl
@[simp] theorem modCluster_sieve (s : State) (c : Nat) (f : Cluster → Cluster) : (s.modCluster c f).sieve = s.sieve := rfl
@[simp] theorem modCluster_weighbridge (s : State) (c : Nat) (f : Cluster → Cluster) : (s.modCluster c f).weighbridge = s.weighbridge := rfl
@[simp] theorem modCluster_graphs (s : State) (c : Nat) (f : Cluster → Cluster) : (s.modCluster c f).graphs = s.graphs := rfl
@[simp] theorem modCluster_listQueues (s : State) (c : Nat) (f : Cluster → Cluster) : (s.modCluster c f).listQueues = s.listQueues := rfl
@[simp] theorem modCluster_units (s : State) (c : Nat) (f : Cluster → Cluster) : (s.modCluster c f).units = s.units := rfl
@[simp] theorem modCluster_descents (s : State) (c : Nat) (f : Cluster → Cluster) : (s.modCluster c f).descents = s.descents := rfl
@[simp] theorem modCluster_nextId (s : State) (c : Nat) (f : Cluster → Cluster) : (s.modCluster c f).nextId = s.nextId := rfl
@[simp] theorem modCluster_mem (s : State) (c : Nat) (f : Cluster → Cluster) : (s.modCluster c f).mem = s.mem := rfl
@[simp] theorem modCluster_hostMem (s : State) (c : Nat) (f : Cluster → Cluster) : (s.modCluster c f).hostMem = s.hostMem := rfl
@[simp] theorem modCluster_dir (s : State) (c : Nat) (f : Cluster → Cluster) : (s.modCluster c f).dir = s.dir := rfl
@[simp] theorem modCluster_frames (s : State) (c : Nat) (f : Cluster → Cluster) : (s.modCluster c f).frames = s.frames := rfl
@[simp] theorem modCluster_failing (s : State) (c : Nat) (f : Cluster → Cluster) : (s.modCluster c f).failing = s.failing := rfl
@[simp] theorem modCluster_flaws (s : State) (c : Nat) (f : Cluster → Cluster) : (s.modCluster c f).flaws = s.flaws := rfl
@[simp] theorem modCluster_monitor (s : State) (c : Nat) (f : Cluster → Cluster) : (s.modCluster c f).monitor = s.monitor := rfl
@[simp] theorem modCluster_traffic (s : State) (c : Nat) (f : Cluster → Cluster) : (s.modCluster c f).traffic = s.traffic := rfl
@[simp] theorem modCluster_ports (s : State) (c : Nat) (f : Cluster → Cluster) : (s.modCluster c f).ports = s.ports := rfl
@[simp] theorem modCluster_routes (s : State) (c : Nat) (f : Cluster → Cluster) : (s.modCluster c f).routes = s.routes := rfl
@[simp] theorem modCluster_link (s : State) (c : Nat) (f : Cluster → Cluster) : (s.modCluster c f).link = s.link := rfl
@[simp] theorem modCluster_out (s : State) (c : Nat) (f : Cluster → Cluster) : (s.modCluster c f).out = s.out := rfl
@[simp] theorem modCluster_pagesRefused (s : State) (c : Nat) (f : Cluster → Cluster) : (s.modCluster c f).pagesRefused = s.pagesRefused := rfl
@[simp] theorem modCluster_pwrCap (s : State) (c : Nat) (f : Cluster → Cluster) : (s.modCluster c f).pwrCap = s.pwrCap := rfl
@[simp] theorem modCluster_powerW (s : State) (c : Nat) (f : Cluster → Cluster) : (s.modCluster c f).powerW = s.powerW := rfl
@[simp] theorem modCluster_dbgCore (s : State) (c : Nat) (f : Cluster → Cluster) : (s.modCluster c f).dbgCore = s.dbgCore := rfl
@[simp] theorem modCluster_dbgEn (s : State) (c : Nat) (f : Cluster → Cluster) : (s.modCluster c f).dbgEn = s.dbgEn := rfl
@[simp] theorem modCluster_vfsOff (s : State) (c : Nat) (f : Cluster → Cluster) : (s.modCluster c f).vfsOff = s.vfsOff := rfl

/- modDie changes dies only. -/

@[simp] theorem modDie_now (s : State) (d : Nat) (f : Die → Die) : (s.modDie d f).now = s.now := rfl
@[simp] theorem modDie_cur (s : State) (d : Nat) (f : Die → Die) : (s.modDie d f).cur = s.cur := rfl
@[simp] theorem modDie_turn (s : State) (d : Nat) (f : Die → Die) : (s.modDie d f).turn = s.turn := rfl
@[simp] theorem modDie_actAt (s : State) (d : Nat) (f : Die → Die) : (s.modDie d f).actAt = s.actAt := rfl
@[simp] theorem modDie_actLast (s : State) (d : Nat) (f : Die → Die) : (s.modDie d f).actLast = s.actLast := rfl
@[simp] theorem modDie_agenda (s : State) (d : Nat) (f : Die → Die) : (s.modDie d f).agenda = s.agenda := rfl
@[simp] theorem modDie_free (s : State) (d : Nat) (f : Die → Die) : (s.modDie d f).free = s.free := rfl
@[simp] theorem modDie_boot (s : State) (d : Nat) (f : Die → Die) : (s.modDie d f).boot = s.boot := rfl
@[simp] theorem modDie_harts (s : State) (d : Nat) (f : Die → Die) : (s.modDie d f).harts = s.harts := rfl
@[simp] theorem modDie_cores (s : State) (d : Nat) (f : Die → Die) : (s.modDie d f).cores = s.cores := rfl
@[simp] theorem modDie_clusters (s : State) (d : Nat) (f : Die → Die) : (s.modDie d f).clusters = s.clusters := rfl
@[simp] theorem modDie_parts (s : State) (d : Nat) (f : Die → Die) : (s.modDie d f).parts = s.parts := rfl
@[simp] theorem modDie_funcs (s : State) (d : Nat) (f : Die → Die) : (s.modDie d f).funcs = s.funcs := rfl
@[simp] theorem modDie_heads (s : State) (d : Nat) (f : Die → Die) : (s.modDie d f).heads = s.heads := rfl
@[simp] theorem modDie_engines (s : State) (d : Nat) (f : Die → Die) : (s.modDie d f).engines = s.engines := rfl
@[simp] theorem modDie_regions (s : State) (d : Nat) (f : Die → Die) : (s.modDie d f).regions = s.regions := rfl
@[simp] theorem modDie_sieve (s : State) (d : Nat) (f : Die → Die) : (s.modDie d f).sieve = s.sieve := rfl
@[simp] theorem modDie_weighbridge (s : State) (d : Nat) (f : Die → Die) : (s.modDie d f).weighbridge = s.weighbridge := rfl
@[simp] theorem modDie_graphs (s : State) (d : Nat) (f : Die → Die) : (s.modDie d f).graphs = s.graphs := rfl
@[simp] theorem modDie_listQueues (s : State) (d : Nat) (f : Die → Die) : (s.modDie d f).listQueues = s.listQueues := rfl
@[simp] theorem modDie_units (s : State) (d : Nat) (f : Die → Die) : (s.modDie d f).units = s.units := rfl
@[simp] theorem modDie_descents (s : State) (d : Nat) (f : Die → Die) : (s.modDie d f).descents = s.descents := rfl
@[simp] theorem modDie_nextId (s : State) (d : Nat) (f : Die → Die) : (s.modDie d f).nextId = s.nextId := rfl
@[simp] theorem modDie_mem (s : State) (d : Nat) (f : Die → Die) : (s.modDie d f).mem = s.mem := rfl
@[simp] theorem modDie_hostMem (s : State) (d : Nat) (f : Die → Die) : (s.modDie d f).hostMem = s.hostMem := rfl
@[simp] theorem modDie_dir (s : State) (d : Nat) (f : Die → Die) : (s.modDie d f).dir = s.dir := rfl
@[simp] theorem modDie_frames (s : State) (d : Nat) (f : Die → Die) : (s.modDie d f).frames = s.frames := rfl
@[simp] theorem modDie_failing (s : State) (d : Nat) (f : Die → Die) : (s.modDie d f).failing = s.failing := rfl
@[simp] theorem modDie_flaws (s : State) (d : Nat) (f : Die → Die) : (s.modDie d f).flaws = s.flaws := rfl
@[simp] theorem modDie_monitor (s : State) (d : Nat) (f : Die → Die) : (s.modDie d f).monitor = s.monitor := rfl
@[simp] theorem modDie_traffic (s : State) (d : Nat) (f : Die → Die) : (s.modDie d f).traffic = s.traffic := rfl
@[simp] theorem modDie_ports (s : State) (d : Nat) (f : Die → Die) : (s.modDie d f).ports = s.ports := rfl
@[simp] theorem modDie_routes (s : State) (d : Nat) (f : Die → Die) : (s.modDie d f).routes = s.routes := rfl
@[simp] theorem modDie_link (s : State) (d : Nat) (f : Die → Die) : (s.modDie d f).link = s.link := rfl
@[simp] theorem modDie_out (s : State) (d : Nat) (f : Die → Die) : (s.modDie d f).out = s.out := rfl
@[simp] theorem modDie_pagesRefused (s : State) (d : Nat) (f : Die → Die) : (s.modDie d f).pagesRefused = s.pagesRefused := rfl
@[simp] theorem modDie_pwrCap (s : State) (d : Nat) (f : Die → Die) : (s.modDie d f).pwrCap = s.pwrCap := rfl
@[simp] theorem modDie_powerW (s : State) (d : Nat) (f : Die → Die) : (s.modDie d f).powerW = s.powerW := rfl
@[simp] theorem modDie_dbgCore (s : State) (d : Nat) (f : Die → Die) : (s.modDie d f).dbgCore = s.dbgCore := rfl
@[simp] theorem modDie_dbgEn (s : State) (d : Nat) (f : Die → Die) : (s.modDie d f).dbgEn = s.dbgEn := rfl
@[simp] theorem modDie_vfsOff (s : State) (d : Nat) (f : Die → Die) : (s.modDie d f).vfsOff = s.vfsOff := rfl

/- modPart changes parts only. -/

@[simp] theorem modPart_now (s : State) (p : Nat) (f : Partition → Partition) : (s.modPart p f).now = s.now := rfl
@[simp] theorem modPart_cur (s : State) (p : Nat) (f : Partition → Partition) : (s.modPart p f).cur = s.cur := rfl
@[simp] theorem modPart_turn (s : State) (p : Nat) (f : Partition → Partition) : (s.modPart p f).turn = s.turn := rfl
@[simp] theorem modPart_actAt (s : State) (p : Nat) (f : Partition → Partition) : (s.modPart p f).actAt = s.actAt := rfl
@[simp] theorem modPart_actLast (s : State) (p : Nat) (f : Partition → Partition) : (s.modPart p f).actLast = s.actLast := rfl
@[simp] theorem modPart_agenda (s : State) (p : Nat) (f : Partition → Partition) : (s.modPart p f).agenda = s.agenda := rfl
@[simp] theorem modPart_free (s : State) (p : Nat) (f : Partition → Partition) : (s.modPart p f).free = s.free := rfl
@[simp] theorem modPart_boot (s : State) (p : Nat) (f : Partition → Partition) : (s.modPart p f).boot = s.boot := rfl
@[simp] theorem modPart_harts (s : State) (p : Nat) (f : Partition → Partition) : (s.modPart p f).harts = s.harts := rfl
@[simp] theorem modPart_cores (s : State) (p : Nat) (f : Partition → Partition) : (s.modPart p f).cores = s.cores := rfl
@[simp] theorem modPart_clusters (s : State) (p : Nat) (f : Partition → Partition) : (s.modPart p f).clusters = s.clusters := rfl
@[simp] theorem modPart_dies (s : State) (p : Nat) (f : Partition → Partition) : (s.modPart p f).dies = s.dies := rfl
@[simp] theorem modPart_funcs (s : State) (p : Nat) (f : Partition → Partition) : (s.modPart p f).funcs = s.funcs := rfl
@[simp] theorem modPart_heads (s : State) (p : Nat) (f : Partition → Partition) : (s.modPart p f).heads = s.heads := rfl
@[simp] theorem modPart_engines (s : State) (p : Nat) (f : Partition → Partition) : (s.modPart p f).engines = s.engines := rfl
@[simp] theorem modPart_regions (s : State) (p : Nat) (f : Partition → Partition) : (s.modPart p f).regions = s.regions := rfl
@[simp] theorem modPart_sieve (s : State) (p : Nat) (f : Partition → Partition) : (s.modPart p f).sieve = s.sieve := rfl
@[simp] theorem modPart_weighbridge (s : State) (p : Nat) (f : Partition → Partition) : (s.modPart p f).weighbridge = s.weighbridge := rfl
@[simp] theorem modPart_graphs (s : State) (p : Nat) (f : Partition → Partition) : (s.modPart p f).graphs = s.graphs := rfl
@[simp] theorem modPart_listQueues (s : State) (p : Nat) (f : Partition → Partition) : (s.modPart p f).listQueues = s.listQueues := rfl
@[simp] theorem modPart_units (s : State) (p : Nat) (f : Partition → Partition) : (s.modPart p f).units = s.units := rfl
@[simp] theorem modPart_descents (s : State) (p : Nat) (f : Partition → Partition) : (s.modPart p f).descents = s.descents := rfl
@[simp] theorem modPart_nextId (s : State) (p : Nat) (f : Partition → Partition) : (s.modPart p f).nextId = s.nextId := rfl
@[simp] theorem modPart_mem (s : State) (p : Nat) (f : Partition → Partition) : (s.modPart p f).mem = s.mem := rfl
@[simp] theorem modPart_hostMem (s : State) (p : Nat) (f : Partition → Partition) : (s.modPart p f).hostMem = s.hostMem := rfl
@[simp] theorem modPart_dir (s : State) (p : Nat) (f : Partition → Partition) : (s.modPart p f).dir = s.dir := rfl
@[simp] theorem modPart_frames (s : State) (p : Nat) (f : Partition → Partition) : (s.modPart p f).frames = s.frames := rfl
@[simp] theorem modPart_failing (s : State) (p : Nat) (f : Partition → Partition) : (s.modPart p f).failing = s.failing := rfl
@[simp] theorem modPart_flaws (s : State) (p : Nat) (f : Partition → Partition) : (s.modPart p f).flaws = s.flaws := rfl
@[simp] theorem modPart_monitor (s : State) (p : Nat) (f : Partition → Partition) : (s.modPart p f).monitor = s.monitor := rfl
@[simp] theorem modPart_traffic (s : State) (p : Nat) (f : Partition → Partition) : (s.modPart p f).traffic = s.traffic := rfl
@[simp] theorem modPart_ports (s : State) (p : Nat) (f : Partition → Partition) : (s.modPart p f).ports = s.ports := rfl
@[simp] theorem modPart_routes (s : State) (p : Nat) (f : Partition → Partition) : (s.modPart p f).routes = s.routes := rfl
@[simp] theorem modPart_link (s : State) (p : Nat) (f : Partition → Partition) : (s.modPart p f).link = s.link := rfl
@[simp] theorem modPart_out (s : State) (p : Nat) (f : Partition → Partition) : (s.modPart p f).out = s.out := rfl
@[simp] theorem modPart_pagesRefused (s : State) (p : Nat) (f : Partition → Partition) : (s.modPart p f).pagesRefused = s.pagesRefused := rfl
@[simp] theorem modPart_pwrCap (s : State) (p : Nat) (f : Partition → Partition) : (s.modPart p f).pwrCap = s.pwrCap := rfl
@[simp] theorem modPart_powerW (s : State) (p : Nat) (f : Partition → Partition) : (s.modPart p f).powerW = s.powerW := rfl
@[simp] theorem modPart_dbgCore (s : State) (p : Nat) (f : Partition → Partition) : (s.modPart p f).dbgCore = s.dbgCore := rfl
@[simp] theorem modPart_dbgEn (s : State) (p : Nat) (f : Partition → Partition) : (s.modPart p f).dbgEn = s.dbgEn := rfl
@[simp] theorem modPart_vfsOff (s : State) (p : Nat) (f : Partition → Partition) : (s.modPart p f).vfsOff = s.vfsOff := rfl

/- modFunc changes funcs only. -/

@[simp] theorem modFunc_now (s : State) (n : Nat) (f : Func → Func) : (s.modFunc n f).now = s.now := rfl
@[simp] theorem modFunc_cur (s : State) (n : Nat) (f : Func → Func) : (s.modFunc n f).cur = s.cur := rfl
@[simp] theorem modFunc_turn (s : State) (n : Nat) (f : Func → Func) : (s.modFunc n f).turn = s.turn := rfl
@[simp] theorem modFunc_actAt (s : State) (n : Nat) (f : Func → Func) : (s.modFunc n f).actAt = s.actAt := rfl
@[simp] theorem modFunc_actLast (s : State) (n : Nat) (f : Func → Func) : (s.modFunc n f).actLast = s.actLast := rfl
@[simp] theorem modFunc_agenda (s : State) (n : Nat) (f : Func → Func) : (s.modFunc n f).agenda = s.agenda := rfl
@[simp] theorem modFunc_free (s : State) (n : Nat) (f : Func → Func) : (s.modFunc n f).free = s.free := rfl
@[simp] theorem modFunc_boot (s : State) (n : Nat) (f : Func → Func) : (s.modFunc n f).boot = s.boot := rfl
@[simp] theorem modFunc_harts (s : State) (n : Nat) (f : Func → Func) : (s.modFunc n f).harts = s.harts := rfl
@[simp] theorem modFunc_cores (s : State) (n : Nat) (f : Func → Func) : (s.modFunc n f).cores = s.cores := rfl
@[simp] theorem modFunc_clusters (s : State) (n : Nat) (f : Func → Func) : (s.modFunc n f).clusters = s.clusters := rfl
@[simp] theorem modFunc_dies (s : State) (n : Nat) (f : Func → Func) : (s.modFunc n f).dies = s.dies := rfl
@[simp] theorem modFunc_parts (s : State) (n : Nat) (f : Func → Func) : (s.modFunc n f).parts = s.parts := rfl
@[simp] theorem modFunc_heads (s : State) (n : Nat) (f : Func → Func) : (s.modFunc n f).heads = s.heads := rfl
@[simp] theorem modFunc_engines (s : State) (n : Nat) (f : Func → Func) : (s.modFunc n f).engines = s.engines := rfl
@[simp] theorem modFunc_regions (s : State) (n : Nat) (f : Func → Func) : (s.modFunc n f).regions = s.regions := rfl
@[simp] theorem modFunc_sieve (s : State) (n : Nat) (f : Func → Func) : (s.modFunc n f).sieve = s.sieve := rfl
@[simp] theorem modFunc_weighbridge (s : State) (n : Nat) (f : Func → Func) : (s.modFunc n f).weighbridge = s.weighbridge := rfl
@[simp] theorem modFunc_graphs (s : State) (n : Nat) (f : Func → Func) : (s.modFunc n f).graphs = s.graphs := rfl
@[simp] theorem modFunc_listQueues (s : State) (n : Nat) (f : Func → Func) : (s.modFunc n f).listQueues = s.listQueues := rfl
@[simp] theorem modFunc_units (s : State) (n : Nat) (f : Func → Func) : (s.modFunc n f).units = s.units := rfl
@[simp] theorem modFunc_descents (s : State) (n : Nat) (f : Func → Func) : (s.modFunc n f).descents = s.descents := rfl
@[simp] theorem modFunc_nextId (s : State) (n : Nat) (f : Func → Func) : (s.modFunc n f).nextId = s.nextId := rfl
@[simp] theorem modFunc_mem (s : State) (n : Nat) (f : Func → Func) : (s.modFunc n f).mem = s.mem := rfl
@[simp] theorem modFunc_hostMem (s : State) (n : Nat) (f : Func → Func) : (s.modFunc n f).hostMem = s.hostMem := rfl
@[simp] theorem modFunc_dir (s : State) (n : Nat) (f : Func → Func) : (s.modFunc n f).dir = s.dir := rfl
@[simp] theorem modFunc_frames (s : State) (n : Nat) (f : Func → Func) : (s.modFunc n f).frames = s.frames := rfl
@[simp] theorem modFunc_failing (s : State) (n : Nat) (f : Func → Func) : (s.modFunc n f).failing = s.failing := rfl
@[simp] theorem modFunc_flaws (s : State) (n : Nat) (f : Func → Func) : (s.modFunc n f).flaws = s.flaws := rfl
@[simp] theorem modFunc_monitor (s : State) (n : Nat) (f : Func → Func) : (s.modFunc n f).monitor = s.monitor := rfl
@[simp] theorem modFunc_traffic (s : State) (n : Nat) (f : Func → Func) : (s.modFunc n f).traffic = s.traffic := rfl
@[simp] theorem modFunc_ports (s : State) (n : Nat) (f : Func → Func) : (s.modFunc n f).ports = s.ports := rfl
@[simp] theorem modFunc_routes (s : State) (n : Nat) (f : Func → Func) : (s.modFunc n f).routes = s.routes := rfl
@[simp] theorem modFunc_link (s : State) (n : Nat) (f : Func → Func) : (s.modFunc n f).link = s.link := rfl
@[simp] theorem modFunc_out (s : State) (n : Nat) (f : Func → Func) : (s.modFunc n f).out = s.out := rfl
@[simp] theorem modFunc_pagesRefused (s : State) (n : Nat) (f : Func → Func) : (s.modFunc n f).pagesRefused = s.pagesRefused := rfl
@[simp] theorem modFunc_pwrCap (s : State) (n : Nat) (f : Func → Func) : (s.modFunc n f).pwrCap = s.pwrCap := rfl
@[simp] theorem modFunc_powerW (s : State) (n : Nat) (f : Func → Func) : (s.modFunc n f).powerW = s.powerW := rfl
@[simp] theorem modFunc_dbgCore (s : State) (n : Nat) (f : Func → Func) : (s.modFunc n f).dbgCore = s.dbgCore := rfl
@[simp] theorem modFunc_dbgEn (s : State) (n : Nat) (f : Func → Func) : (s.modFunc n f).dbgEn = s.dbgEn := rfl
@[simp] theorem modFunc_vfsOff (s : State) (n : Nat) (f : Func → Func) : (s.modFunc n f).vfsOff = s.vfsOff := rfl

/- modQueue changes funcs only. -/

@[simp] theorem modQueue_now (s : State) (n q : Nat) (f : Queue → Queue) : (s.modQueue n q f).now = s.now := rfl
@[simp] theorem modQueue_cur (s : State) (n q : Nat) (f : Queue → Queue) : (s.modQueue n q f).cur = s.cur := rfl
@[simp] theorem modQueue_turn (s : State) (n q : Nat) (f : Queue → Queue) : (s.modQueue n q f).turn = s.turn := rfl
@[simp] theorem modQueue_actAt (s : State) (n q : Nat) (f : Queue → Queue) : (s.modQueue n q f).actAt = s.actAt := rfl
@[simp] theorem modQueue_actLast (s : State) (n q : Nat) (f : Queue → Queue) : (s.modQueue n q f).actLast = s.actLast := rfl
@[simp] theorem modQueue_agenda (s : State) (n q : Nat) (f : Queue → Queue) : (s.modQueue n q f).agenda = s.agenda := rfl
@[simp] theorem modQueue_free (s : State) (n q : Nat) (f : Queue → Queue) : (s.modQueue n q f).free = s.free := rfl
@[simp] theorem modQueue_boot (s : State) (n q : Nat) (f : Queue → Queue) : (s.modQueue n q f).boot = s.boot := rfl
@[simp] theorem modQueue_harts (s : State) (n q : Nat) (f : Queue → Queue) : (s.modQueue n q f).harts = s.harts := rfl
@[simp] theorem modQueue_cores (s : State) (n q : Nat) (f : Queue → Queue) : (s.modQueue n q f).cores = s.cores := rfl
@[simp] theorem modQueue_clusters (s : State) (n q : Nat) (f : Queue → Queue) : (s.modQueue n q f).clusters = s.clusters := rfl
@[simp] theorem modQueue_dies (s : State) (n q : Nat) (f : Queue → Queue) : (s.modQueue n q f).dies = s.dies := rfl
@[simp] theorem modQueue_parts (s : State) (n q : Nat) (f : Queue → Queue) : (s.modQueue n q f).parts = s.parts := rfl
@[simp] theorem modQueue_heads (s : State) (n q : Nat) (f : Queue → Queue) : (s.modQueue n q f).heads = s.heads := rfl
@[simp] theorem modQueue_engines (s : State) (n q : Nat) (f : Queue → Queue) : (s.modQueue n q f).engines = s.engines := rfl
@[simp] theorem modQueue_regions (s : State) (n q : Nat) (f : Queue → Queue) : (s.modQueue n q f).regions = s.regions := rfl
@[simp] theorem modQueue_sieve (s : State) (n q : Nat) (f : Queue → Queue) : (s.modQueue n q f).sieve = s.sieve := rfl
@[simp] theorem modQueue_weighbridge (s : State) (n q : Nat) (f : Queue → Queue) : (s.modQueue n q f).weighbridge = s.weighbridge := rfl
@[simp] theorem modQueue_graphs (s : State) (n q : Nat) (f : Queue → Queue) : (s.modQueue n q f).graphs = s.graphs := rfl
@[simp] theorem modQueue_listQueues (s : State) (n q : Nat) (f : Queue → Queue) : (s.modQueue n q f).listQueues = s.listQueues := rfl
@[simp] theorem modQueue_units (s : State) (n q : Nat) (f : Queue → Queue) : (s.modQueue n q f).units = s.units := rfl
@[simp] theorem modQueue_descents (s : State) (n q : Nat) (f : Queue → Queue) : (s.modQueue n q f).descents = s.descents := rfl
@[simp] theorem modQueue_nextId (s : State) (n q : Nat) (f : Queue → Queue) : (s.modQueue n q f).nextId = s.nextId := rfl
@[simp] theorem modQueue_mem (s : State) (n q : Nat) (f : Queue → Queue) : (s.modQueue n q f).mem = s.mem := rfl
@[simp] theorem modQueue_hostMem (s : State) (n q : Nat) (f : Queue → Queue) : (s.modQueue n q f).hostMem = s.hostMem := rfl
@[simp] theorem modQueue_dir (s : State) (n q : Nat) (f : Queue → Queue) : (s.modQueue n q f).dir = s.dir := rfl
@[simp] theorem modQueue_frames (s : State) (n q : Nat) (f : Queue → Queue) : (s.modQueue n q f).frames = s.frames := rfl
@[simp] theorem modQueue_failing (s : State) (n q : Nat) (f : Queue → Queue) : (s.modQueue n q f).failing = s.failing := rfl
@[simp] theorem modQueue_flaws (s : State) (n q : Nat) (f : Queue → Queue) : (s.modQueue n q f).flaws = s.flaws := rfl
@[simp] theorem modQueue_monitor (s : State) (n q : Nat) (f : Queue → Queue) : (s.modQueue n q f).monitor = s.monitor := rfl
@[simp] theorem modQueue_traffic (s : State) (n q : Nat) (f : Queue → Queue) : (s.modQueue n q f).traffic = s.traffic := rfl
@[simp] theorem modQueue_ports (s : State) (n q : Nat) (f : Queue → Queue) : (s.modQueue n q f).ports = s.ports := rfl
@[simp] theorem modQueue_routes (s : State) (n q : Nat) (f : Queue → Queue) : (s.modQueue n q f).routes = s.routes := rfl
@[simp] theorem modQueue_link (s : State) (n q : Nat) (f : Queue → Queue) : (s.modQueue n q f).link = s.link := rfl
@[simp] theorem modQueue_out (s : State) (n q : Nat) (f : Queue → Queue) : (s.modQueue n q f).out = s.out := rfl
@[simp] theorem modQueue_pagesRefused (s : State) (n q : Nat) (f : Queue → Queue) : (s.modQueue n q f).pagesRefused = s.pagesRefused := rfl
@[simp] theorem modQueue_pwrCap (s : State) (n q : Nat) (f : Queue → Queue) : (s.modQueue n q f).pwrCap = s.pwrCap := rfl
@[simp] theorem modQueue_powerW (s : State) (n q : Nat) (f : Queue → Queue) : (s.modQueue n q f).powerW = s.powerW := rfl
@[simp] theorem modQueue_dbgCore (s : State) (n q : Nat) (f : Queue → Queue) : (s.modQueue n q f).dbgCore = s.dbgCore := rfl
@[simp] theorem modQueue_dbgEn (s : State) (n q : Nat) (f : Queue → Queue) : (s.modQueue n q f).dbgEn = s.dbgEn := rfl
@[simp] theorem modQueue_vfsOff (s : State) (n q : Nat) (f : Queue → Queue) : (s.modQueue n q f).vfsOff = s.vfsOff := rfl

/- modHead changes heads only. -/

@[simp] theorem modHead_now (s : State) (h : Nat) (f : Head → Head) : (s.modHead h f).now = s.now := rfl
@[simp] theorem modHead_cur (s : State) (h : Nat) (f : Head → Head) : (s.modHead h f).cur = s.cur := rfl
@[simp] theorem modHead_turn (s : State) (h : Nat) (f : Head → Head) : (s.modHead h f).turn = s.turn := rfl
@[simp] theorem modHead_actAt (s : State) (h : Nat) (f : Head → Head) : (s.modHead h f).actAt = s.actAt := rfl
@[simp] theorem modHead_actLast (s : State) (h : Nat) (f : Head → Head) : (s.modHead h f).actLast = s.actLast := rfl
@[simp] theorem modHead_agenda (s : State) (h : Nat) (f : Head → Head) : (s.modHead h f).agenda = s.agenda := rfl
@[simp] theorem modHead_free (s : State) (h : Nat) (f : Head → Head) : (s.modHead h f).free = s.free := rfl
@[simp] theorem modHead_boot (s : State) (h : Nat) (f : Head → Head) : (s.modHead h f).boot = s.boot := rfl
@[simp] theorem modHead_harts (s : State) (h : Nat) (f : Head → Head) : (s.modHead h f).harts = s.harts := rfl
@[simp] theorem modHead_cores (s : State) (h : Nat) (f : Head → Head) : (s.modHead h f).cores = s.cores := rfl
@[simp] theorem modHead_clusters (s : State) (h : Nat) (f : Head → Head) : (s.modHead h f).clusters = s.clusters := rfl
@[simp] theorem modHead_dies (s : State) (h : Nat) (f : Head → Head) : (s.modHead h f).dies = s.dies := rfl
@[simp] theorem modHead_parts (s : State) (h : Nat) (f : Head → Head) : (s.modHead h f).parts = s.parts := rfl
@[simp] theorem modHead_funcs (s : State) (h : Nat) (f : Head → Head) : (s.modHead h f).funcs = s.funcs := rfl
@[simp] theorem modHead_engines (s : State) (h : Nat) (f : Head → Head) : (s.modHead h f).engines = s.engines := rfl
@[simp] theorem modHead_regions (s : State) (h : Nat) (f : Head → Head) : (s.modHead h f).regions = s.regions := rfl
@[simp] theorem modHead_sieve (s : State) (h : Nat) (f : Head → Head) : (s.modHead h f).sieve = s.sieve := rfl
@[simp] theorem modHead_weighbridge (s : State) (h : Nat) (f : Head → Head) : (s.modHead h f).weighbridge = s.weighbridge := rfl
@[simp] theorem modHead_graphs (s : State) (h : Nat) (f : Head → Head) : (s.modHead h f).graphs = s.graphs := rfl
@[simp] theorem modHead_listQueues (s : State) (h : Nat) (f : Head → Head) : (s.modHead h f).listQueues = s.listQueues := rfl
@[simp] theorem modHead_units (s : State) (h : Nat) (f : Head → Head) : (s.modHead h f).units = s.units := rfl
@[simp] theorem modHead_descents (s : State) (h : Nat) (f : Head → Head) : (s.modHead h f).descents = s.descents := rfl
@[simp] theorem modHead_nextId (s : State) (h : Nat) (f : Head → Head) : (s.modHead h f).nextId = s.nextId := rfl
@[simp] theorem modHead_mem (s : State) (h : Nat) (f : Head → Head) : (s.modHead h f).mem = s.mem := rfl
@[simp] theorem modHead_hostMem (s : State) (h : Nat) (f : Head → Head) : (s.modHead h f).hostMem = s.hostMem := rfl
@[simp] theorem modHead_dir (s : State) (h : Nat) (f : Head → Head) : (s.modHead h f).dir = s.dir := rfl
@[simp] theorem modHead_frames (s : State) (h : Nat) (f : Head → Head) : (s.modHead h f).frames = s.frames := rfl
@[simp] theorem modHead_failing (s : State) (h : Nat) (f : Head → Head) : (s.modHead h f).failing = s.failing := rfl
@[simp] theorem modHead_flaws (s : State) (h : Nat) (f : Head → Head) : (s.modHead h f).flaws = s.flaws := rfl
@[simp] theorem modHead_monitor (s : State) (h : Nat) (f : Head → Head) : (s.modHead h f).monitor = s.monitor := rfl
@[simp] theorem modHead_traffic (s : State) (h : Nat) (f : Head → Head) : (s.modHead h f).traffic = s.traffic := rfl
@[simp] theorem modHead_ports (s : State) (h : Nat) (f : Head → Head) : (s.modHead h f).ports = s.ports := rfl
@[simp] theorem modHead_routes (s : State) (h : Nat) (f : Head → Head) : (s.modHead h f).routes = s.routes := rfl
@[simp] theorem modHead_link (s : State) (h : Nat) (f : Head → Head) : (s.modHead h f).link = s.link := rfl
@[simp] theorem modHead_out (s : State) (h : Nat) (f : Head → Head) : (s.modHead h f).out = s.out := rfl
@[simp] theorem modHead_pagesRefused (s : State) (h : Nat) (f : Head → Head) : (s.modHead h f).pagesRefused = s.pagesRefused := rfl
@[simp] theorem modHead_pwrCap (s : State) (h : Nat) (f : Head → Head) : (s.modHead h f).pwrCap = s.pwrCap := rfl
@[simp] theorem modHead_powerW (s : State) (h : Nat) (f : Head → Head) : (s.modHead h f).powerW = s.powerW := rfl
@[simp] theorem modHead_dbgCore (s : State) (h : Nat) (f : Head → Head) : (s.modHead h f).dbgCore = s.dbgCore := rfl
@[simp] theorem modHead_dbgEn (s : State) (h : Nat) (f : Head → Head) : (s.modHead h f).dbgEn = s.dbgEn := rfl
@[simp] theorem modHead_vfsOff (s : State) (h : Nat) (f : Head → Head) : (s.modHead h f).vfsOff = s.vfsOff := rfl

/- schedule changes agenda only. -/

@[simp] theorem schedule_now (s : State) (n : Nat) (i : Instr) : (s.schedule n i).now = s.now := rfl
@[simp] theorem schedule_cur (s : State) (n : Nat) (i : Instr) : (s.schedule n i).cur = s.cur := rfl
@[simp] theorem schedule_turn (s : State) (n : Nat) (i : Instr) : (s.schedule n i).turn = s.turn := rfl
@[simp] theorem schedule_actAt (s : State) (n : Nat) (i : Instr) : (s.schedule n i).actAt = s.actAt := rfl
@[simp] theorem schedule_actLast (s : State) (n : Nat) (i : Instr) : (s.schedule n i).actLast = s.actLast := rfl
@[simp] theorem schedule_free (s : State) (n : Nat) (i : Instr) : (s.schedule n i).free = s.free := rfl
@[simp] theorem schedule_boot (s : State) (n : Nat) (i : Instr) : (s.schedule n i).boot = s.boot := rfl
@[simp] theorem schedule_harts (s : State) (n : Nat) (i : Instr) : (s.schedule n i).harts = s.harts := rfl
@[simp] theorem schedule_cores (s : State) (n : Nat) (i : Instr) : (s.schedule n i).cores = s.cores := rfl
@[simp] theorem schedule_clusters (s : State) (n : Nat) (i : Instr) : (s.schedule n i).clusters = s.clusters := rfl
@[simp] theorem schedule_dies (s : State) (n : Nat) (i : Instr) : (s.schedule n i).dies = s.dies := rfl
@[simp] theorem schedule_parts (s : State) (n : Nat) (i : Instr) : (s.schedule n i).parts = s.parts := rfl
@[simp] theorem schedule_funcs (s : State) (n : Nat) (i : Instr) : (s.schedule n i).funcs = s.funcs := rfl
@[simp] theorem schedule_heads (s : State) (n : Nat) (i : Instr) : (s.schedule n i).heads = s.heads := rfl
@[simp] theorem schedule_engines (s : State) (n : Nat) (i : Instr) : (s.schedule n i).engines = s.engines := rfl
@[simp] theorem schedule_regions (s : State) (n : Nat) (i : Instr) : (s.schedule n i).regions = s.regions := rfl
@[simp] theorem schedule_sieve (s : State) (n : Nat) (i : Instr) : (s.schedule n i).sieve = s.sieve := rfl
@[simp] theorem schedule_weighbridge (s : State) (n : Nat) (i : Instr) : (s.schedule n i).weighbridge = s.weighbridge := rfl
@[simp] theorem schedule_graphs (s : State) (n : Nat) (i : Instr) : (s.schedule n i).graphs = s.graphs := rfl
@[simp] theorem schedule_listQueues (s : State) (n : Nat) (i : Instr) : (s.schedule n i).listQueues = s.listQueues := rfl
@[simp] theorem schedule_units (s : State) (n : Nat) (i : Instr) : (s.schedule n i).units = s.units := rfl
@[simp] theorem schedule_descents (s : State) (n : Nat) (i : Instr) : (s.schedule n i).descents = s.descents := rfl
@[simp] theorem schedule_nextId (s : State) (n : Nat) (i : Instr) : (s.schedule n i).nextId = s.nextId := rfl
@[simp] theorem schedule_mem (s : State) (n : Nat) (i : Instr) : (s.schedule n i).mem = s.mem := rfl
@[simp] theorem schedule_hostMem (s : State) (n : Nat) (i : Instr) : (s.schedule n i).hostMem = s.hostMem := rfl
@[simp] theorem schedule_dir (s : State) (n : Nat) (i : Instr) : (s.schedule n i).dir = s.dir := rfl
@[simp] theorem schedule_frames (s : State) (n : Nat) (i : Instr) : (s.schedule n i).frames = s.frames := rfl
@[simp] theorem schedule_failing (s : State) (n : Nat) (i : Instr) : (s.schedule n i).failing = s.failing := rfl
@[simp] theorem schedule_flaws (s : State) (n : Nat) (i : Instr) : (s.schedule n i).flaws = s.flaws := rfl
@[simp] theorem schedule_monitor (s : State) (n : Nat) (i : Instr) : (s.schedule n i).monitor = s.monitor := rfl
@[simp] theorem schedule_traffic (s : State) (n : Nat) (i : Instr) : (s.schedule n i).traffic = s.traffic := rfl
@[simp] theorem schedule_ports (s : State) (n : Nat) (i : Instr) : (s.schedule n i).ports = s.ports := rfl
@[simp] theorem schedule_routes (s : State) (n : Nat) (i : Instr) : (s.schedule n i).routes = s.routes := rfl
@[simp] theorem schedule_link (s : State) (n : Nat) (i : Instr) : (s.schedule n i).link = s.link := rfl
@[simp] theorem schedule_out (s : State) (n : Nat) (i : Instr) : (s.schedule n i).out = s.out := rfl
@[simp] theorem schedule_pagesRefused (s : State) (n : Nat) (i : Instr) : (s.schedule n i).pagesRefused = s.pagesRefused := rfl
@[simp] theorem schedule_pwrCap (s : State) (n : Nat) (i : Instr) : (s.schedule n i).pwrCap = s.pwrCap := rfl
@[simp] theorem schedule_powerW (s : State) (n : Nat) (i : Instr) : (s.schedule n i).powerW = s.powerW := rfl
@[simp] theorem schedule_dbgCore (s : State) (n : Nat) (i : Instr) : (s.schedule n i).dbgCore = s.dbgCore := rfl
@[simp] theorem schedule_dbgEn (s : State) (n : Nat) (i : Instr) : (s.schedule n i).dbgEn = s.dbgEn := rfl
@[simp] theorem schedule_vfsOff (s : State) (n : Nat) (i : Instr) : (s.schedule n i).vfsOff = s.vfsOff := rfl
/- What a part of the state reads as after it was set. -/

theorem hart_setHart (s : State) (h k : Nat) (v : Hart) : (s.setHart h v).hart k = if k = h then v else s.hart k := by
  simp only [State.hart, State.setHart, tblGet_tblSet]

@[simp] theorem hart_setHart_self (s : State) (h : Nat) (v : Hart) : (s.setHart h v).hart h = v := by simp [hart_setHart]

theorem hart_modHart (s : State) (h k : Nat) (f : Hart → Hart) : (s.modHart h f).hart k = if k = h then f (s.hart h) else s.hart k := by
  simp only [State.modHart, hart_setHart]

@[simp] theorem hart_modHart_self (s : State) (h : Nat) (f : Hart → Hart) : (s.modHart h f).hart h = f (s.hart h) := by
  simp [hart_modHart]

theorem core_setCore (s : State) (u k : Nat) (v : Core) : (s.setCore u v).core k = if k = u then v else s.core k := by
  simp only [State.core, State.setCore, tblGet_tblSet]

@[simp] theorem core_setCore_self (s : State) (u : Nat) (v : Core) : (s.setCore u v).core u = v := by simp [core_setCore]

theorem core_modCore (s : State) (u k : Nat) (f : Core → Core) : (s.modCore u f).core k = if k = u then f (s.core u) else s.core k := by
  simp only [State.modCore, core_setCore]

@[simp] theorem core_modCore_self (s : State) (u : Nat) (f : Core → Core) : (s.modCore u f).core u = f (s.core u) := by
  simp [core_modCore]

theorem cluster_modCluster (s : State) (c k : Nat) (f : Cluster → Cluster) :
    (s.modCluster c f).cluster k = if k = c then f (s.cluster c) else s.cluster k := by
  simp only [State.cluster, State.modCluster, tblGet_tblSet]

theorem die_modDie (s : State) (d k : Nat) (f : Die → Die) : (s.modDie d f).die k = if k = d then f (s.die d) else s.die k := by
  simp only [State.die, State.modDie, tblGet_tblSet]

theorem part_modPart (s : State) (p k : Nat) (f : Partition → Partition) :
    (s.modPart p f).part k = if k = p then f (s.part p) else s.part k := by
  simp only [State.part, State.modPart, tblGet_tblSet]

theorem func_modFunc (s : State) (n k : Nat) (f : Func → Func) : (s.modFunc n f).func k = if k = n then f (s.func n) else s.func k := by
  simp only [State.func, State.modFunc, tblGet_tblSet]

theorem queue_modQueue (s : State) (n q m r : Nat) (f : Queue → Queue) :
    (s.modQueue n q f).queue m r = if m = n ∧ r = q then f (s.queue n q) else s.queue m r := by
  simp only [State.queue, State.modQueue, func_modFunc]
  by_cases h : m = n
  · subst h
    simp only [if_true, tblGet_tblSet, true_and]
  · simp [h]

theorem head_modHead (s : State) (h k : Nat) (f : Head → Head) : (s.modHead h f).head k = if k = h then f (s.head h) else s.head k := by
  simp only [State.head, State.modHead, tblGet_tblSet]

/-- Two changes of one hart are one change. -/
@[simp] theorem modHart_modHart (s : State) (h : Nat) (f g : Hart → Hart) :
    (s.modHart h f).modHart h g = s.modHart h (fun x => g (f x)) := by
  simp only [State.modHart, hart_setHart_self]
  simp only [State.setHart, tblSet_tblSet]

/-- Two changes of one core are one change. -/
@[simp] theorem modCore_modCore (s : State) (u : Nat) (f g : Core → Core) :
    (s.modCore u f).modCore u g = s.modCore u (fun x => g (f x)) := by
  simp only [State.modCore, core_setCore_self]
  simp only [State.setCore, tblSet_tblSet]

/- A change of one part leaves the others. -/

@[simp] theorem core_modHart (s : State) (h u : Nat) (f : Hart → Hart) : (s.modHart h f).core u = s.core u := rfl
@[simp] theorem cluster_modHart (s : State) (h c : Nat) (f : Hart → Hart) : (s.modHart h f).cluster c = s.cluster c := rfl
@[simp] theorem part_modHart (s : State) (h p : Nat) (f : Hart → Hart) : (s.modHart h f).part p = s.part p := rfl
@[simp] theorem func_modHart (s : State) (h n : Nat) (f : Hart → Hart) : (s.modHart h f).func n = s.func n := rfl
@[simp] theorem queue_modHart (s : State) (h n q : Nat) (f : Hart → Hart) : (s.modHart h f).queue n q = s.queue n q := rfl
@[simp] theorem hart_modCore (s : State) (u h : Nat) (f : Core → Core) : (s.modCore u f).hart h = s.hart h := rfl
@[simp] theorem cluster_modCore (s : State) (u c : Nat) (f : Core → Core) : (s.modCore u f).cluster c = s.cluster c := rfl
@[simp] theorem part_modCore (s : State) (u p : Nat) (f : Core → Core) : (s.modCore u f).part p = s.part p := rfl
@[simp] theorem func_modCore (s : State) (u n : Nat) (f : Core → Core) : (s.modCore u f).func n = s.func n := rfl
@[simp] theorem queue_modCore (s : State) (u n q : Nat) (f : Core → Core) : (s.modCore u f).queue n q = s.queue n q := rfl
@[simp] theorem hart_modCluster (s : State) (c h : Nat) (f : Cluster → Cluster) : (s.modCluster c f).hart h = s.hart h := rfl
@[simp] theorem core_modCluster (s : State) (c u : Nat) (f : Cluster → Cluster) : (s.modCluster c f).core u = s.core u := rfl
@[simp] theorem part_modCluster (s : State) (c p : Nat) (f : Cluster → Cluster) : (s.modCluster c f).part p = s.part p := rfl
@[simp] theorem func_modCluster (s : State) (c n : Nat) (f : Cluster → Cluster) : (s.modCluster c f).func n = s.func n := rfl
@[simp] theorem hart_modPart (s : State) (p h : Nat) (f : Partition → Partition) : (s.modPart p f).hart h = s.hart h := rfl
@[simp] theorem core_modPart (s : State) (p u : Nat) (f : Partition → Partition) : (s.modPart p f).core u = s.core u := rfl
@[simp] theorem func_modPart (s : State) (p n : Nat) (f : Partition → Partition) : (s.modPart p f).func n = s.func n := rfl
@[simp] theorem queue_modPart (s : State) (p n q : Nat) (f : Partition → Partition) : (s.modPart p f).queue n q = s.queue n q := rfl
@[simp] theorem hart_modFunc (s : State) (n h : Nat) (f : Func → Func) : (s.modFunc n f).hart h = s.hart h := rfl
@[simp] theorem core_modFunc (s : State) (n u : Nat) (f : Func → Func) : (s.modFunc n f).core u = s.core u := rfl
@[simp] theorem part_modFunc (s : State) (n p : Nat) (f : Func → Func) : (s.modFunc n f).part p = s.part p := rfl
@[simp] theorem hart_modQueue (s : State) (n q h : Nat) (f : Queue → Queue) : (s.modQueue n q f).hart h = s.hart h := rfl
@[simp] theorem core_modQueue (s : State) (n q u : Nat) (f : Queue → Queue) : (s.modQueue n q f).core u = s.core u := rfl
@[simp] theorem part_modQueue (s : State) (n q p : Nat) (f : Queue → Queue) : (s.modQueue n q f).part p = s.part p := rfl
@[simp] theorem hart_modHead (s : State) (d h : Nat) (f : Head → Head) : (s.modHead d f).hart h = s.hart h := rfl
@[simp] theorem core_modHead (s : State) (d u : Nat) (f : Head → Head) : (s.modHead d f).core u = s.core u := rfl
@[simp] theorem part_modHead (s : State) (d p : Nat) (f : Head → Head) : (s.modHead d f).part p = s.part p := rfl
@[simp] theorem func_modHead (s : State) (d n : Nat) (f : Head → Head) : (s.modHead d f).func n = s.func n := rfl
@[simp] theorem hart_schedule (s : State) (n h : Nat) (i : Instr) : (s.schedule n i).hart h = s.hart h := rfl
@[simp] theorem core_schedule (s : State) (n u : Nat) (i : Instr) : (s.schedule n i).core u = s.core u := rfl
@[simp] theorem part_schedule (s : State) (n p : Nat) (i : Instr) : (s.schedule n i).part p = s.part p := rfl
@[simp] theorem func_schedule (s : State) (n k : Nat) (i : Instr) : (s.schedule n i).func k = s.func k := rfl

/- Registers of a hart. -/

/-- A register reads as it was written; x0 reads 0. -/
theorem getX_setX (h : Hart) (r k : Nat) (v : Word) : (h.setX r v).getX k = if k = r ∧ r ≠ 0 then v else h.getX k := by
  unfold Hart.setX Hart.getX
  by_cases h0 : r = 0
  · simp [h0]
  · simp only [h0, if_false, tblGet_tblSet, ne_eq, not_false_eq_true, and_true]
    by_cases hk : k = 0
    · simp only [hk, if_true]; rw [if_neg (fun e => h0 e.symm)]
    · simp [hk]

@[simp] theorem getX_zero (h : Hart) : h.getX 0 = 0 := rfl

/-- The full/empty state of a register after a write. -/
theorem xFe_setX (h : Hart) (now r k : Nat) (v : Word) : (h.setX r v).xFe now k = if k = r then .full else h.xFe now k := by
  unfold Hart.setX Hart.xFe
  by_cases h0 : r = 0
  · subst h0
    by_cases hk : k = 0 <;> simp [hk]
  · simp only [h0, if_false, tblGet_tblDel]
    by_cases hk : k = 0
    · simp [hk]
    · by_cases e : k = r
      · simp [e, feNow]
      · simp [hk, e]

@[simp] theorem getX_setXFe (h : Hart) (r k : Nat) (e : Fe) : (h.setXFe r e).getX k = h.getX k := by
  unfold Hart.setXFe; split <;> rfl

/-- The full/empty state of a register after it was set. -/
theorem xFe_setXFe (h : Hart) (now r k : Nat) (e : Fe) :
    (h.setXFe r e).xFe now k = if k = r ∧ r ≠ 0 then feNow now e else h.xFe now k := by
  unfold Hart.setXFe Hart.xFe
  by_cases h0 : r = 0
  · simp [h0]
  · simp only [h0, if_false, tblGet_tblSet, ne_eq, not_false_eq_true, and_true]
    by_cases hk : k = 0
    · simp only [hk, if_true]; rw [if_neg (fun e => h0 e.symm)]
    · by_cases e2 : k = r
      · simp [e2, h0]
      · simp [hk, e2]

end Sys2Proof.Machine.Laws
end

