-- ==== Sys2Proof/Laws/Ops.lean ====
section
/-! SUPPORT. The laws of the shared operations: operands, results, the ways an instruction ends, taking a trap and writing global
memory. Each says once everything that its operation can do. -/

namespace Sys2Proof.Machine.Laws

/- Operands (08 R183, R184; 07 R168). -/

/-- A full register under no hold is read. -/
theorem readX_ok {s : State} {r : Reg} (h : Readable s r) : readX r.toNat s = .ok (s.xval r, s) := by
  obtain ⟨full, held⟩ := h
  simp [readX, State.xval, State.self, full, held]

/-- An empty register makes its reader wait. -/
theorem readX_wait {s : State} {r : Reg} (h : Empty s r) : readX r.toNat s = .error (.wait (.xreg r.toNat)) := by
  unfold Empty State.self at h
  simp [readX, h]

/-- A register under integrity hold gives its reader cause 29. -/
theorem readX_held {s : State} {r : Reg} (h : s.self.xReady s.now r.toNat = true) (held : r.toNat ∈ s.self.xHeld) :
    readX r.toNat s = .error (.trap 29 0) := by
  simp [readX, h, held]

/-- A register without a result in flight may be written. -/
theorem destX_ok {s : State} {r : Reg} (h : Writable s r) : destX r.toNat s = .ok ((), s) := by
  unfold Writable at h; simp only [destX]; rcases h with h | h <;> rw [h]

/-- x0 is always full, and always writable. -/
theorem readable_x0 (s : State) (h : 0 ∉ s.self.xHeld) : Readable s 0 := ⟨rfl, h⟩
theorem writable_x0 (s : State) : Writable s 0 := .inl rfl

/- Register results (14 R342, R344). -/

/-- A register-register operation on full sources writes its result and retires. -/
theorem aluR_ok {s : State} {rd rs1 rs2 : Reg} {f : Word → Word → Word} (h1 : Readable s rs1) (h2 : Readable s rs2) (h3 : Writable s rd) :
    runM (aluR rd rs1 rs2 f) s = .next ((s.wrote rd (f (s.xval rs1) (s.xval rs2))).retired 4) := by
  simp only [runM, aluR, bind, StateT.bind, readX_ok h1, readX_ok h2, destX_ok h3, Except.bind, writeX, modMe, retireM]
  rfl

/-- An operation on one full register writes its result and retires. -/
theorem aluI_ok {s : State} {rd rs1 : Reg} {f : Word → Word} (h1 : Readable s rs1) (h3 : Writable s rd) :
    runM (aluI rd rs1 f) s = .next ((s.wrote rd (f (s.xval rs1))).retired 4) := by
  simp only [runM, aluI, bind, StateT.bind, readX_ok h1, destX_ok h3, Except.bind, writeX, modMe, retireM]
  rfl

/-- An operation without a source writes its result and retires. -/
theorem aluU_ok {s : State} {rd : Reg} {f : Word → Word} (h3 : Writable s rd) :
    runM (aluU rd f) s = .next ((s.wrote rd (f s.self.pc)).retired 4) := by
  simp only [runM, aluU, bind, StateT.bind, destX_ok h3, Except.bind, writeX, modMe, retireM, me]
  rfl

/-- A multiply or divide writes a result that becomes full later, and retires. -/
theorem aluSlow_ok {s : State} {rd rs1 rs2 : Reg} {n : Nat} {f : Word → Word → Word} (h1 : Readable s rs1) (h2 : Readable s rs2)
    (h3 : Writable s rd) :
    runM (aluSlow rd rs1 rs2 n f) s = .next
      ((s.modHart s.cur (fun h => (h.setX rd.toNat (f (s.xval rs1) (s.xval rs2))).setXFe rd.toNat (.due (s.now + n)))).retired 4) := by
  simp only [runM, aluSlow, bind, StateT.bind, readX_ok h1, readX_ok h2, destX_ok h3, Except.bind, writeXAfter, modMe, retireM]
  rfl

/-- A branch on full registers goes on, jumps, or takes cause 0. -/
theorem branch_ok {s : State} {rs1 rs2 : Reg} {imm : BitVec 12} {c : Word → Word → Bool} (h1 : Readable s rs1) (h2 : Readable s rs2) :
    runM (branch rs1 rs2 imm c) s =
      if c (s.xval rs1) (s.xval rs2) then
        (let target := s.self.pc + (imm.signExtend 64 <<< 1)
         .next (if target.toNat % 4 = 0 then s.jumped target else takeTrap 0 target s))
      else .next (s.retired 4) := by
  simp only [runM, branch, bind, StateT.bind, Except.bind, me, readX_ok h1, readX_ok h2, goTo]
  cases c (s.xval rs1) (s.xval rs2)
  · rfl
  · by_cases h : ((s.hart s.cur).pc + imm.signExtend 64 <<< 1).toNat % 4 = 0 <;>
      simp_all [wfld, fld, trapM, jumpM, modMe] <;> rfl

/-- The state after a register write and a retirement. -/
@[simp] theorem wrote_mem (s : State) (rd : Reg) (v : Word) : (s.wrote rd v).mem = s.mem := rfl
@[simp] theorem wrote_hostMem (s : State) (rd : Reg) (v : Word) : (s.wrote rd v).hostMem = s.hostMem := rfl
@[simp] theorem wrote_cur (s : State) (rd : Reg) (v : Word) : (s.wrote rd v).cur = s.cur := rfl
@[simp] theorem wrote_now (s : State) (rd : Reg) (v : Word) : (s.wrote rd v).now = s.now := rfl
@[simp] theorem wrote_core (s : State) (rd : Reg) (v : Word) (u : Nat) : (s.wrote rd v).core u = s.core u := rfl
@[simp] theorem retired_mem (s : State) (n : Nat) : (s.retired n).mem = s.mem := rfl
@[simp] theorem retired_hostMem (s : State) (n : Nat) : (s.retired n).hostMem = s.hostMem := rfl
@[simp] theorem retired_cur (s : State) (n : Nat) : (s.retired n).cur = s.cur := rfl
@[simp] theorem retired_now (s : State) (n : Nat) : (s.retired n).now = s.now := rfl
@[simp] theorem retired_core (s : State) (n u : Nat) : (s.retired n).core u = s.core u := rfl
@[simp] theorem retired_pc (s : State) (n : Nat) : (s.retired n).self.pc = s.self.pc + BitVec.ofNat 64 n := by
  simp [State.retired, State.self]
@[simp] theorem retired_instret (s : State) (n : Nat) : (s.retired n).self.instret = s.self.instret + 1 := by
  simp [State.retired, State.self]

/- Taking a trap (11 R266; 08 R210; 10 R251). -/

/-- A trap keeps every register of the hart and its vector part. -/
theorem takeTrap_keeps (h : Hart) (interrupt : Bool) (cause : Nat) (tval : Word) :
    (h.takeTrap interrupt cause tval).x = h.x ∧ (h.takeTrap interrupt cause tval).fe = h.fe ∧ (h.takeTrap interrupt cause tval).vec = h.vec ∧
      (h.takeTrap interrupt cause tval).instret = h.instret ∧ (h.takeTrap interrupt cause tval).run = h.run ∧
      (h.takeTrap interrupt cause tval).q7 = h.q7 ∧ (h.takeTrap interrupt cause tval).thread = h.thread := by
  unfold Hart.takeTrap Hart.enterS Hart.enterM
  cases trapToS h interrupt cause <;> exact ⟨rfl, rfl, rfl, rfl, rfl, rfl, rfl⟩

/-- Outside the program buffer the executing hart takes the trap, and its slot ends. -/
theorem takeTrap_eq {s : State} (h : inProgram s s.cur = false) (cause : Nat) (tval : Word) :
    takeTrap cause tval s =
      (s.modHart s.cur (fun h => h.takeTrap false cause tval)).modCore (unitOf s.cur) (fun c => { c with slot := none }) := by
  simp [takeTrap, h]

@[simp] theorem endProgram_mem (u err : Nat) (s : State) : (endProgram u err s).mem = s.mem := by
  unfold endProgram; split <;> rfl
@[simp] theorem endProgram_hostMem (u err : Nat) (s : State) : (endProgram u err s).hostMem = s.hostMem := by
  unfold endProgram; split <;> rfl
@[simp] theorem takeTrap_mem (cause : Nat) (tval : Word) (s : State) : (takeTrap cause tval s).mem = s.mem := by
  unfold takeTrap; split <;> simp
@[simp] theorem takeTrap_hostMem (cause : Nat) (tval : Word) (s : State) : (takeTrap cause tval s).hostMem = s.hostMem := by
  unfold takeTrap; split <;> simp
@[simp] theorem takeIllegal_mem (w : Nat) (s : State) : (takeIllegal w s).mem = s.mem := by simp [takeIllegal]
@[simp] theorem takeIllegal_hostMem (w : Nat) (s : State) : (takeIllegal w s).hostMem = s.hostMem := by simp [takeIllegal]
@[simp] theorem enterWait_mem (w : Wait) (s : State) : (enterWait w s).mem = s.mem := rfl
@[simp] theorem enterWait_hostMem (w : Wait) (s : State) : (enterWait w s).hostMem = s.hostMem := rfl
@[simp] theorem enterWait_cur (w : Wait) (s : State) : (enterWait w s).cur = s.cur := rfl
@[simp] theorem enterWait_now (w : Wait) (s : State) : (enterWait w s).now = s.now := rfl

/-- Waiting changes nothing of the waiting hart but that it waits. -/
theorem enterWait_hart (w : Wait) (s : State) (k : Nat) :
    (enterWait w s).hart k = if k = s.cur then { s.hart s.cur with waiting := some w } else s.hart k := by
  simp [enterWait, hart_modHart]

/- Meanings in steps. -/

/-- What a meaning may leave: wherever it ends and leaves a state of its own, that state stands in a relation to the one before. -/
def Keeps {α : Type} (R : State → State → Prop) (m : M α) : Prop :=
  ∀ s, match m s with
    | .ok (_, t) => R s t
    | .error (.trapWith _ _ t) => R s t
    | .error (.waitWith _ t) => R s t
    | .error _ => True

theorem Keeps.pure {α : Type} {R : State → State → Prop} (hr : ∀ s, R s s) (a : α) : Keeps R (Pure.pure a : M α) := fun s => hr s

theorem Keeps.modS {R : State → State → Prop} {f : State → State} (h : ∀ s, R s (f s)) : Keeps R (Machine.modS f) := h

theorem Keeps.askS {α : Type} {R : State → State → Prop} (hr : ∀ s, R s s) (f : State → α) : Keeps R (Machine.askS f) := fun s => hr s

theorem Keeps.me {R : State → State → Prop} (hr : ∀ s, R s s) : Keeps R Machine.me := fun s => hr s

theorem Keeps.trapM {α : Type} {R : State → State → Prop} (c : Nat) (v : Word) : Keeps R (Machine.trapM c v : M α) := fun _ => trivial

theorem Keeps.waitM {α : Type} {R : State → State → Prop} (w : Wait) : Keeps R (Machine.waitM w : M α) := fun _ => trivial

theorem Keeps.illegalM {α : Type} {R : State → State → Prop} (i : Instr) : Keeps R (Machine.illegalM i : M α) := fun _ => trivial

theorem Keeps.trapKeepM {α : Type} {R : State → State → Prop} (hr : ∀ s, R s s) (c : Nat) (v : Word) :
    Keeps R (Machine.trapKeepM c v : M α) := fun s => hr s

theorem Keeps.waitKeepM {α : Type} {R : State → State → Prop} (hr : ∀ s, R s s) (w : Wait) : Keeps R (Machine.waitKeepM w : M α) :=
  fun s => hr s

theorem Keeps.requireM {R : State → State → Prop} (hr : ∀ s, R s s) (b : Bool) (i : Instr) : Keeps R (Machine.requireM b i) := by
  intro s; unfold Machine.requireM; cases b
  · exact trivial
  · exact hr s

/-- Two meanings in a row keep what each keeps, if the relation is transitive. -/
theorem Keeps.bind {α β : Type} {R : State → State → Prop} (ht : ∀ a b c, R a b → R b c → R a c) {m : M α} {k : α → M β}
    (h1 : Keeps R m) (h2 : ∀ a, Keeps R (k a)) : Keeps R (m >>= k) := by
  intro s
  have e := h1 s
  simp only [Bind.bind, StateT.bind]
  cases hm : m s with
  | error e' => simp only [hm] at e; simp only [Except.bind]; cases e' <;> simp_all
  | ok p =>
    obtain ⟨a, t⟩ := p
    simp only [hm] at e
    simp only [Except.bind]
    have e2 := h2 a t
    cases hk : k a t with
    | error e' => simp only [hk] at e2; cases e' <;> simp_all <;> exact ht _ _ _ e e2
    | ok q => simp only [hk] at e2; exact ht _ _ _ e e2

/-- A meaning that keeps a relation, which traps and waits keep too, ends in a next state that stands in it. -/
theorem Keeps.runM {R : State → State → Prop} (ht : ∀ a b c, R a b → R b c → R a c) (htrap : ∀ c v s, R s (takeTrap c v s))
    (hill : ∀ w s, R s (takeIllegal w s)) (hwait : ∀ w s, R s (enterWait w s)) {m : M Unit} (h : Keeps R m) (s t : State)
    (e : Machine.runM m s = .next t) : R s t := by
  have hs := h s
  cases hm : m s with
  | ok p =>
    obtain ⟨_, u⟩ := p
    simp only [hm] at hs
    simp only [Machine.runM, hm, Host.Outcome.next.injEq] at e
    exact e ▸ hs
  | error x =>
    simp only [hm] at hs
    cases x <;> simp only [Machine.runM, hm, Host.Outcome.next.injEq] at e <;> subst e
    · exact htrap _ _ _
    · exact ht _ _ _ hs (htrap _ _ _)
    · exact hill _ _
    · exact hwait _ _
    · exact ht _ _ _ hs (hwait _ _)

/-- Both memories keep their canonical form from one state to another. -/
def KeepsMemories (s t : State) : Prop := MemoriesWf s = true → MemoriesWf t = true

theorem keepsMemories_refl (s : State) : KeepsMemories s s := fun h => h
theorem keepsMemories_trans (a b c : State) (h1 : KeepsMemories a b) (h2 : KeepsMemories b c) : KeepsMemories a c := fun h => h2 (h1 h)

/-- A state with the same bytes keeps the form. -/
theorem keepsMemories_of_eq {s t : State} (h1 : t.mem = s.mem) (h2 : t.hostMem = s.hostMem) : KeepsMemories s t := by
  unfold KeepsMemories MemoriesWf; rw [h1, h2]; exact id

theorem takeTrap_keepsMemories (c : Nat) (v : Word) (s : State) : KeepsMemories s (takeTrap c v s) := keepsMemories_of_eq (by simp) (by simp)
theorem takeIllegal_keepsMemories (w : Nat) (s : State) : KeepsMemories s (takeIllegal w s) := keepsMemories_of_eq (by simp) (by simp)
theorem enterWait_keepsMemories (w : Wait) (s : State) : KeepsMemories s (enterWait w s) := keepsMemories_of_eq (by simp) (by simp)

/- Global memory. -/

/-- Writing cells of global memory keeps its canonical form: every store, whoever makes it, goes through here. -/
theorem gWriteCells_keepsMemories (cells : List Host.Cell) : ∀ s : State, KeepsMemories s (gWriteCells s cells) := by
  induction cells with
  | nil => exact fun s => keepsMemories_refl s
  | cons c rest ih =>
    obtain ⟨a, b⟩ := c
    intro s
    refine keepsMemories_trans _ _ _ ?_ (ih _)
    intro h
    unfold MemoriesWf at h ⊢
    simp only [Bool.and_eq_true] at h ⊢
    split
    · exact ⟨h.1, memSet_wf _ _ _ h.2⟩
    · exact ⟨memSet_wf _ _ _ h.1, h.2⟩

/-- Writing cells of global memory changes nothing but the two memories. -/
theorem gWriteCells_eq (cells : List Host.Cell) : ∀ s : State, ∃ m n, gWriteCells s cells = { s with mem := m, hostMem := n } := by
  induction cells with
  | nil => exact fun s => ⟨s.mem, s.hostMem, rfl⟩
  | cons c rest ih =>
    obtain ⟨a, b⟩ := c
    intro s
    obtain ⟨m, n, h⟩ := ih (if isHostNum a then { s with hostMem := memSet s.hostMem (a - hostBase) b } else { s with mem := memSet s.mem a b })
    refine ⟨m, n, ?_⟩
    simp only [gWriteCells, h]
    split <;> rfl

/-- One byte of global memory. -/
theorem byteAt_eq (s : State) (a : Nat) : byteAt s a = if isHostNum a then memGet s.hostMem (a - hostBase) else memGet s.mem a := by
  have e (m : List Host.Cell) (k : Nat) : (memBytes m k 1).headD 0 = memGet m k := rfl
  unfold byteAt gBytes; split <;> exact e _ _

/-- A byte of global memory reads as the last cell of a list that was written there, and otherwise as before. -/
theorem byteAt_gWriteCells (cells : List Host.Cell) : ∀ (s : State) (a : Nat),
    byteAt (gWriteCells s cells) a = (cellLookup a cells).getD (byteAt s a) := by
  induction cells with
  | nil => exact fun _ _ => rfl
  | cons c rest ih =>
    obtain ⟨k, b⟩ := c
    intro s a
    simp only [gWriteCells, ih, cellLookup]
    cases cellLookup a rest with
    | some v => rfl
    | none =>
      simp only [Option.getD_none, byteAt_eq]
      by_cases hk : k = a
      · subst hk
        by_cases hh : isHostNum k <;> simp [hh, memGet_memSet]
      · have hka : ¬ a = k := fun e => hk e.symm
        by_cases hh : isHostNum k <;> by_cases ha : isHostNum a <;> simp [hk, hh, ha, memGet_memSet, hka]
        intro e
        simp only [isHostNum, decide_eq_true_eq] at hh ha
        omega

/-- The cells of a run of bytes. -/
theorem cellLookup_cellsAt (bs : List Byte) : ∀ (a b : Nat),
    cellLookup b (cellsAt a bs) = if a ≤ b then bs[b - a]? else none := by
  induction bs with
  | nil => intro a b; simp [cellsAt, cellLookup]
  | cons x rest ih =>
    intro a b
    simp only [cellsAt, cellLookup, ih]
    by_cases h1 : a + 1 ≤ b
    · have e : b - a = (b - (a + 1)) + 1 := by omega
      have h2 : a ≤ b := by omega
      have h3 : ¬ a = b := by omega
      simp only [h1, h2, if_true, e, List.getElem?_cons_succ, h3, if_false]
      cases rest[b - (a + 1)]? <;> rfl
    · simp only [h1, if_false]
      by_cases h2 : a = b
      · subst h2; simp
      · have h3 : ¬ a ≤ b := by omega
        simp [h2, h3]

/-- The reset state has the form. -/
theorem reset_memoriesWf : MemoriesWf State.reset = true := rfl

end Sys2Proof.Machine.Laws
end

