-- ==== Sys2Proof/Laws/PerInstr.lean ====
section
/-! SUPPORT. What holds of each instruction as syntax: the word of an encoding says its own length (13 R318, R319). -/

namespace Sys2Proof.Laws.WordLength

/-- The length that the low bits of an instruction's word give is the length of its encoding. -/
def Statement (i : Instr) : Prop := ∀ w, encode i = some w → lengthOf w = i.length?

/-- The two low bits of a word are 11, and the next three not all ones: four bytes. -/
theorem four_bytes {w : Nat} (h : w % 4 = 3) (h' : w / 4 % 8 ≠ 7) : lengthOf w = some 4 := by
  simp [lengthOf, bits, h, h']

/-- The seven low bits of a long word are 0x3F: eight bytes. -/
theorem eight_bytes (op : Nat) (f : LongFields) : lengthOf (encLong op f) = some 8 := by
  have h : encLong op f % 128 = 63 := by
    unfold encLong; have := f.d.isLt; omega
  have h1 : encLong op f % 4 = 3 := by omega
  have h2 : encLong op f / 4 % 8 = 7 := by omega
  simp [lengthOf, bits, h, h1, h2]

theorem encR_four {op f3 f7 : Nat} {rd rs1 rs2 : Reg} (h : op % 4 = 3) (h' : op / 4 % 8 ≠ 7) : lengthOf (encR op f3 f7 rd rs1 rs2) = some 4 :=
  four_bytes (by unfold encR; omega) (by unfold encR; omega)

theorem encI_four {op f3 imm : Nat} {rd rs1 : Reg} (h : op % 4 = 3) (h' : op / 4 % 8 ≠ 7) : lengthOf (encI op f3 rd rs1 imm) = some 4 :=
  four_bytes (by unfold encI; omega) (by unfold encI; omega)

theorem encU_four {op : Nat} {rd : Reg} {imm : BitVec 20} (h : op % 4 = 3) (h' : op / 4 % 8 ≠ 7) : lengthOf (encU op rd imm) = some 4 :=
  four_bytes (by unfold encU; omega) (by unfold encU; omega)

theorem encS_four {op f3 : Nat} {rs1 rs2 : Reg} {imm : BitVec 12} (h : op % 4 = 3) (h' : op / 4 % 8 ≠ 7) : lengthOf (encS op f3 rs1 rs2 imm) = some 4 :=
  four_bytes (by unfold encS; omega) (by unfold encS; omega)

theorem encB_four {f3 : Nat} {rs1 rs2 : Reg} {imm : BitVec 12} : lengthOf (encB f3 rs1 rs2 imm) = some 4 :=
  four_bytes (by unfold encB; omega) (by unfold encB; omega)

theorem encJ_four {rd : Reg} {imm : BitVec 20} : lengthOf (encJ rd imm) = some 4 :=
  four_bytes (by unfold encJ; omega) (by unfold encJ; omega)

theorem encA_four {f5 : Nat} {wide aq rl : Bool} {rd rs1 rs2 : Reg} : lengthOf (encA f5 wide aq rl rd rs1 rs2) = some 4 :=
  four_bytes (by unfold encA; omega) (by unfold encA; omega)

theorem add (rd : Reg) (rs1 : Reg) (rs2 : Reg) : Statement (.add rd rs1 rs2) := by
  intro w h; cases h; exact encR_four (by decide) (by decide)

theorem sub (rd : Reg) (rs1 : Reg) (rs2 : Reg) : Statement (.sub rd rs1 rs2) := by
  intro w h; cases h; exact encR_four (by decide) (by decide)

theorem sll (rd : Reg) (rs1 : Reg) (rs2 : Reg) : Statement (.sll rd rs1 rs2) := by
  intro w h; cases h; exact encR_four (by decide) (by decide)

theorem slt (rd : Reg) (rs1 : Reg) (rs2 : Reg) : Statement (.slt rd rs1 rs2) := by
  intro w h; cases h; exact encR_four (by decide) (by decide)

theorem sltu (rd : Reg) (rs1 : Reg) (rs2 : Reg) : Statement (.sltu rd rs1 rs2) := by
  intro w h; cases h; exact encR_four (by decide) (by decide)

theorem xor (rd : Reg) (rs1 : Reg) (rs2 : Reg) : Statement (.xor rd rs1 rs2) := by
  intro w h; cases h; exact encR_four (by decide) (by decide)

theorem srl (rd : Reg) (rs1 : Reg) (rs2 : Reg) : Statement (.srl rd rs1 rs2) := by
  intro w h; cases h; exact encR_four (by decide) (by decide)

theorem sra (rd : Reg) (rs1 : Reg) (rs2 : Reg) : Statement (.sra rd rs1 rs2) := by
  intro w h; cases h; exact encR_four (by decide) (by decide)

theorem or (rd : Reg) (rs1 : Reg) (rs2 : Reg) : Statement (.or rd rs1 rs2) := by
  intro w h; cases h; exact encR_four (by decide) (by decide)

theorem and (rd : Reg) (rs1 : Reg) (rs2 : Reg) : Statement (.and rd rs1 rs2) := by
  intro w h; cases h; exact encR_four (by decide) (by decide)

theorem addw (rd : Reg) (rs1 : Reg) (rs2 : Reg) : Statement (.addw rd rs1 rs2) := by
  intro w h; cases h; exact encR_four (by decide) (by decide)

theorem subw (rd : Reg) (rs1 : Reg) (rs2 : Reg) : Statement (.subw rd rs1 rs2) := by
  intro w h; cases h; exact encR_four (by decide) (by decide)

theorem sllw (rd : Reg) (rs1 : Reg) (rs2 : Reg) : Statement (.sllw rd rs1 rs2) := by
  intro w h; cases h; exact encR_four (by decide) (by decide)

theorem srlw (rd : Reg) (rs1 : Reg) (rs2 : Reg) : Statement (.srlw rd rs1 rs2) := by
  intro w h; cases h; exact encR_four (by decide) (by decide)

theorem sraw (rd : Reg) (rs1 : Reg) (rs2 : Reg) : Statement (.sraw rd rs1 rs2) := by
  intro w h; cases h; exact encR_four (by decide) (by decide)

theorem addi (rd : Reg) (rs1 : Reg) (imm : BitVec 12) : Statement (.addi rd rs1 imm) := by
  intro w h; cases h; exact encI_four (by decide) (by decide)

theorem slti (rd : Reg) (rs1 : Reg) (imm : BitVec 12) : Statement (.slti rd rs1 imm) := by
  intro w h; cases h; exact encI_four (by decide) (by decide)

theorem sltiu (rd : Reg) (rs1 : Reg) (imm : BitVec 12) : Statement (.sltiu rd rs1 imm) := by
  intro w h; cases h; exact encI_four (by decide) (by decide)

theorem xori (rd : Reg) (rs1 : Reg) (imm : BitVec 12) : Statement (.xori rd rs1 imm) := by
  intro w h; cases h; exact encI_four (by decide) (by decide)

theorem ori (rd : Reg) (rs1 : Reg) (imm : BitVec 12) : Statement (.ori rd rs1 imm) := by
  intro w h; cases h; exact encI_four (by decide) (by decide)

theorem andi (rd : Reg) (rs1 : Reg) (imm : BitVec 12) : Statement (.andi rd rs1 imm) := by
  intro w h; cases h; exact encI_four (by decide) (by decide)

theorem slli (rd : Reg) (rs1 : Reg) (shamt : BitVec 6) : Statement (.slli rd rs1 shamt) := by
  intro w h; cases h; exact encI_four (by decide) (by decide)

theorem srli (rd : Reg) (rs1 : Reg) (shamt : BitVec 6) : Statement (.srli rd rs1 shamt) := by
  intro w h; cases h; exact encI_four (by decide) (by decide)

theorem srai (rd : Reg) (rs1 : Reg) (shamt : BitVec 6) : Statement (.srai rd rs1 shamt) := by
  intro w h; cases h; exact encI_four (by decide) (by decide)

theorem addiw (rd : Reg) (rs1 : Reg) (imm : BitVec 12) : Statement (.addiw rd rs1 imm) := by
  intro w h; cases h; exact encI_four (by decide) (by decide)

theorem slliw (rd : Reg) (rs1 : Reg) (shamt : BitVec 5) : Statement (.slliw rd rs1 shamt) := by
  intro w h; cases h; exact encI_four (by decide) (by decide)

theorem srliw (rd : Reg) (rs1 : Reg) (shamt : BitVec 5) : Statement (.srliw rd rs1 shamt) := by
  intro w h; cases h; exact encI_four (by decide) (by decide)

theorem sraiw (rd : Reg) (rs1 : Reg) (shamt : BitVec 5) : Statement (.sraiw rd rs1 shamt) := by
  intro w h; cases h; exact encI_four (by decide) (by decide)

theorem lui (rd : Reg) (imm : BitVec 20) : Statement (.lui rd imm) := by
  intro w h; cases h; exact encU_four (by decide) (by decide)

theorem auipc (rd : Reg) (imm : BitVec 20) : Statement (.auipc rd imm) := by
  intro w h; cases h; exact encU_four (by decide) (by decide)

theorem jal (rd : Reg) (imm : BitVec 20) : Statement (.jal rd imm) := by
  intro w h; cases h; exact encJ_four

theorem jalr (rd : Reg) (rs1 : Reg) (imm : BitVec 12) : Statement (.jalr rd rs1 imm) := by
  intro w h; cases h; exact encI_four (by decide) (by decide)

theorem beq (rs1 : Reg) (rs2 : Reg) (imm : BitVec 12) : Statement (.beq rs1 rs2 imm) := by
  intro w h; cases h; exact encB_four

theorem bne (rs1 : Reg) (rs2 : Reg) (imm : BitVec 12) : Statement (.bne rs1 rs2 imm) := by
  intro w h; cases h; exact encB_four

theorem blt (rs1 : Reg) (rs2 : Reg) (imm : BitVec 12) : Statement (.blt rs1 rs2 imm) := by
  intro w h; cases h; exact encB_four

theorem bge (rs1 : Reg) (rs2 : Reg) (imm : BitVec 12) : Statement (.bge rs1 rs2 imm) := by
  intro w h; cases h; exact encB_four

theorem bltu (rs1 : Reg) (rs2 : Reg) (imm : BitVec 12) : Statement (.bltu rs1 rs2 imm) := by
  intro w h; cases h; exact encB_four

theorem bgeu (rs1 : Reg) (rs2 : Reg) (imm : BitVec 12) : Statement (.bgeu rs1 rs2 imm) := by
  intro w h; cases h; exact encB_four

theorem lb (rd : Reg) (rs1 : Reg) (imm : BitVec 12) : Statement (.lb rd rs1 imm) := by
  intro w h; cases h; exact encI_four (by decide) (by decide)

theorem lh (rd : Reg) (rs1 : Reg) (imm : BitVec 12) : Statement (.lh rd rs1 imm) := by
  intro w h; cases h; exact encI_four (by decide) (by decide)

theorem lw (rd : Reg) (rs1 : Reg) (imm : BitVec 12) : Statement (.lw rd rs1 imm) := by
  intro w h; cases h; exact encI_four (by decide) (by decide)

theorem ld (rd : Reg) (rs1 : Reg) (imm : BitVec 12) : Statement (.ld rd rs1 imm) := by
  intro w h; cases h; exact encI_four (by decide) (by decide)

theorem lbu (rd : Reg) (rs1 : Reg) (imm : BitVec 12) : Statement (.lbu rd rs1 imm) := by
  intro w h; cases h; exact encI_four (by decide) (by decide)

theorem lhu (rd : Reg) (rs1 : Reg) (imm : BitVec 12) : Statement (.lhu rd rs1 imm) := by
  intro w h; cases h; exact encI_four (by decide) (by decide)

theorem lwu (rd : Reg) (rs1 : Reg) (imm : BitVec 12) : Statement (.lwu rd rs1 imm) := by
  intro w h; cases h; exact encI_four (by decide) (by decide)

theorem sb (rs1 : Reg) (rs2 : Reg) (imm : BitVec 12) : Statement (.sb rs1 rs2 imm) := by
  intro w h; cases h; exact encS_four (by decide) (by decide)

theorem sh (rs1 : Reg) (rs2 : Reg) (imm : BitVec 12) : Statement (.sh rs1 rs2 imm) := by
  intro w h; cases h; exact encS_four (by decide) (by decide)

theorem sw (rs1 : Reg) (rs2 : Reg) (imm : BitVec 12) : Statement (.sw rs1 rs2 imm) := by
  intro w h; cases h; exact encS_four (by decide) (by decide)

theorem sd (rs1 : Reg) (rs2 : Reg) (imm : BitVec 12) : Statement (.sd rs1 rs2 imm) := by
  intro w h; cases h; exact encS_four (by decide) (by decide)

theorem mul (rd : Reg) (rs1 : Reg) (rs2 : Reg) : Statement (.mul rd rs1 rs2) := by
  intro w h; cases h; exact encR_four (by decide) (by decide)

theorem mulh (rd : Reg) (rs1 : Reg) (rs2 : Reg) : Statement (.mulh rd rs1 rs2) := by
  intro w h; cases h; exact encR_four (by decide) (by decide)

theorem mulhsu (rd : Reg) (rs1 : Reg) (rs2 : Reg) : Statement (.mulhsu rd rs1 rs2) := by
  intro w h; cases h; exact encR_four (by decide) (by decide)

theorem mulhu (rd : Reg) (rs1 : Reg) (rs2 : Reg) : Statement (.mulhu rd rs1 rs2) := by
  intro w h; cases h; exact encR_four (by decide) (by decide)

theorem div (rd : Reg) (rs1 : Reg) (rs2 : Reg) : Statement (.div rd rs1 rs2) := by
  intro w h; cases h; exact encR_four (by decide) (by decide)

theorem divu (rd : Reg) (rs1 : Reg) (rs2 : Reg) : Statement (.divu rd rs1 rs2) := by
  intro w h; cases h; exact encR_four (by decide) (by decide)

theorem rem (rd : Reg) (rs1 : Reg) (rs2 : Reg) : Statement (.rem rd rs1 rs2) := by
  intro w h; cases h; exact encR_four (by decide) (by decide)

theorem remu (rd : Reg) (rs1 : Reg) (rs2 : Reg) : Statement (.remu rd rs1 rs2) := by
  intro w h; cases h; exact encR_four (by decide) (by decide)

theorem mulw (rd : Reg) (rs1 : Reg) (rs2 : Reg) : Statement (.mulw rd rs1 rs2) := by
  intro w h; cases h; exact encR_four (by decide) (by decide)

theorem divw (rd : Reg) (rs1 : Reg) (rs2 : Reg) : Statement (.divw rd rs1 rs2) := by
  intro w h; cases h; exact encR_four (by decide) (by decide)

theorem divuw (rd : Reg) (rs1 : Reg) (rs2 : Reg) : Statement (.divuw rd rs1 rs2) := by
  intro w h; cases h; exact encR_four (by decide) (by decide)

theorem remw (rd : Reg) (rs1 : Reg) (rs2 : Reg) : Statement (.remw rd rs1 rs2) := by
  intro w h; cases h; exact encR_four (by decide) (by decide)

theorem remuw (rd : Reg) (rs1 : Reg) (rs2 : Reg) : Statement (.remuw rd rs1 rs2) := by
  intro w h; cases h; exact encR_four (by decide) (by decide)

theorem lr (wide : Bool) (aq : Bool) (rl : Bool) (rd : Reg) (rs1 : Reg) : Statement (.lr wide aq rl rd rs1) := by
  intro w h; cases h; exact encA_four

theorem sc (wide : Bool) (aq : Bool) (rl : Bool) (rd : Reg) (rs1 : Reg) (rs2 : Reg) : Statement (.sc wide aq rl rd rs1 rs2) := by
  intro w h; cases h; exact encA_four

theorem amoswap (wide : Bool) (aq : Bool) (rl : Bool) (rd : Reg) (rs1 : Reg) (rs2 : Reg) : Statement (.amoswap wide aq rl rd rs1 rs2) := by
  intro w h; cases h; exact encA_four

theorem amoadd (wide : Bool) (aq : Bool) (rl : Bool) (rd : Reg) (rs1 : Reg) (rs2 : Reg) : Statement (.amoadd wide aq rl rd rs1 rs2) := by
  intro w h; cases h; exact encA_four

theorem amoxor (wide : Bool) (aq : Bool) (rl : Bool) (rd : Reg) (rs1 : Reg) (rs2 : Reg) : Statement (.amoxor wide aq rl rd rs1 rs2) := by
  intro w h; cases h; exact encA_four

theorem amoand (wide : Bool) (aq : Bool) (rl : Bool) (rd : Reg) (rs1 : Reg) (rs2 : Reg) : Statement (.amoand wide aq rl rd rs1 rs2) := by
  intro w h; cases h; exact encA_four

theorem amoor (wide : Bool) (aq : Bool) (rl : Bool) (rd : Reg) (rs1 : Reg) (rs2 : Reg) : Statement (.amoor wide aq rl rd rs1 rs2) := by
  intro w h; cases h; exact encA_four

theorem amomin (wide : Bool) (aq : Bool) (rl : Bool) (rd : Reg) (rs1 : Reg) (rs2 : Reg) : Statement (.amomin wide aq rl rd rs1 rs2) := by
  intro w h; cases h; exact encA_four

theorem amomax (wide : Bool) (aq : Bool) (rl : Bool) (rd : Reg) (rs1 : Reg) (rs2 : Reg) : Statement (.amomax wide aq rl rd rs1 rs2) := by
  intro w h; cases h; exact encA_four

theorem amominu (wide : Bool) (aq : Bool) (rl : Bool) (rd : Reg) (rs1 : Reg) (rs2 : Reg) : Statement (.amominu wide aq rl rd rs1 rs2) := by
  intro w h; cases h; exact encA_four

theorem amomaxu (wide : Bool) (aq : Bool) (rl : Bool) (rd : Reg) (rs1 : Reg) (rs2 : Reg) : Statement (.amomaxu wide aq rl rd rs1 rs2) := by
  intro w h; cases h; exact encA_four

theorem fence (pred : BitVec 4) (succ : BitVec 4) : Statement (.fence pred succ) := by
  intro w h; cases h; exact encI_four (by decide) (by decide)

theorem csrrw (rd : Reg) (rs1 : Reg) (csr : BitVec 12) : Statement (.csrrw rd rs1 csr) := by
  intro w h; cases h; exact encI_four (by decide) (by decide)

theorem csrrs (rd : Reg) (rs1 : Reg) (csr : BitVec 12) : Statement (.csrrs rd rs1 csr) := by
  intro w h; cases h; exact encI_four (by decide) (by decide)

theorem csrrc (rd : Reg) (rs1 : Reg) (csr : BitVec 12) : Statement (.csrrc rd rs1 csr) := by
  intro w h; cases h; exact encI_four (by decide) (by decide)

theorem csrrwi (rd : Reg) (uimm : Reg) (csr : BitVec 12) : Statement (.csrrwi rd uimm csr) := by
  intro w h; cases h; exact encI_four (by decide) (by decide)

theorem csrrsi (rd : Reg) (uimm : Reg) (csr : BitVec 12) : Statement (.csrrsi rd uimm csr) := by
  intro w h; cases h; exact encI_four (by decide) (by decide)

theorem csrrci (rd : Reg) (uimm : Reg) (csr : BitVec 12) : Statement (.csrrci rd uimm csr) := by
  intro w h; cases h; exact encI_four (by decide) (by decide)

theorem sfenceVma (rs1 : Reg) (rs2 : Reg) : Statement (.sfenceVma rs1 rs2) := by
  intro w h; cases h; exact encR_four (by decide) (by decide)

theorem tspawn (rd : Reg) (rs1 : Reg) (rs2 : Reg) : Statement (.tspawn rd rs1 rs2) := by
  intro w h; cases h; exact encR_four (by decide) (by decide)

theorem treap (rd : Reg) (rs1 : Reg) : Statement (.treap rd rs1) := by
  intro w h; cases h; exact encR_four (by decide) (by decide)

theorem tkill (rs1 : Reg) : Statement (.tkill rs1) := by
  intro w h; cases h; exact encR_four (by decide) (by decide)

theorem tstat (rd : Reg) (rs1 : Reg) : Statement (.tstat rd rs1) := by
  intro w h; cases h; exact encR_four (by decide) (by decide)

theorem tself (rd : Reg) : Statement (.tself rd) := by
  intro w h; cases h; exact encR_four (by decide) (by decide)

theorem gjoin (rd : Reg) (rs1 : Reg) : Statement (.gjoin rd rs1) := by
  intro w h; cases h; exact encR_four (by decide) (by decide)

theorem gleave (rd : Reg) : Statement (.gleave rd) := by
  intro w h; cases h; exact encR_four (by decide) (by decide)

theorem gbar (rd : Reg) : Statement (.gbar rd) := by
  intro w h; cases h; exact encR_four (by decide) (by decide)

theorem gsize (rd : Reg) : Statement (.gsize rd) := by
  intro w h; cases h; exact encR_four (by decide) (by decide)

theorem grank (rd : Reg) : Statement (.grank rd) := by
  intro w h; cases h; exact encR_four (by decide) (by decide)

theorem hpush (rs1 : Reg) : Statement (.hpush rs1) := by
  intro w h; cases h; exact encR_four (by decide) (by decide)

theorem hpusht (rd : Reg) (rs1 : Reg) : Statement (.hpusht rd rs1) := by
  intro w h; cases h; exact encR_four (by decide) (by decide)

theorem cwait (rs1 : Reg) (rs2 : Reg) : Statement (.cwait rs1 rs2) := by
  intro w h; cases h; exact encR_four (by decide) (by decide)

theorem drain (mem : Reg) : Statement (.drain mem) := by
  intro w h; cases h; exact encR_four (by decide) (by decide)

theorem hqlen (rd : Reg) : Statement (.hqlen rd) := by
  intro w h; cases h; exact encR_four (by decide) (by decide)

theorem msend (rs1 : Reg) (rs2 : Reg) : Statement (.msend rs1 rs2) := by
  intro w h; cases h; exact encR_four (by decide) (by decide)

theorem rqpush (rs1 : Reg) (rs2 : Reg) : Statement (.rqpush rs1 rs2) := by
  intro w h; cases h; exact encR_four (by decide) (by decide)

theorem rqpop (rd : Reg) : Statement (.rqpop rd) := by
  intro w h; cases h; exact encR_four (by decide) (by decide)

theorem rqtry (rd : Reg) : Statement (.rqtry rd) := by
  intro w h; cases h; exact encR_four (by decide) (by decide)

theorem qpop (rd : Reg) (rt : Reg) : Statement (.qpop rd rt) := by
  intro w h; cases h; exact encR_four (by decide) (by decide)

theorem qpopt (rd : Reg) (rt : Reg) : Statement (.qpopt rd rt) := by
  intro w h; cases h; exact encR_four (by decide) (by decide)

theorem feprobe (rd : Reg) (reg : Reg) (bank : Reg) : Statement (.feprobe rd reg bank) := by
  intro w h; cases h; exact encR_four (by decide) (by decide)

theorem femark (reg : Reg) (bank : Reg) : Statement (.femark reg bank) := by
  intro w h; cases h; exact encR_four (by decide) (by decide)

theorem fenceS (kind : BitVec 2) (scope : BitVec 3) : Statement (.fenceS kind scope) := by
  intro w h; cases h; exact encI_four (by decide) (by decide)

theorem setvl (f : LongFields) : Statement (.setvl f) := by
  intro w h; cases h; exact eight_bytes _ _

theorem vmv (f : LongFields) : Statement (.vmv f) := by
  intro w h; cases h; exact eight_bytes _ _

theorem vbcast (f : LongFields) : Statement (.vbcast f) := by
  intro w h; cases h; exact eight_bytes _ _

theorem vext (f : LongFields) : Statement (.vext f) := by
  intro w h; cases h; exact eight_bytes _ _

theorem vins (f : LongFields) : Statement (.vins f) := by
  intro w h; cases h; exact eight_bytes _ _

theorem vsel (f : LongFields) : Statement (.vsel f) := by
  intro w h; cases h; exact eight_bytes _ _

theorem viota (f : LongFields) : Statement (.viota f) := by
  intro w h; cases h; exact eight_bytes _ _

theorem vslide (f : LongFields) : Statement (.vslide f) := by
  intro w h; cases h; exact eight_bytes _ _

theorem vshuf (f : LongFields) : Statement (.vshuf f) := by
  intro w h; cases h; exact eight_bytes _ _

theorem vtrn (f : LongFields) : Statement (.vtrn f) := by
  intro w h; cases h; exact eight_bytes _ _

theorem vhash (f : LongFields) : Statement (.vhash f) := by
  intro w h; cases h; exact eight_bytes _ _

theorem vsave (f : LongFields) : Statement (.vsave f) := by
  intro w h; cases h; exact eight_bytes _ _

theorem vrstr (f : LongFields) : Statement (.vrstr f) := by
  intro w h; cases h; exact eight_bytes _ _

theorem vadd (f : LongFields) : Statement (.vadd f) := by
  intro w h; cases h; exact eight_bytes _ _

theorem vsub (f : LongFields) : Statement (.vsub f) := by
  intro w h; cases h; exact eight_bytes _ _

theorem vmul (f : LongFields) : Statement (.vmul f) := by
  intro w h; cases h; exact eight_bytes _ _

theorem vmulh (f : LongFields) : Statement (.vmulh f) := by
  intro w h; cases h; exact eight_bytes _ _

theorem vmulhu (f : LongFields) : Statement (.vmulhu f) := by
  intro w h; cases h; exact eight_bytes _ _

theorem vmadd (f : LongFields) : Statement (.vmadd f) := by
  intro w h; cases h; exact eight_bytes _ _

theorem vdiv (f : LongFields) : Statement (.vdiv f) := by
  intro w h; cases h; exact eight_bytes _ _

theorem vdivu (f : LongFields) : Statement (.vdivu f) := by
  intro w h; cases h; exact eight_bytes _ _

theorem vrem (f : LongFields) : Statement (.vrem f) := by
  intro w h; cases h; exact eight_bytes _ _

theorem vremu (f : LongFields) : Statement (.vremu f) := by
  intro w h; cases h; exact eight_bytes _ _

theorem vmin (f : LongFields) : Statement (.vmin f) := by
  intro w h; cases h; exact eight_bytes _ _

theorem vminu (f : LongFields) : Statement (.vminu f) := by
  intro w h; cases h; exact eight_bytes _ _

theorem vmax (f : LongFields) : Statement (.vmax f) := by
  intro w h; cases h; exact eight_bytes _ _

theorem vmaxu (f : LongFields) : Statement (.vmaxu f) := by
  intro w h; cases h; exact eight_bytes _ _

theorem vand (f : LongFields) : Statement (.vand f) := by
  intro w h; cases h; exact eight_bytes _ _

theorem vor (f : LongFields) : Statement (.vor f) := by
  intro w h; cases h; exact eight_bytes _ _

theorem vxor (f : LongFields) : Statement (.vxor f) := by
  intro w h; cases h; exact eight_bytes _ _

theorem vsll (f : LongFields) : Statement (.vsll f) := by
  intro w h; cases h; exact eight_bytes _ _

theorem vsrl (f : LongFields) : Statement (.vsrl f) := by
  intro w h; cases h; exact eight_bytes _ _

theorem vsra (f : LongFields) : Statement (.vsra f) := by
  intro w h; cases h; exact eight_bytes _ _

theorem vabs (f : LongFields) : Statement (.vabs f) := by
  intro w h; cases h; exact eight_bytes _ _

theorem vclz (f : LongFields) : Statement (.vclz f) := by
  intro w h; cases h; exact eight_bytes _ _

theorem vpopc (f : LongFields) : Statement (.vpopc f) := by
  intro w h; cases h; exact eight_bytes _ _

theorem vaddi (f : LongFields) : Statement (.vaddi f) := by
  intro w h; cases h; exact eight_bytes _ _

theorem vfadd (f : LongFields) : Statement (.vfadd f) := by
  intro w h; cases h; exact eight_bytes _ _

theorem vfsub (f : LongFields) : Statement (.vfsub f) := by
  intro w h; cases h; exact eight_bytes _ _

theorem vfmul (f : LongFields) : Statement (.vfmul f) := by
  intro w h; cases h; exact eight_bytes _ _

theorem vfma (f : LongFields) : Statement (.vfma f) := by
  intro w h; cases h; exact eight_bytes _ _

theorem vfdiv (f : LongFields) : Statement (.vfdiv f) := by
  intro w h; cases h; exact eight_bytes _ _

theorem vfsqrt (f : LongFields) : Statement (.vfsqrt f) := by
  intro w h; cases h; exact eight_bytes _ _

theorem vfrcp (f : LongFields) : Statement (.vfrcp f) := by
  intro w h; cases h; exact eight_bytes _ _

theorem vfrsqrt (f : LongFields) : Statement (.vfrsqrt f) := by
  intro w h; cases h; exact eight_bytes _ _

theorem vfmin (f : LongFields) : Statement (.vfmin f) := by
  intro w h; cases h; exact eight_bytes _ _

theorem vfmax (f : LongFields) : Statement (.vfmax f) := by
  intro w h; cases h; exact eight_bytes _ _

theorem vfexp2 (f : LongFields) : Statement (.vfexp2 f) := by
  intro w h; cases h; exact eight_bytes _ _

theorem vflog2 (f : LongFields) : Statement (.vflog2 f) := by
  intro w h; cases h; exact eight_bytes _ _

theorem vfsinpi (f : LongFields) : Statement (.vfsinpi f) := by
  intro w h; cases h; exact eight_bytes _ _

theorem vfcospi (f : LongFields) : Statement (.vfcospi f) := by
  intro w h; cases h; exact eight_bytes _ _

theorem vftanh (f : LongFields) : Statement (.vftanh f) := by
  intro w h; cases h; exact eight_bytes _ _

theorem vfabs (f : LongFields) : Statement (.vfabs f) := by
  intro w h; cases h; exact eight_bytes _ _

theorem vfneg (f : LongFields) : Statement (.vfneg f) := by
  intro w h; cases h; exact eight_bytes _ _

theorem vfclass (f : LongFields) : Statement (.vfclass f) := by
  intro w h; cases h; exact eight_bytes _ _

theorem vfsgnj (f : LongFields) : Statement (.vfsgnj f) := by
  intro w h; cases h; exact eight_bytes _ _

theorem vfsgnjn (f : LongFields) : Statement (.vfsgnjn f) := by
  intro w h; cases h; exact eight_bytes _ _

theorem vfsgnjx (f : LongFields) : Statement (.vfsgnjx f) := by
  intro w h; cases h; exact eight_bytes _ _

theorem vcvt (f : LongFields) : Statement (.vcvt f) := by
  intro w h; cases h; exact eight_bytes _ _

theorem vcmp (f : LongFields) : Statement (.vcmp f) := by
  intro w h; cases h; exact eight_bytes _ _

theorem vmand (f : LongFields) : Statement (.vmand f) := by
  intro w h; cases h; exact eight_bytes _ _

theorem vmor (f : LongFields) : Statement (.vmor f) := by
  intro w h; cases h; exact eight_bytes _ _

theorem vmxor (f : LongFields) : Statement (.vmxor f) := by
  intro w h; cases h; exact eight_bytes _ _

theorem vmandn (f : LongFields) : Statement (.vmandn f) := by
  intro w h; cases h; exact eight_bytes _ _

theorem vmnot (f : LongFields) : Statement (.vmnot f) := by
  intro w h; cases h; exact eight_bytes _ _

theorem vmsbf (f : LongFields) : Statement (.vmsbf f) := by
  intro w h; cases h; exact eight_bytes _ _

theorem vmpush (f : LongFields) : Statement (.vmpush f) := by
  intro w h; cases h; exact eight_bytes _ _

theorem vmelse (f : LongFields) : Statement (.vmelse f) := by
  intro w h; cases h; exact eight_bytes _ _

theorem vmpop (f : LongFields) : Statement (.vmpop f) := by
  intro w h; cases h; exact eight_bytes _ _

theorem vmpopc (f : LongFields) : Statement (.vmpopc f) := by
  intro w h; cases h; exact eight_bytes _ _

theorem vmfirst (f : LongFields) : Statement (.vmfirst f) := by
  intro w h; cases h; exact eight_bytes _ _

theorem vmmovToPredicate (f : LongFields) : Statement (.vmmovToPredicate f) := by
  intro w h; cases h; exact eight_bytes _ _

theorem vmmovToMask (f : LongFields) : Statement (.vmmovToMask f) := by
  intro w h; cases h; exact eight_bytes _ _

theorem vredsum (f : LongFields) : Statement (.vredsum f) := by
  intro w h; cases h; exact eight_bytes _ _

theorem vredmin (f : LongFields) : Statement (.vredmin f) := by
  intro w h; cases h; exact eight_bytes _ _

theorem vredmax (f : LongFields) : Statement (.vredmax f) := by
  intro w h; cases h; exact eight_bytes _ _

theorem vredand (f : LongFields) : Statement (.vredand f) := by
  intro w h; cases h; exact eight_bytes _ _

theorem vredor (f : LongFields) : Statement (.vredor f) := by
  intro w h; cases h; exact eight_bytes _ _

theorem vredxor (f : LongFields) : Statement (.vredxor f) := by
  intro w h; cases h; exact eight_bytes _ _

theorem vld (f : LongFields) : Statement (.vld f) := by
  intro w h; cases h; exact eight_bytes _ _

theorem vldff (f : LongFields) : Statement (.vldff f) := by
  intro w h; cases h; exact eight_bytes _ _

theorem vgather (f : LongFields) : Statement (.vgather f) := by
  intro w h; cases h; exact eight_bytes _ _

theorem vst (f : LongFields) : Statement (.vst f) := by
  intro w h; cases h; exact eight_bytes _ _

theorem vscatter (f : LongFields) : Statement (.vscatter f) := by
  intro w h; cases h; exact eight_bytes _ _

theorem vrred (f : LongFields) : Statement (.vrred f) := by
  intro w h; cases h; exact eight_bytes _ _

theorem vamoadd (f : LongFields) : Statement (.vamoadd f) := by
  intro w h; cases h; exact eight_bytes _ _

theorem vldacc (f : LongFields) : Statement (.vldacc f) := by
  intro w h; cases h; exact eight_bytes _ _

theorem samoLoad (f : LongFields) : Statement (.samoLoad f) := by
  intro w h; cases h; exact eight_bytes _ _

theorem samoStore (f : LongFields) : Statement (.samoStore f) := by
  intro w h; cases h; exact eight_bytes _ _

theorem samoAdd (f : LongFields) : Statement (.samoAdd f) := by
  intro w h; cases h; exact eight_bytes _ _

theorem samoSwap (f : LongFields) : Statement (.samoSwap f) := by
  intro w h; cases h; exact eight_bytes _ _

theorem samoAnd (f : LongFields) : Statement (.samoAnd f) := by
  intro w h; cases h; exact eight_bytes _ _

theorem samoOr (f : LongFields) : Statement (.samoOr f) := by
  intro w h; cases h; exact eight_bytes _ _

theorem samoXor (f : LongFields) : Statement (.samoXor f) := by
  intro w h; cases h; exact eight_bytes _ _

theorem samoMin (f : LongFields) : Statement (.samoMin f) := by
  intro w h; cases h; exact eight_bytes _ _

theorem samoMax (f : LongFields) : Statement (.samoMax f) := by
  intro w h; cases h; exact eight_bytes _ _

theorem samoMinu (f : LongFields) : Statement (.samoMinu f) := by
  intro w h; cases h; exact eight_bytes _ _

theorem samoMaxu (f : LongFields) : Statement (.samoMaxu f) := by
  intro w h; cases h; exact eight_bytes _ _

theorem samoCas (f : LongFields) : Statement (.samoCas f) := by
  intro w h; cases h; exact eight_bytes _ _

theorem bfmtFormat (f : LongFields) : Statement (.bfmtFormat f) := by
  intro w h; cases h; exact eight_bytes _ _

theorem bfmtRowScales (f : LongFields) : Statement (.bfmtRowScales f) := by
  intro w h; cases h; exact eight_bytes _ _

theorem bfmtColumnScales (f : LongFields) : Statement (.bfmtColumnScales f) := by
  intro w h; cases h; exact eight_bytes _ _

theorem bls (f : LongFields) : Statement (.bls f) := by
  intro w h; cases h; exact eight_bytes _ _

theorem bswap (f : LongFields) : Statement (.bswap f) := by
  intro w h; cases h; exact eight_bytes _ _

theorem bstream (f : LongFields) : Statement (.bstream f) := by
  intro w h; cases h; exact eight_bytes _ _

theorem bclr (f : LongFields) : Statement (.bclr f) := by
  intro w h; cases h; exact eight_bytes _ _

theorem bstat (f : LongFields) : Statement (.bstat f) := by
  intro w h; cases h; exact eight_bytes _ _

theorem bsync (f : LongFields) : Statement (.bsync f) := by
  intro w h; cases h; exact eight_bytes _ _

theorem bsave (f : LongFields) : Statement (.bsave f) := by
  intro w h; cases h; exact eight_bytes _ _

theorem brstr (f : LongFields) : Statement (.brstr f) := by
  intro w h; cases h; exact eight_bytes _ _

theorem vtex (f : LongFields) : Statement (.vtex f) := by
  intro w h; cases h; exact eight_bytes _ _

theorem vtexlod (f : LongFields) : Statement (.vtexlod f) := by
  intro w h; cases h; exact eight_bytes _ _

theorem rq (f : LongFields) : Statement (.rq f) := by
  intro w h; cases h; exact eight_bytes _ _

theorem rqany (f : LongFields) : Statement (.rqany f) := by
  intro w h; cases h; exact eight_bytes _ _

theorem xpair (f : LongFields) : Statement (.xpair f) := by
  intro w h; cases h; exact eight_bytes _ _

theorem agpush (f : LongFields) : Statement (.agpush f) := by
  intro w h; cases h; exact eight_bytes _ _

theorem agpop (f : LongFields) : Statement (.agpop f) := by
  intro w h; cases h; exact eight_bytes _ _

theorem loadDataReturn (hart : Nat) (rd : Reg) : Statement (.loadDataReturn hart rd) := by
  intro w h; cases h

theorem postedEntryTimeout (core : Nat) (entry : Nat) : Statement (.postedEntryTimeout core entry) := by
  intro w h; cases h

theorem postedStoreAck (core : Nat) (entry : Nat) : Statement (.postedStoreAck core entry) := by
  intro w h; cases h

theorem vectorExecute (core : Nat) : Statement (.vectorExecute core) := by
  intro w h; cases h

theorem hoistRequestStart (core : Nat) (request : Nat) : Statement (.hoistRequestStart core request) := by
  intro w h; cases h

theorem hoistRequestComplete (core : Nat) (request : Nat) : Statement (.hoistRequestComplete core request) := by
  intro w h; cases h

theorem benchExecute (cluster : Nat) : Statement (.benchExecute cluster) := by
  intro w h; cases h

theorem waitRelease (hart : Nat) : Statement (.waitRelease hart) := by
  intro w h; cases h

theorem interruptEntry (hart : Nat) : Statement (.interruptEntry hart) := by
  intro w h; cases h

theorem routerForward (cluster : Nat) (entry : Nat) : Statement (.routerForward cluster entry) := by
  intro w h; cases h

theorem scratchLockLeaseExpiry (core : Nat) (bank : Nat) : Statement (.scratchLockLeaseExpiry core bank) := by
  intro w h; cases h

theorem coreTimerExpiry (hart : Nat) : Statement (.coreTimerExpiry hart) := by
  intro w h; cases h

theorem waitSatisfied (fn : Nat) (q : Nat) : Statement (.waitSatisfied fn q) := by
  intro w h; cases h

theorem admitPopulation (partition : Nat) : Statement (.admitPopulation partition) := by
  intro w h; cases h

theorem launchRecordWrite (partition : Nat) : Statement (.launchRecordWrite partition) := by
  intro w h; cases h

theorem populationComplete (partition : Nat) (popid : Nat) : Statement (.populationComplete partition popid) := by
  intro w h; cases h

theorem graphNodeStart (graph : Nat) (node : Nat) : Statement (.graphNodeStart graph node) := by
  intro w h; cases h

theorem condNode (graph : Nat) (node : Nat) : Statement (.condNode graph node) := by
  intro w h; cases h

theorem batchForm (queue : Nat) (bin : Nat) : Statement (.batchForm queue bin) := by
  intro w h; cases h

theorem queueFinish (queue : Nat) : Statement (.queueFinish queue) := by
  intro w h; cases h

theorem graphPassRearm (graph : Nat) : Statement (.graphPassRearm graph) := by
  intro w h; cases h

theorem graphEnd (graph : Nat) : Statement (.graphEnd graph) := by
  intro w h; cases h

theorem coldReset (images : List BootImage) : Statement (.coldReset images) := by
  intro w h; cases h

theorem recoveryImageUpload (fn : Nat) (image : BootImage) : Statement (.recoveryImageUpload fn image) := by
  intro w h; cases h

theorem attestationQuoteRequest (fn : Nat) (nonce : BitVec 256) : Statement (.attestationQuoteRequest fn nonce) := by
  intro w h; cases h

theorem identityCertificateRequest (fn : Nat) : Statement (.identityCertificateRequest fn) := by
  intro w h; cases h

theorem powerEvaluation (die : Nat) (milliwatts : Nat) (tjC : Nat) : Statement (.powerEvaluation die milliwatts tjC) := by
  intro w h; cases h

theorem thermalShutdown (die : Nat) (tjC : Nat) : Statement (.thermalShutdown die tjC) := by
  intro w h; cases h

theorem linkCrcReplay (die : Nat) (failures : Nat) : Statement (.linkCrcReplay die failures) := by
  intro w h; cases h

theorem haulLaneRetrain (port : Nat) : Statement (.haulLaneRetrain port) := by
  intro w h; cases h

theorem hostBar4Read (fn : Nat) (addr : Word) (bytes : Nat) (tag : Nat) : Statement (.hostBar4Read fn addr bytes tag) := by
  intro w h; cases h

theorem hostBar4Write (fn : Nat) (addr : Word) (data : List Byte) (ecrcOk : Bool) (poisoned : Bool) : Statement (.hostBar4Write fn addr data ecrcOk poisoned) := by
  intro w h; cases h

theorem hostCompletionTimeout (hart : Nat) : Statement (.hostCompletionTimeout hart) := by
  intro w h; cases h

theorem routeTableWrite (fn : Nat) (dev : Nat) (port : Nat) (valid : Bool) : Statement (.routeTableWrite fn dev port valid) := by
  intro w h; cases h

theorem notifyWrite (fn : Nat) (q : Nat) (value : Word32) : Statement (.notifyWrite fn q value) := by
  intro w h; cases h

theorem funcEnWrite (fn : Nat) (value : Word32) : Statement (.funcEnWrite fn value) := by
  intro w h; cases h

theorem queueEnableWrite (fn : Nat) (q : Nat) (value : Word32) : Statement (.queueEnableWrite fn q value) := by
  intro w h; cases h

theorem registerWrite (fn : Nat) (cap : Nat) (off : Nat) (value : Word) : Statement (.registerWrite fn cap off value) := by
  intro w h; cases h

theorem pluginLoad (fn : Nat) : Statement (.pluginLoad fn) := by
  intro w h; cases h

theorem pluginCall (partition : Nat) (a0 : Word) (a1 : Word) : Statement (.pluginCall partition a0 a1) := by
  intro w h; cases h

theorem pluginTimeout (partition : Nat) : Statement (.pluginTimeout partition) := by
  intro w h; cases h

theorem functionLevelReset (fn : Nat) : Statement (.functionLevelReset fn) := by
  intro w h; cases h

theorem flrKillTimeout (fn : Nat) : Statement (.flrKillTimeout fn) := by
  intro w h; cases h

theorem flip (fn : Nat) (head : Nat) (seq : Word32) : Statement (.flip fn head seq) := by
  intro w h; cases h

theorem encodeSlot (engine : Nat) : Statement (.encodeSlot engine) := by
  intro w h; cases h

theorem freezeWrite (fn : Nat) (region : Nat) (freeze : Bool) : Statement (.freezeWrite fn region freeze) := by
  intro w h; cases h

theorem tlbInvalidatePage (fn : Nat) : Statement (.tlbInvalidatePage fn) := by
  intro w h; cases h

theorem tlbInvalidateAll (fn : Nat) : Statement (.tlbInvalidateAll fn) := by
  intro w h; cases h

theorem tlbInvalidateStage2 (fn : Nat) (psel : Nat) : Statement (.tlbInvalidateStage2 fn psel) := by
  intro w h; cases h

theorem populate (fn : Nat) (q : Nat) : Statement (.populate fn q) := by
  intro w h; cases h

theorem graph (fn : Nat) (q : Nat) : Statement (.graph fn q) := by
  intro w h; cases h

theorem copy (fn : Nat) (q : Nat) : Statement (.copy fn q) := by
  intro w h; cases h

theorem wait (fn : Nat) (q : Nat) : Statement (.wait fn q) := by
  intro w h; cases h

theorem addPacket (fn : Nat) (q : Nat) : Statement (.addPacket fn q) := by
  intro w h; cases h

theorem patch (fn : Nat) (q : Nat) : Statement (.patch fn q) := by
  intro w h; cases h

theorem fencePacket (fn : Nat) (q : Nat) : Statement (.fencePacket fn q) := by
  intro w h; cases h

theorem kill (fn : Nat) (q : Nat) : Statement (.kill fn q) := by
  intro w h; cases h

theorem killTimeout (fn : Nat) (q : Nat) : Statement (.killTimeout fn q) := by
  intro w h; cases h

theorem cutCheckpoint (fn : Nat) (q : Nat) : Statement (.cutCheckpoint fn q) := by
  intro w h; cases h

theorem cutStop (fn : Nat) (q : Nat) : Statement (.cutStop fn q) := by
  intro w h; cases h

theorem cutRestore (fn : Nat) (q : Nat) : Statement (.cutRestore fn q) := by
  intro w h; cases h

theorem hostint (fn : Nat) (q : Nat) : Statement (.hostint fn q) := by
  intro w h; cases h

theorem nop (fn : Nat) (q : Nat) : Statement (.nop fn q) := by
  intro w h; cases h

theorem resize (fn : Nat) (q : Nat) : Statement (.resize fn q) := by
  intro w h; cases h

theorem watchdogExpiry (fn : Nat) (q : Nat) (seqNo : Nat) : Statement (.watchdogExpiry fn q seqNo) := by
  intro w h; cases h

theorem saveTimeout (fn : Nat) (q : Nat) (seqNo : Nat) : Statement (.saveTimeout fn q seqNo) := by
  intro w h; cases h

theorem coalesceTimerExpiry (fn : Nat) (vec : Nat) : Statement (.coalesceTimerExpiry fn vec) := by
  intro w h; cases h

theorem agentNode (graph : Nat) (node : Nat) : Statement (.agentNode graph node) := by
  intro w h; cases h

theorem flushExpiry (queue : Nat) (bin : Nat) : Statement (.flushExpiry queue bin) := by
  intro w h; cases h

theorem meshDistribute (graph : Nat) (node : Nat) : Statement (.meshDistribute graph node) := by
  intro w h; cases h

theorem rasterise (graph : Nat) (node : Nat) (bin : Nat) : Statement (.rasterise graph node bin) := by
  intro w h; cases h

theorem blend (graph : Nat) (node : Nat) (bin : Nat) : Statement (.blend graph node bin) := by
  intro w h; cases h

theorem rayTraversal (graph : Nat) (node : Nat) (bin : Nat) : Statement (.rayTraversal graph node bin) := by
  intro w h; cases h

theorem optimiserChange (cluster : Nat) (root : Word) (change : OptChange) : Statement (.optimiserChange cluster root change) := by
  intro w h; cases h

theorem preemptRequest (partition : Nat) (victims : List Nat) : Statement (.preemptRequest partition victims) := by
  intro w h; cases h

theorem hardPreemptCut (partition : Nat) (cluster : Nat) : Statement (.hardPreemptCut partition cluster) := by
  intro w h; cases h

theorem preemptRestore (partition : Nat) (slot : Nat) (hart : Nat) : Statement (.preemptRestore partition slot hart) := by
  intro w h; cases h

theorem cutArm (unit : Nat) : Statement (.cutArm unit) := by
  intro w h; cases h

theorem cutMarkerArrival (core : Nat) (channel : Nat) : Statement (.cutMarkerArrival core channel) := by
  intro w h; cases h

theorem cutResume (partition : Nat) : Statement (.cutResume partition) := by
  intro w h; cases h

theorem slacq (hart : Nat) (bank : Nat) (rd : Reg) : Statement (.slacq hart bank rd) := by
  intro w h; cases h

theorem slrel (hart : Nat) (bank : Nat) (rd : Reg) : Statement (.slrel hart bank rd) := by
  intro w h; cases h

theorem directoryRecordPop (core : Nat) (rd : Reg) : Statement (.directoryRecordPop core rd) := by
  intro w h; cases h

theorem directoryInvalidate (core : Nat) (value : Word) : Statement (.directoryInvalidate core value) := by
  intro w h; cases h

theorem directoryDone (core : Nat) (value : Word) : Statement (.directoryDone core value) := by
  intro w h; cases h

theorem routerRecordPop (core : Nat) (rd : Reg) : Statement (.routerRecordPop core rd) := by
  intro w h; cases h

theorem routerWiden (core : Nat) (value : Word) : Statement (.routerWiden core value) := by
  intro w h; cases h

theorem debugHaltRequest (core : Nat) : Statement (.debugHaltRequest core) := by
  intro w h; cases h

theorem debugResumeRequest (core : Nat) : Statement (.debugResumeRequest core) := by
  intro w h; cases h

theorem debugSingleStep (hart : Nat) : Statement (.debugSingleStep hart) := by
  intro w h; cases h

theorem debugAccessRegister (hart : Nat) (regno : Nat) (write : Bool) (value : Word) : Statement (.debugAccessRegister hart regno write value) := by
  intro w h; cases h

theorem debugProgramBuffer (hart : Nat) : Statement (.debugProgramBuffer hart) := by
  intro w h; cases h

theorem remoteDeviceAccess (access : RemoteAccess) : Statement (.remoteDeviceAccess access) := by
  intro w h; cases h

theorem hostErrorCompletion (hart : Nat) (abort : Bool) : Statement (.hostErrorCompletion hart abort) := by
  intro w h; cases h

theorem msixUnmask (fn : Nat) (vec : Nat) : Statement (.msixUnmask fn vec) := by
  intro w h; cases h

theorem pageRequestResponse (fn : Nat) (page : Nat) (granted : Bool) : Statement (.pageRequestResponse fn page granted) := by
  intro w h; cases h

theorem configurationRequest (fn : Nat) (tag : Nat) : Statement (.configurationRequest fn tag) := by
  intro w h; cases h

theorem hostLinkTraining (width : Nat) (gts : Nat) : Statement (.hostLinkTraining width gts) := by
  intro w h; cases h

theorem pfFunctionLevelReset : Statement (.pfFunctionLevelReset) := by
  intro w h; cases h

theorem forwardedPacketAccept : Statement (.forwardedPacketAccept) := by
  intro w h; cases h

theorem fenceTso : Statement (.fenceTso) := by
  intro w h; cases h; rfl

theorem fenceI : Statement (.fenceI) := by
  intro w h; cases h; rfl

theorem ecall : Statement (.ecall) := by
  intro w h; cases h; rfl

theorem ebreak : Statement (.ebreak) := by
  intro w h; cases h; rfl

theorem sret : Statement (.sret) := by
  intro w h; cases h; rfl

theorem mret : Statement (.mret) := by
  intro w h; cases h; rfl

theorem wfi : Statement (.wfi) := by
  intro w h; cases h; rfl

theorem texit : Statement (.texit) := by
  intro w h; cases h; exact encR_four (by decide) (by decide)

end Sys2Proof.Laws.WordLength
end

