-- ==== Sys2Proof/Tests/Slice0.lean ====
section
/-! SUPPORT. Tests: ill-formed terms that the checks refuse, words that decode to the instructions they stand for, single steps with
results taken from the manual, and for each statement with hypotheses a state and operands that meet them. -/

namespace Sys2Proof.Tests

open Sys2Proof Sys2Proof.Machine

set_option Elab.async false

/- Helpers. -/

/-- The state that an outcome leaves. -/
def nextOf (o : Host.Outcome State Fault Refusal) : State :=
  match o with
  | .next t => t
  | _ => State.reset

/-- A small state: hart h runs in a mode with registers x, on core 0 of partition 64. -/
def small (h : Nat) (priv : Priv) (x : Tbl Word) : State :=
  { State.reset with now := 100, cur := h, harts := [(h, { Hart.resetOf h with run := .running, priv := priv, pc := 0x1000, x := x })] }

/-- The state of hart h changed in one way. -/
def withHart (f : Hart → Hart) (s : State) : State := s.modHart s.cur f

/-- Whether a meaning in steps answers a value and leaves the state. -/
def answers {α : Type} [DecidableEq α] (m : Except Stop (α × State)) (a : α) (s : State) : Bool :=
  match m with
  | .ok (b, t) => decide (b = a) && decide (t = s)
  | .error _ => false

theorem ok_of_answers {α : Type} [DecidableEq α] {m : Except Stop (α × State)} {a : α} {s : State} (h : answers m a s = true) :
    m = .ok (a, s) := by
  unfold answers at h
  cases m with
  | error e => cases h
  | ok r =>
    have h' := (Bool.and_eq_true _ _).mp h
    exact congrArg Except.ok (Prod.ext (of_decide_eq_true h'.1) (of_decide_eq_true h'.2))

/-- Whether a computation answers a value. -/
def gives {ε α : Type} [DecidableEq α] (m : Except ε α) (a : α) : Bool :=
  match m with
  | .ok b => decide (b = a)
  | .error _ => false

theorem ok_of_gives {ε α : Type} [DecidableEq α] {m : Except ε α} {a : α} (h : gives m a = true) : m = .ok a := by
  unfold gives at h
  split at h
  · simp only [decide_eq_true_eq] at h
    rw [h]
  · cases h

/-- A translation of the first gigabyte, of the device or of the host. -/
def page (host : Bool) : TlbEntry :=
  { partition := 64, asid := 0, global := true, va := 0, part := 0, pa := 0, bits := 30, host := host, perm := 0xFF, tables := false
    shr := false, r2 := true, w2 := true, x2 := true }

/-- Core 0 holds it in its instruction TLB and in the TLB of each of its memory pipes. -/
def holding (host : Bool) (s : State) : State :=
  s.modCore 0 (fun c => { c with itlb := [page host], pipes := (List.range 4).map (fun k => (k, [page host])), tlb := [page host] })

/-- Context 1 of core 0 in U-mode, with some operands. -/
def prog : State := holding false (small 1 .user [(2, 7), (3, 9), (4, 0x2000)])

/-- Context 0 of core 0 in S-mode. -/
def sup : State := holding false (small 0 .supervisor [(2, 1), (3, 0x3000)])

/- ArithmeticResults to ReturnsAndWait. -/

theorem witness_operands : Readable prog 2 ∧ Readable prog 3 ∧ Writable prog 1 ∧ Writable prog 0 ∧ Readable prog 0 :=
  ⟨⟨rfl, by decide⟩, ⟨rfl, by decide⟩, .inl rfl, .inl rfl, ⟨rfl, by decide⟩⟩

theorem witness_marked_destination : Writable (withHart (fun h => h.setXFe 1 .marked) prog) 1 ∧ Machine.Empty (withHart (fun h => h.setXFe 1 .marked) prog) 1 :=
  ⟨.inr rfl, by unfold Machine.Empty; decide +kernel⟩

theorem witness_branches : (prog.xval 2 = prog.xval 2) ∧ (prog.xval 2 ≠ prog.xval 3) ∧ (prog.xval 2).toInt < (prog.xval 3).toInt := by
  decide +kernel

theorem witness_csr_legal : csrLegal prog prog.cur 0xC00 false = true ∧ csrLegal prog prog.cur 0x802 true = true ∧ csrLegal sup sup.cur 0x105 true = true ∧ noVectorWork prog := by
  exact ⟨by decide +kernel, by decide +kernel, by decide +kernel, fun _ h => by cases h⟩

theorem witness_csr_illegal : csrExists prog.cur 0x7C5 = false ∧ privNat prog.self.priv < csrLevel 0x100 ∧ csrReadOnly 0xC00 = true := by
  decide +kernel

theorem witness_fences : noVectorWork sup ∧ NothingPosted sup ∧ sup.self.widening = false ∧ hasMessages sup.cur = true ∧
    Readable sup 2 ∧ sup.self.priv = .supervisor ∧ sup.self.csr.mstatus.getLsbD 20 = false ∧ sup.self.fencing = none ∧
    ∀ c ∈ sup.cores, c.2.posted = [] :=
  ⟨fun _ h => (by cases h), fun _ h => (by cases h), rfl, rfl, ⟨rfl, by decide⟩, rfl, rfl, rfl, by decide +kernel⟩

theorem witness_modes : inProgram prog prog.cur = false ∧ prog.self.priv = .user ∧ sup.self.priv = .supervisor ∧
    prog.self.csr.dcsr.getLsbD (ebreakBit prog.self.priv) = false ∧ (small 0x20000 .machine []).self.priv = .machine ∧
    (isVector prog.cur = false ∨ ctxOf prog.cur ≠ 0) := by decide +kernel

theorem witness_delegation : prog.self.csr.medeleg.getLsbD 8 = true ∧ prog.self.csr.medeleg.getLsbD 9 = false := by decide +kernel

theorem witness_wait_for_interrupt : pendingIrqs sup sup.cur = 0 ∧
    pendingIrqs (withHart (fun h => { h with irqPending := 0x40000, csr := { h.csr with mie := 0x40000 } }) sup) 0 ≠ 0 := by decide +kernel

/- Scalar memory. -/

/-- Hart 1 with translations that lead to host memory. -/
def onHost : State := holding true prog

/-- Hart 1 with a register that holds an offset of the window. -/
def atWindow (off : Nat) : State := withHart (fun h => h.setX 4 (BitVec.ofNat 64 (windowBase + off))) prog

/-- Whether an access reaches an address of device or host memory at once. -/
def reachesAt (s : State) (acc : Acc) (va n : Nat) (host : Bool) : Bool :=
  !inWindow s.cur va && decide (va % 128 + n ≤ 128) &&
    gives (translateHart s s.cur acc va n) ({ pa := va, host := host }, some { entry := page host }) &&
    (s.part (partOfHart s s.cur)).rehoming.isNone

theorem reaches_of {s : State} {acc : Acc} {va n : Nat} {host : Bool} (h : reachesAt s acc va n host = true) :
    Reaches s acc va n { pa := va, host := host } := by
  simp only [reachesAt, Bool.and_eq_true, Bool.not_eq_true', decide_eq_true_eq, Option.isNone_iff_eq_none] at h
  exact ⟨h.1.1.1, h.1.1.2, ⟨_, ok_of_gives h.1.2⟩, h.2⟩

theorem witness_load_global : (prog.ea 4 0).toNat = 0x2000 ∧ Reaches prog .load 0x2000 8 { pa := 0x2000, host := false } ∧
    OnlyPlainPosted prog 64 ∧ heldByte prog 0x2000 8 = none ∧ Reaches onHost .load 0x2000 8 { pa := 0x2000, host := true } ∧
    onHost.self.hostRead = none ∧ (withHart (fun h => { h with hostRead := some (hostBase + 0x2000, .ready) }) onHost).self.hostRead =
      some (Phys.num { pa := 0x2000, host := true }, .ready) :=
  ⟨by decide +kernel, reaches_of (by decide +kernel), fun _ h => (by cases h), rfl, reaches_of (by decide +kernel), rfl, by decide +kernel⟩

/-- The places of the window at the edges of its parts. -/
theorem witness_window_places : ReachesLocal (atWindow 0) windowBase 8 (.scratch 0) ∧
    ReachesLocal (atWindow 0x7FFF8) (windowBase + 0x7FFF8) 8 (.scratch 0x7FFF8) ∧ ReachesLocal (atWindow 0x100000) (windowBase + 0x100000) 8 (.wbuf 0) ∧
    ReachesLocal (atWindow 0x200000) (windowBase + 0x200000) 8 (.abuf 0) ∧ ReachesLocal (atWindow 0x300000) (windowBase + 0x300000) 8 (.cbuf 0) ∧
    ReachesLocal (atWindow 0x400000) (windowBase + 0x400000) 8 (.lock 0 false) ∧
    ReachesLocal (atWindow 0x1100000) (windowBase + 0x1100000) 8 (.peer 1 0) ∧
    windowPlace (unitOf (atWindow 0x80000).cur) 0x80000 = none := by
  unfold ReachesLocal; decide +kernel

theorem witness_window_state : BankOpen (atWindow 0) 0 0 ∧ WordsWhole (atWindow 0) ∧ noVectorWork (atWindow 0) ∧ NothingPosted (atWindow 0) ∧
    Readable (atWindow 0) 4 ∧ ((atWindow 0).ea 4 0).toNat = windowBase :=
  ⟨⟨fun c h => (by cases h), by decide +kernel⟩, rfl, fun _ h => (by cases h), fun _ h => (by cases h), ⟨rfl, by decide⟩, by decide +kernel⟩

/-- A line of the L1 that the core owns. -/
def ownsLine : State := prog.modCore 0 (fun c => { c with l1 := [{ line := 8, st := .modified, valid := 0xFF, dirty := 0 }] })

theorem witness_store_global : Reaches ownsLine .store 0x2000 8 { pa := 0x2000, host := false } ∧ heldByte ownsLine 0x2000 8 = none ∧
    (!false && l1Owns ownsLine 0 0x2000) = true ∧ (∀ p ∈ (ownsLine.core 0).posted, p.hart = ownsLine.cur → p.sector ≠ 64) ∧
    l1Owns prog 0 0x2000 = false ∧ bufferFull prog 0 = false :=
  ⟨reaches_of (by decide +kernel), rfl, by decide +kernel, by decide +kernel, by decide +kernel⟩

/-- A posted-store buffer with 64 entries. -/
def fullBuffer : State := prog.modCore 0 (fun c => { c with posted := (List.range 64).map (fun i =>
  Posted.mk i 2 i (.bytes []) 0 false false 0 false false false none none) })

theorem witness_full_buffer : bufferFull fullBuffer 0 = true := by decide +kernel

theorem witness_misaligned : (inWindow 1 0x207C = false ∧ 128 < 0x207C % 128 + 8) ∧ (inWindow 1 (windowBase + 4) = true ∧ (windowBase + 4) % 8 ≠ 0) := by
  decide +kernel

theorem witness_atomic : noVectorWork prog ∧ NothingPosted prog ∧ prog.self.widening = false ∧ (prog.xval 4).toNat % 8 = 0 ∧
    Reaches prog .store (prog.xval 4).toNat 8 { pa := 0x2000, host := false } ∧ isRemote 0x2000 = false ∧ heldByte prog 0x2000 8 = none ∧
    ovfSlice prog (partOfHart prog prog.cur) 64 = none ∧ Reaches onHost .store (onHost.xval 4).toNat 8 { pa := 0x2000, host := true } :=
  ⟨fun _ h => (by cases h), fun _ h => (by cases h), rfl, by decide +kernel, reaches_of (by decide +kernel), by decide, rfl, by decide +kernel,
    reaches_of (by decide +kernel)⟩

theorem witness_reservation : (withHart (fun h => { h with reservation := some 64 }) prog).self.reservation =
    some (sectorOf (Phys.num { pa := 0x2000, host := false })) ∧ prog.self.reservation ≠ some 64 := by decide +kernel

/- Threads, gangs, messages, the Hoist. -/

/-- A launch record of four threads. -/
def record : LaunchRec :=
  { pc := 0x4000, seed0 := 1, seed1 := 2, seed2 := 3, seed3 := 4, first := 8, size := 12, nthr := 4, prio := 1, privS := false, coresident := false
    quota := 0, gang := 0, stktop := 0x90000, stkbytes := 0x1000, popid := 5, comp := 0x8000, as := 0, partition := 64, batch := none, perThread := 0
    records := [], started := 1, headAt := none }

/-- Context 0 with a record at the head of sub-queue 0. -/
def launching : State := sup.modCore 0 (fun c => { c with launch := [(0, [record])] })

theorem witness_start : IsCoreSupervisor launching ∧ (launching.xval 2).toNat % 16 = 1 ∧ (launching.hart 1).run = .free ∧
    tblGet [] (launching.core 0).launch 0 = [record] ∧ tblGet [] (sup.core 0).launch ((sup.xval 2).toNat / 256 % 4) = [] ∧
    PairAt launching (launching.xval 3).toNat 0 ∧ (sup.xval 0).toNat % 16 = 0 :=
  ⟨⟨rfl, rfl⟩, by decide +kernel, rfl, rfl, rfl,
    ⟨{ pa := 0x3000, host := false }, reaches_of (by decide +kernel), by decide +kernel, rfl, fun _ h => (by cases h), rfl, by decide +kernel⟩,
    by decide +kernel⟩

/-- Context 0 with context 1 in a state of its run. -/
def beside (r : RunState) : State := sup.modHart 1 (fun h => { h with run := r })

/-- A posted access of hart 1. -/
def posted1 : Posted := Posted.mk 7 1 64 (.bytes [(0x2000, 5)]) 0 false false 0 false false false none none

theorem beside_parts (r : RunState) : (beside r).parts = [(64, { entry := PartEntry.reset64 })] := by
  simp only [beside, Laws.modHart_parts, Laws.modCore_parts, sup, holding, small, State.reset]

theorem witness_end : IsCoreSupervisor (beside .exited) ∧ ((beside .exited).xval 2).toNat % 16 = 1 ∧ ((beside .exited).hart 1).run = .exited ∧
    contextBusy (beside .exited) 1 = false ∧ ((beside .running).hart 1).run ≠ .exited ∧
    (((beside .exited).modCore 0 (fun c => { c with posted := [posted1] })).core 0).posted.any (fun e => e.hart = 1) = true ∧
    ((beside .running).hart 1).run ≠ .free ∧ ((beside .running).hart 1).tkilling = false ∧ ((beside .running).core 0).locks = [] ∧
    ((beside .running).hart 1).thread.gang = 0 ∧ (∀ p, gangFind (beside .running) p 0 = none) :=
  ⟨⟨rfl, rfl⟩, by decide +kernel, rfl, by decide +kernel, by decide +kernel, by decide +kernel, by decide +kernel, rfl, rfl, rfl, fun p => by
    unfold gangFind State.part
    rw [beside_parts]
    simp only [tblGet]
    split
    · exact List.find?_nil
    · exact List.find?_nil⟩

theorem witness_exit : IsProgramContext prog ∧ noVectorWork prog ∧ prog.self.loads = [] ∧ (prog.hart (prog.cur / 16 * 16)).q7.length < 32 ∧
    gangFind prog prog.self.thread.partition prog.self.thread.gang = none ∧ (prog.core (unitOf prog.cur)).locks = [] ∧
    32 ≤ ((prog.modHart 0 (fun h => { h with q7 := List.replicate 32 (0, 0) })).hart 0).q7.length :=
  ⟨⟨rfl, by decide⟩, fun _ h => (by cases h), rfl, by decide +kernel, by decide +kernel, rfl, by decide +kernel⟩

theorem witness_status : isVector launching.cur = true ∧ (launching.xval 2).getLsbD 4 = false ∧
    (withHart (fun h => h.setX 2 0x10) launching).xval 2 = 0x10 ∧ (0x10 : Word).getLsbD 4 = true ∧ ctxOf launching.cur = 0 ∧
    record.nthr < 16 ∧ record.started < 16 ∧ record.prio < 4 ∧ ctxOf prog.cur ≠ 0 := by decide +kernel

/-- A gang of one, or of two, that hart 1 has joined. -/
def inGang (two : Bool) : State :=
  (withHart (fun h => { h with thread := { h.thread with gang := 3 } }) prog).modPart 64 (fun p => { p with gangs := [{ id := 3, reserved := 0, coresident := false, members := { who := 1, rank := 0, party := 0, arrived := false } :: (if two then [{ who := 2, rank := 1, party := 0, arrived := false }] else []), generation := 0 }] })

theorem witness_gang : IsProgramContext (inGang false) ∧ (myGang (inGang false)).isSome = true ∧ (myGang prog).isNone = true ∧
    (∃ g m, InGang (inGang false) g m ∧ g.members = [m] ∧ g.reserved = 0 ∧ m.arrived = false ∧ m.party ≤ g.generation ∧ m.who < 2 ^ 20) ∧
    (∃ g m, InGang (inGang true) g m ∧ m.arrived = false ∧ ∃ x ∈ g.members, x.who ≠ (inGang true).cur ∧ x.party ≤ g.generation ∧ x.arrived = false) ∧
    prog.xval 0 = 0 ∧ (prog.part prog.self.thread.partition).gangs.length < 4096 ∧ prog.xval 3 ≠ 0 ∧
    gangFind prog prog.self.thread.partition (prog.xval 3).toNat = none :=
  ⟨⟨rfl, by decide⟩, by decide +kernel, by decide +kernel,
    ⟨{ id := 3, reserved := 0, coresident := false, members := [{ who := 1, rank := 0, party := 0, arrived := false }], generation := 0 },
      { who := 1, rank := 0, party := 0, arrived := false }, by unfold InGang; decide +kernel, rfl, rfl, rfl, by decide, by decide⟩,
    ⟨_, { who := 1, rank := 0, party := 0, arrived := false }, (by unfold InGang; exact rfl), rfl,
      ⟨{ who := 2, rank := 1, party := 0, arrived := false }, by decide +kernel, by decide +kernel, by decide +kernel, rfl⟩⟩,
    rfl, by decide +kernel, by decide +kernel, by decide +kernel⟩

theorem witness_gang_full : 4096 ≤ ((prog.modPart 64 (fun p => { p with gangs := (List.range 4096).map (fun i => ⟨i + 1, 0, false, [], 0, 0, false⟩) })).part 64).gangs.length := by
  decide +kernel

/-- A state in which hart 1 may join gang 3, of which it is no member. -/
def joining : State :=
  (withHart (fun h => h.setX 2 3) prog).modPart 64 (fun p => { p with gangs := [{ id := 3, reserved := 0, coresident := false, members := [{ who := 2, rank := 0, party := 0, arrived := false }], generation := 0 }] })

theorem witness_join : (myGang joining).isNone = true ∧ joining.xval 2 ≠ 0 ∧ gangFind joining joining.self.thread.partition (joining.xval 2).toNat =
      some { id := 3, reserved := 0, coresident := false, members := [{ who := 2, rank := 0, party := 0, arrived := false }], generation := 0 } ∧
    2 ≠ joining.cur := by decide +kernel

theorem witness_quiet : AllQuiet (inGang false) := by unfold AllQuiet; decide +kernel

/-- Hart 1 with a target word in x2: context 2 of its core. -/
def sending (run : RunState) : State := (withHart (fun h => h.setX 2 2) prog).modHart 2 (fun h => { h with run := run })

theorem witness_messages : hasMessages (sending .running).cur = true ∧ msendTarget (sending .running) 1 ((sending .running).xval 2) = some 2 ∧
    msendTarget prog 1 (prog.xval 4) = none ∧ noVectorWork (sending .running) ∧ NothingPosted (sending .running) ∧
    (sending .running).self.widening = false ∧ ((sending .running).core (unitOf 2)).kcut.recorded = false ∧ ((sending .running).hart 2).q7.length < 32 ∧
    ((sending .running).hart 2).run = .running ∧ ((sending .free).hart 2).run ≠ .running ∧ isVector 2 = true ∧
    32 ≤ (((sending .running).modHart 2 (fun h => { h with q7 := List.replicate 32 (0, 0) })).hart 2).q7.length ∧
    (∀ e ∈ (prog.core (unitOf prog.cur)).tokens, e.1 ≠ prog.cur) ∧ prog.self.q7 = [] ∧
    (withHart (fun h => { h with q7 := [(5, 6)] }) prog).self.q7 = (5, 6) :: [] :=
  ⟨by decide +kernel, by decide +kernel, by decide +kernel, fun _ h => (by cases h), fun _ h => (by cases h), rfl, rfl, by decide +kernel, by decide +kernel,
    by decide +kernel, by decide, by decide +kernel, fun _ h => (by cases h), rfl, by decide +kernel⟩

/-- Core 0 with tasks in its ready queue. -/
def tasks (l : Tbl (List (BitVec 16))) : State := prog.modCore 0 (fun c => { c with ready := l })

theorem witness_ready : (∀ p, p < 4 → tblGet [] ((tasks []).core (unitOf (tasks []).cur)).ready p = []) ∧
    (tblGet [] ((tasks []).core 0).ready ((prog.xval 3).toNat % 4)).length < 64 ∧
    64 ≤ (tblGet [] ((tasks [(1, List.replicate 64 0)]).core 0).ready ((prog.xval 3).toNat % 4)).length ∧
    (tblGet [] ((tasks [(0, [1]), (3, [2, 3])]).core 0).ready 3 = 2 :: [3]) ∧
    (tblGet [] ((tasks [(0, [1])]).core 0).ready 0 = 1 :: [] ∧ ∀ q, 0 < q → q < 4 → tblGet [] ((tasks [(0, [1])]).core 0).ready q = []) := by
  refine ⟨by decide +kernel, by decide +kernel, by decide +kernel, by decide +kernel, by decide +kernel, ?_⟩
  intro q h1 h2
  have : ∀ q, q < 4 → 0 < q → tblGet [] ((tasks [(0, [1])]).core 0).ready q = [] := by decide +kernel
  exact this q h2 h1

theorem witness_full_empty : prog.self.xFe prog.now 5 = .full ∧ (withHart (fun h => h.setXFe 5 .marked) prog).self.xFe 100 5 = .marked ∧
    (withHart (fun h => h.setXFe 5 (.due 101)) prog).self.xFe 100 5 ≠ .full ∧ (withHart (fun h => h.setXFe 5 (.due 101)) prog).self.xFe 100 5 ≠ .marked ∧
    Machine.Empty (withHart (fun h => h.setXFe 5 .inFlight) prog) 5 ∧ prog.vFe prog.cur 3 = .full ∧ prog.vFe prog.cur 3 ≠ .marked :=
  ⟨rfl, rfl, by decide +kernel, by decide +kernel, by unfold Machine.Empty; decide +kernel, by decide +kernel, by decide +kernel⟩

/-- Hart 1 with the four words of a Hoist request in x8 to x11: 64 bytes from scratch offset 0 to 0x100. -/
def hoisting (w0 : Word) : State := withHart (fun h => ((h.setX 8 w0).setX 9 0).setX 10 0x100) prog

/-- A request that hart 1 has pushed. -/
def request : HoistReq :=
  { id := 0, hart := 1, w0 := 0x0009000000000040, w1 := 0, w2 := 0x100, w3 := 0, vlr := 1, vlc := 32, vty := 2, priv := .user, progress := 0, started := false
    stopped := none, written := false }

theorem witness_hoist : hoistWordsOk 0x0009000000000040 0 0x100 0 = true ∧ hoistWordsOk (2 ^ 63) 0 0 0 = false ∧
    (∀ k, k < 4 → (hoisting 0x0009000000000040).self.xReady 100 (8 + k) = true ∧ 8 + k ∉ (hoisting 0x0009000000000040).self.xHeld) ∧ (0x0009000000000040 : Word).getLsbD 55 = false ∧
    ((hoisting 0).core 0).hoist.length < 16 ∧ 16 ≤ (((hoisting 0).modCore 0 (fun c => { c with hoist := List.replicate 16 request })).core 0).hoist.length := by
  decide +kernel

theorem witness_drain : (∀ r ∈ (prog.core 0).hoist, drainCovers 0 0 (prog.core 0).nextReq r = false) ∧
    drainCovers 0 0 1 request = true ∧ prog.self.fencing = none :=
  ⟨fun _ h => (by cases h), by decide +kernel, rfl⟩

theorem witness_counter : (prog.xval 4).toNat = 0x2000 ∧ (prog.xval 0).toNat ≤ leNat (viewBytes prog 1 0x2000 8) ∧
    leNat (viewBytes prog 1 0x2000 8) < (prog.xval 2).toNat := by decide +kernel

/- Vector instructions. The lengths after reset are 32 columns and 8 rows, and every slot is set in p0. -/

/-- Whether the register operands of an instruction are there. -/
def operandsOk (s : State) (i : Instr) : Bool :=
  let reads (r : Reg) : Bool := s.self.xReady s.now r.toNat && decide (r.toNat ∉ s.self.xHeld)
  let scalars : Bool := match i.long? with
    | none => true
    | some (f, k) => (decide (k.a = .x) → reads f.a) && (decide (k.b = .x) → reads f.b)
        && (decide (k.c = .x ∨ (k.progress = true ∧ f.nt = true)) → reads f.c) && (decide (k.d = .x) → s.self.xFe s.now f.d.toNat = .full)
  (queueMisuse i).isNone && scalars && (vSources i).all (fun u => (u.empties s).isEmpty)
    && (match i with
      | .vins f => !vEmpty s s.cur f.d.toNat
      | _ => true)

theorem operands_there {s : State} {i : Instr} (h : operandsOk s i = true) : OperandsThere s i := by
  simp only [operandsOk, Bool.and_eq_true, Option.isNone_iff_eq_none, List.all_eq_true, List.isEmpty_iff] at h
  refine ⟨h.1.1.1, fun f k e => ?_, h.1.2, fun f e => ?_⟩
  · have h2 := h.1.1.2
    simp only [e, Bool.and_eq_true, decide_eq_true_eq] at h2
    exact ⟨h2.1.1.1, h2.1.1.2, h2.1.2, fun d => .inl (h2.2 d)⟩
  · have h2 := h.2
    subst e
    simpa using h2

/-- Whether the vector unit is idle. -/
def lanesIdle (s : State) : Bool :=
  let c := s.core (unitOf s.cur)
  decide (c.vq = [] ∧ c.lanesUntil ≤ s.now ∧ s.self.vec.vfe = [] ∧ c.failingLanes = [] ∧ c.parity = [] ∧ s.self.vec.failing = [])

theorem lanes_idle {s : State} (h : lanesIdle s = true) : LanesIdle s := by
  have h := of_decide_eq_true h
  refine ⟨h.1, h.2.1, fun r => ?_, h.2.2.2⟩
  have e : (s.hart s.cur).vec.vfe = [] := h.2.2.1
  simp only [regTimes, e, tblGet]

/-- Whether a long instruction with elements of w bytes is legal and may execute at once. -/
def issues (s : State) (i : Instr) (w : Nat) : Bool :=
  vecLegal s i w && operandsOk s i && lanesIdle s && decide (s.self.vec.vlc ≤ 32)

theorem ready_of_issues {s : State} {i : Instr} {w : Nat} (h : issues s i w = true) : VecReady s i w := by
  simp only [issues, Bool.and_eq_true, decide_eq_true_eq] at h
  exact ⟨h.1.1.1, operands_there h.1.1.2, lanes_idle h.1.2, h.2⟩

/-- Operand fields for instructions of one, two and three sources, of a 32-bit integer type and of f32. -/
def operands : List LongFields :=
  [{ d := 1, a := 2, ty := 2 }, { d := 1, a := 2, b := 3, ty := 2 }, { d := 1, a := 2, b := 3, c := 4, ty := 2 }, { d := 1, ty := 2 },
    { d := 1, a := 2, ty := 6 }, { d := 1, a := 2, b := 3, ty := 6 }, { d := 1, a := 2, b := 3, c := 4, ty := 6 }, { d := 1, a := 2, b := 3 }, { d := 1, a := 2 },
    { a := 2 }, {}, { d := 1, a := 2, b := 3, ty := 6, imm := 1 }, { d := 1, a := 2, b := 3, ty := 6, imm := 2 }, { d := 1, imm := 1 }, { a := 2, imm := 1, ax := true }]

theorem witness_integer_table : intElemTable.all (fun e => operands.any (fun f => f.ty = 2 && issues prog (e.1 f) 4)) = true ∧
    satTable.all (fun e => operands.any (fun f => f.ty = 2 && issues prog (e.1 { f with sat := true }) 4)) = true ∧
    NoReuse prog ∧ NoArithTraps prog := by
  refine ⟨by decide +kernel, by decide +kernel, rfl, by unfold NoArithTraps; decide +kernel⟩

theorem witness_float_table : floatElemTable.all (fun e => operands.any (fun f => f.ty = 6 && issues prog (e.1 f) 4)) = true := by decide +kernel

theorem witness_one_of_table : VecReady prog (.vadd { d := 1, a := 2, b := 3, ty := 2 }) 4 := ready_of_issues (by decide +kernel)

/-- Hart 1 with class NX enabled, and 1.0 in every element of v2 and 3.0 in every element of v3. -/
def trapping : State := withHart (fun h => { h with vec := { h.vec with vxcls := 0x100, v := [(2, bytesToV (rep4 0x3F800000)), (3, bytesToV (rep4 0x40400000))] } }) prog
where
  rep4 (v : Nat) : Nat := (List.range 256).foldl (fun a i => a + v * 2 ^ (32 * i)) 0
  bytesToV (n : Nat) : VReg := BitVec.ofNat 8192 n

theorem witness_arithmetic_trap : issues trapping (.vfdiv { d := 1, a := 2, b := 3, ty := 6 }) 4 = true ∧ bitOf trapping.self.vec.enabled 0 = true ∧
    (let f : LongFields := { d := 1, a := 2, b := 3, ty := 6 }
     trapping.active f 0 = true ∧ bitOf (fDiv 6 (trapping.rounding f) false (trapping.elem 2 4 0) (trapping.elem 3 4 0)).flags 0 = true) := by
  decide +kernel

theorem witness_moves : ([.vmv { d := 1, a := 2, ty := 2 }, .vbcast { d := 1, a := 2, ty := 2 }, .vins { d := 1, a := 2, b := 3, ty := 2 }, .vsel { d := 1, a := 2, b := 3, c := 4, ty := 2 },
    .viota { d := 1, ty := 2 }, .vslide { d := 1, a := 2, b := 3, ty := 2 }, .vslide { d := 1, a := 2, b := 3, ty := 2, ax := true }, .vshuf { d := 1, a := 2, b := 3, ty := 2 },
    .vtrn { d := 1, a := 2, ty := 2 }, .vext { d := 1, a := 2, b := 3, ty := 2 }, .vhash { d := 1, a := 2, ty := 2 }] : List Instr).all (fun i => issues prog i 4) = true := by
  decide +kernel

theorem witness_reductions : reduceTable.all (fun e => issues prog (e.1 { d := 1, a := 2, ty := 2 }) 4 && issues prog (e.1 { d := 1, a := 2, ty := 2, ax := true }) 4) = true := by
  decide +kernel

theorem witness_compares : ([.vcmp { d := 1, a := 2, b := 3, ty := 2, imm := 9 }, .vcmp { d := 1, a := 2, b := 3, ty := 6, imm := 0 }] : List Instr).all (fun i => issues prog i 4) = true ∧
    ([.vmand { d := 1, a := 2, b := 3 }, .vmor { d := 1, a := 2, b := 3 }, .vmxor { d := 1, a := 2, b := 3 }, .vmandn { d := 1, a := 2, b := 3 }, .vmnot { d := 1, a := 2 },
      .vmsbf { d := 1, a := 2 }, .vmpopc { d := 1, a := 2 }, .vmfirst { d := 1, a := 2 }, .vmmovToPredicate { d := 1, imm := 0 }, .vmmovToMask { a := 2, imm := 0, ax := true },
      .vmpush { a := 2 }, .vmelse {}, .vmpop {}] : List Instr).all (fun i => issues prog i 1) = true := by
  decide +kernel

/-- Hart 1 with a number of entries on its mask stack. -/
def stacked (n : Nat) : State := withHart (fun h => { h with vec := { h.vec with vmsp := n } }) prog

theorem witness_mask_stack : (stacked 31).self.vec.vmsp = 31 ∧ issues (stacked 31) (.vmpush { a := 2 }) 1 = true ∧ (stacked 0).self.vec.vmsp = 0 ∧
    issues (stacked 0) (.vmelse {}) 1 = true ∧ issues (stacked 0) (.vmpop {}) 1 = true ∧ (stacked 30).self.vec.vmsp < 31 ∧ 0 < (stacked 1).self.vec.vmsp := by decide +kernel

theorem witness_lengths : vecLegal prog (.setvl { d := 1, a := 2, b := 3, ty := 6 }) 1 = true ∧ issues prog (.setvl { d := 1, a := 2, b := 3, ty := 6 }) 1 = true ∧
    (prog.self.kstat.pend && !prog.self.kstat.hnd) = false ∧ min (prog.xval 2).toNat 32 ≠ 0 ∧ min (prog.xval 3).toNat (32 / 4) ≠ 0 ∧ min (prog.xval 0).toNat 32 = 0 ∧
    (let s := withHart (fun h => { h with kstat := { h.kstat with pend := true } }) prog
     (s.self.kstat.pend && !s.self.kstat.hnd) = true) := by decide +kernel

theorem witness_issue_checks : queueMisuse (.vbcast { d := 22, a := 2, ty := 2 }) = some 22 ∧ vecLegal prog (.vbcast { d := 22, a := 2, ty := 2 }) 4 = true ∧
    queueMisuse (.vbcast { d := 1, a := 2, ty := 2, ta := true }) = none ∧
    vecLegal (withHart (fun h => h.setXFe 2 .marked) prog) (.vbcast { d := 1, a := 2, ty := 2, ta := true }) 4 = true ∧
    Machine.Empty (withHart (fun h => h.setXFe 2 .marked) prog) 2 ∧ (∀ u ∈ vSources (.vbcast { d := 1, a := 2, ty := 2 }), u.empties prog = []) :=
  ⟨by decide +kernel, by decide +kernel, by decide +kernel, by decide +kernel, by unfold Machine.Empty; decide +kernel, by decide +kernel⟩

/-- Core 0 with its lanes busy, and with a queue of so many instructions. -/
def busyLanes (n : Nat) : State := prog.modCore 0 (fun c => { c with lanesUntil := 200, vq := List.replicate n (VecEntry.mk 2 (.vadd { d := 1, a := 2, b := 3, ty := 2 }) 0x1000 32 8 2 0 0 0 0 0 false) })

theorem witness_queueing : laneOpOf (.vadd { d := 1, a := 2, b := 3, ty := 2 }) = some opVadd ∧
    (busyLanes 0).now < startAt (busyLanes 0) 1 (.vadd { d := 1, a := 2, b := 3, ty := 2 }) ∧
    operandsOk (busyLanes 7) (.vadd { d := 1, a := 2, b := 3, ty := 2 }) = true ∧ usesQueue (.vadd { d := 1, a := 2, b := 3, ty := 2 }) = false ∧
    mayTrap (busyLanes 0) 1 (.vadd { d := 1, a := 2, b := 3, ty := 2 }) = false ∧ ((busyLanes 7).core 0).vq.length < 8 ∧ 8 ≤ ((busyLanes 8).core 0).vq.length ∧
    vecLegal (busyLanes 7) (.vadd { d := 1, a := 2, b := 3, ty := 2 }) 4 = true ∧ usesQueue (.vadd { d := 1, a := 16, b := 3, ty := 2 }) = true ∧
    mayTrap (withHart (fun h => { h with vec := { h.vec with vxcls := 0x100 } }) (busyLanes 0)) 1 (.vfadd { d := 1, a := 2, b := 3, ty := 6 }) = true :=
  ⟨rfl, by decide +kernel⟩

/-- Core 0 with one queued instruction of hart 1 and idle lanes. -/
def queued : State := prog.modCore 0 (fun c => { c with vq := [VecEntry.mk 1 (.vadd { d := 1, a := 2, b := 3, ty := 2 }) 0x1000 32 8 2 0 0 0 0 0 false] })

theorem witness_queued : (queued.core 0).vq = [VecEntry.mk 1 (.vadd { d := 1, a := 2, b := 3, ty := 2 }) 0x1000 32 8 2 0 0 0 0 0 false] ∧ unitOf 1 = 0 ∧
    startAt queued 1 (.vadd { d := 1, a := 2, b := 3, ty := 2 }) ≤ queued.now ∧ (queued.hart 1).vec.failing = [] ∧ (queued.core 0).failingLanes = [] ∧ (queued.core 0).parity = [] ∧ (queued.core 0).reuse = [] ∧ (queued.hart 1).vec.enabled = 0 ∧ programRuns queued 0 = false ∧
    opVadd.scalar = false ∧ (match (Instr.vadd { d := 1, a := 2, b := 3, ty := 2 }).long? with
      | some (f, k) => reuseEligible (.vadd f) k f (queued.hart 1).vec
      | none => false) = true :=
  ⟨rfl, rfl, by decide +kernel, rfl, rfl, rfl, by decide +kernel, rfl, rfl, by decide +kernel⟩

/-- A core whose register of v2 has a failing slice in lane 5, with n rebuilds of that lane behind it. -/
def failingSlice (n : Nat) : State := prog.modCore 0 (fun c => { c with parity := [((prog.hart 1).vec.getName 2, 5)], rebuilds := [(5, n)] })

theorem test_rebuild : (match parityStep 1 (.vadd { d := 1, a := 2, b := 3, ty := 2 }) (failingSlice 5) with
    | some t => decide ((t.core 0).rebuilds = [(5, 6)] ∧ (t.core 0).spared = none ∧ (t.core 0).lanesUntil = t.now + 12 ∧ (t.core 0).parity = [])
    | none => false) = true := by decide +kernel

theorem test_retired_lane : (match parityStep 1 (.vadd { d := 1, a := 2, b := 3, ty := 2 }) (failingSlice 7) with
    | some t => decide ((t.core 0).spared = some 5 ∧ (t.core 0).lanesUntil = t.now + 3852 ∧ kstatWord t 1 = 0x58)
    | none => false) = true := by decide +kernel

/- Vector memory. -/

theorem tbl_all {α : Type} {P : α → Prop} {d : α} (hd : P d) : ∀ {t : Tbl α}, (∀ e ∈ t, P e.2) → ∀ i, P (tblGet d t i)
  | [], _, _ => hd
  | e :: t, h, i => by
    simp only [tblGet]
    split
    · exact h e List.mem_cons_self
    · exact tbl_all hd (fun x hx => h x (List.mem_cons_of_mem _ hx)) i

/-- Whether no scratch bank is locked or waited for, and nothing is posted. -/
def banksIdle (s : State) : Bool :=
  decide ((∀ h ∈ s.harts, h.2.bankSince = none) ∧ ∀ c ∈ s.cores, c.2.locks = [] ∧ c.2.posted = [] ∧ c.2.hoist = [])

theorem banks_idle {s : State} (h : banksIdle s = true) : BanksIdle s := by
  have h := of_decide_eq_true h
  intro c b
  have l : (s.core c).locks = [] := tbl_all (P := fun c => c.locks = []) rfl (fun e he => (h.2 e he).1) c
  refine ⟨by simp [lockHolder, l], ?_⟩
  simp only [bankQueue, List.append_eq_nil_iff, List.flatMap_eq_nil_iff, List.filterMap_eq_nil_iff]
  exact ⟨⟨fun e he => by simp [h.1 e he], fun e he => by simp [(h.2 e he).2.1]⟩, fun e he => by simp [(h.2 e he).2.2]⟩

/-- Whether a memory instruction may issue and execute at once, and reaches what a test says. -/
def memIssues (s : State) (i : Instr) (kind : MemKind) (f : LongFields) (test : List Reached → Bool) : Bool :=
  isVector s.cur && i.wellFormed && decide (s.self.resuming = false → rowsFit s.self.vec.vlr (fmtBytes f.ty.toNat) = true)
    && decide (kind.indexed = true → groupLegal s.self f.b.toNat = true ∧ groupEmpty s f.b.toNat = none) && operandsOk s i && lanesIdle s
    && decide (kind.indexed = true ∨ wfld (s.args i).b 63 48 = 0) && !kind.illegalSpace s.self.vec.vmt.toNat && banksIdle s
    && decide ((s.core (unitOf s.cur)).posted = [] ∧ s.self.loads = [] ∧ s.failing = [] ∧ (∀ c ∈ s.cores, c.2.failingWords = []) ∧
      (s.part (partOfHart s s.cur)).rehoming = none ∧ s.self.vec.vlc ≤ 32 ∧ s.self.widening = false ∧ s.self.hostRead = none)
    && test (s.reached (s.memIn i kind f))

theorem mem_ready {s : State} {i : Instr} {kind : MemKind} {f : LongFields} {test : List Reached → Bool}
    (h : memIssues s i kind f test = true) : MemReady s i kind f ∧ test (s.reached (s.memIn i kind f)) = true := by
  simp only [memIssues, Bool.and_eq_true, decide_eq_true_eq, Bool.not_eq_true'] at h
  have r := h.1.2
  refine ⟨⟨h.1.1.1.1.1.1.1.1.1.1, h.1.1.1.1.1.1.1.1.1.2, h.1.1.1.1.1.1.1.1.2, h.1.1.1.1.1.1.1.2, operands_there h.1.1.1.1.1.1.2,
    lanes_idle h.1.1.1.1.1.2, ?_, h.1.1.1.2, r.1, r.2.1, r.2.2.1, r.2.2.2.1, banks_idle h.1.1.2, r.2.2.2.2⟩, h.2⟩
  exact h.1.1.1.1.2.elim .inl (fun e => .inr (.inl e))

/-- Hart 1 with lengths of 4 columns and 2 rows, a base in x4 and a stride in x3. -/
def strided (base : Word) (vmt : BitVec 3) : State :=
  (withHart (fun h => { (h.setX 4 base).setX 3 64 with vec := { h.vec with vlc := 4, vlr := 2, vmt := vmt } }) prog)

theorem witness_strided : memIssues (strided 0x2000 0) (.vld { d := 1, a := 4, b := 3, ty := 2 }) .load { d := 1, a := 4, b := 3, ty := 2 } (fun l => faultsOf l = []) = true ∧
    memIssues (strided 0x2000 0) (.vldff { d := 1, a := 4, b := 3, ty := 2 }) .loadFF { d := 1, a := 4, b := 3, ty := 2 } (fun l => faultsOf l = []) = true ∧
    memIssues (strided 0x2000 0) (.vst { d := 1, a := 4, b := 3, ty := 2 }) .store { d := 1, a := 4, b := 3, ty := 2 } (fun l => faultsOf l = []) = true ∧
    memIssues (strided 0x0 1) (.vst { d := 1, a := 4, b := 3, ty := 2 }) .store { d := 1, a := 4, b := 3, ty := 2 } (fun l => faultsOf l = []) = true := by decide +kernel

theorem witness_indexed : memIssues (strided 0x2000 0) (.vgather { d := 1, a := 4, b := 3, ty := 2 }) .gather { d := 1, a := 4, b := 3, ty := 2 } (fun l => faultsOf l = []) = true ∧
    memIssues (strided 0x2000 0) (.vscatter { d := 1, a := 4, b := 3, ty := 2 }) .scatter { d := 1, a := 4, b := 3, ty := 2 } (fun l => faultsOf l = []) = true ∧
    memIssues (strided 0x2000 0) (.vrred { d := 1, a := 4, b := 3, ty := 6 }) .red { d := 1, a := 4, b := 3, ty := 6 } (fun l => faultsOf l = []) = true ∧
    memIssues (strided 0x2000 0) (.vamoadd { d := 1, a := 4, b := 3, ty := 2 }) .add { d := 1, a := 4, b := 3, ty := 2 } (fun l => faultsOf l = []) = true ∧
    memIssues (strided 0x0 5) (.vldacc { d := 1, a := 4, b := 3, ty := 6 }) .acc { d := 1, a := 4, b := 3, ty := 6 } (fun l => faultsOf l = []) = true := by decide +kernel

/-- A base at which every element is misaligned, and one from which the elements run off the end of memory at the second row. -/
theorem witness_faults : memIssues (strided 0x2001 0) (.vld { d := 1, a := 4, b := 3, ty := 2 }) .load { d := 1, a := 4, b := 3, ty := 2 }
      (fun l => (faultsOf l).length = 8 ∧ ((faultsOf l).head?.map (fun g => g.2)) = some (4, 0x2001)) = true ∧
    memIssues (strided 0x2001 0) (.vst { d := 1, a := 4, b := 3, ty := 2 }) .store { d := 1, a := 4, b := 3, ty := 2 } (fun l => (faultsOf l).length = 8) = true ∧
    memIssues (strided (BitVec.ofNat 64 (dramBytes - 64)) 0) (.vldff { d := 1, a := 4, b := 3, ty := 2 }) .loadFF { d := 1, a := 4, b := 3, ty := 2 }
      (fun l => (faultsOf l).map (fun g => g.1) = [[32], [33], [34], [35]] ∧ l.any (fun r => r.1.slots.headD 0 < 32)) = true := by decide +kernel

theorem witness_progress : memIssues (withHart (fun h => h.setX 5 0x4000) (strided 0x2000 0)) (.vst { d := 1, a := 4, b := 3, c := 5, ty := 2, nt := true }) .store
      { d := 1, a := 4, b := 3, c := 5, ty := 2, nt := true } (fun l => faultsOf l = []) = true ∧
    reachesAt (strided 0x2000 0) .store 0x4000 8 false = true ∧ windowRange 0x4000 = false ∧ strictCtx (strided 0x2000 0) 1 = false := by decide +kernel

/-- Whether a meaning in steps answers. -/
def reads {α : Type} (m : M α) (s : State) : Bool :=
  match m s with
  | .ok _ => true
  | .error _ => false

/-- Whether VSAVE or VRSTR may execute at once. -/
def wholeIssues (s : State) (i : Instr) : Bool :=
  isVector s.cur && i.wellFormed && operandsOk s i && lanesIdle s && banksIdle s
    && decide ((s.core (unitOf s.cur)).posted = [] ∧ s.self.loads = [] ∧ s.failing = [] ∧ (∀ c ∈ s.cores, c.2.failingWords = []) ∧
      (s.part (partOfHart s s.cur)).rehoming = none ∧ s.self.hostRead = none)

theorem whole_ready {s : State} {i : Instr} (h : wholeIssues s i = true) : WholeReady s i := by
  simp only [wholeIssues, Bool.and_eq_true, decide_eq_true_eq] at h
  have r := h.2
  exact ⟨h.1.1.1.1.1, h.1.1.1.1.2, operands_there h.1.1.1.2, lanes_idle h.1.1.2, r.1, r.2.1, r.2.2.1, r.2.2.2.1, banks_idle h.1.2,
    r.2.2.2.2⟩

/-- How many of the 1,024 bytes at a base are reached, or 0 where the first that is not lies at the end of memory. -/
def wholeAt (s : State) (acc : Acc) (va : Nat) : Option Nat :=
  match s.wholePlaces acc va with
  | .ok l => if l.all (fun p => decide (p.space = 0 → isHostNum p.pos = false)) then some l.length else none
  | .error e => if e = (acc.accessFault, dramBytes) then some 0 else none

theorem witness_whole_register : wholeIssues (strided 0 1) (.vsave { d := 1, a := 4 }) = true ∧ wholeIssues (strided 0 1) (.vrstr { d := 1, a := 4 }) = true ∧
    wholeAt (strided 0 1) .store 0 = some 1024 ∧ wholeAt (strided 0 1) .load 0x3FC00 = some 1024 := by decide +kernel

theorem witness_whole_fault : wholeAt (small 1 .machine []) .store (dramBytes - 2) = some 0 ∧ wholeAt (small 1 .machine []) .load dramBytes = some 0 := by
  decide +kernel

/-- Whether a SAMO may issue. -/
def samoIssues (s : State) (i : Instr) : Bool :=
  hasMessages s.cur && i.wellFormed && operandsOk s i && (s.core (unitOf s.cur)).vq.all (fun e => decide (e.hart ≠ s.cur))
    && (s.core (unitOf s.cur)).posted.all (fun e => decide (e.hart ≠ s.cur)) && !s.self.widening

theorem samo_ready {s : State} {i : Instr} (h : samoIssues s i = true) : SamoReady s i := by
  simp only [samoIssues, Bool.and_eq_true, List.all_eq_true, decide_eq_true_eq, Bool.not_eq_true'] at h
  exact ⟨h.1.1.1.1.1, h.1.1.1.1.2, operands_there h.1.1.1.2, h.1.1.2, h.1.2, h.2⟩

theorem witness_scoped :
    ((List.range 9).all (fun k => match samoTable[k]? with
      | some e => samoIssues prog (e.1 { d := 1, a := 4, b := 2, ty := 3, pg := BitVec.ofNat 4 (2 + k) })
      | none => false)) = true ∧ samoIssues prog (.samoCas { d := 1, a := 4, b := 2, c := 3, ty := 3, pg := 11 }) = true ∧
    samoIssues prog (.samoLoad { d := 1, a := 4, ty := 3, pg := 0 }) = true ∧ samoIssues prog (.samoStore { a := 4, b := 2, ty := 3, pg := 1 }) = true ∧
    samoReleases { d := 1, a := 4, b := 2, ty := 3 } = false ∧ samoReleases { d := 1, a := 4, b := 2, ty := 3, imm := 0x12 } = true ∧
    (scopeClasses (samoScope { d := 1, a := 4, b := 2, ty := 3, imm := 0x13 })).getLsbD (classOf prog 0 { pa := 0x2000, host := false } (partOfHart prog 1)) = true ∧
    (prog.xval 4).toNat % 2 ^ 3 = 0 ∧ reachesAt prog .load 0x2000 8 false = true ∧ reachesAt prog .store 0x2000 8 false = true := by decide +kernel

/- The Bench: context 1 of the control core of cluster 0. -/

/-- Context 1 of the control core of cluster 0 with x2 and x3. -/
def bench (a b : Word) : State := small 0x10001 .supervisor [(2, a), (3, b), (4, 128)]

/-- Whether a Bench instruction may issue. -/
def benchIssues (s : State) (i : Instr) : Bool :=
  isControl s.cur && decide (ctxOf s.cur = 1) && i.wellFormed && operandsOk s i && decide (0 = myCluster s) && decide ((s.cluster 0).benchFail = none)

theorem bench_ready {s : State} {i : Instr} (h : benchIssues s i = true) : BenchReady s i 0 := by
  simp only [benchIssues, Bool.and_eq_true, decide_eq_true_eq] at h
  exact ⟨h.1.1.1.1.1, h.1.1.1.1.2, h.1.1.1.2, operands_there h.1.1.2, h.1.2, h.2⟩

theorem witness_bench_issue : ([.bfmtFormat { a := 2, b := 3 }, .bls { a := 2, b := 3 }, .bswap {}, .bstream { a := 2, b := 3, c := 4 }, .bclr { a := 2, b := 3 },
      .bsync { a := 2, b := 3 }, .bstat { d := 1, a := 2 }, .bsave { a := 2, b := 3 }, .brstr { a := 2, b := 3 }] : List Instr).all (benchIssues (bench 0 0)) = true ∧
    ((bench 0 0).cluster 0).bench.length < 8 ∧ onlyBits 0 7 = true ∧ onlyBits 0x88 0xFF00FF = true ∧ benchPairOk (8, 8) = true ∧ benchPairOk (15, 15) = false ∧
    onlyBits 8 0x307 = false ∧ wfld (0x101 : Word) 9 8 = 1 ∧ (benchView (bench 0 0) 0).shadow = none ∧ (bsyncTarget 0 1).isSome = true ∧
    1024 * 0 + 64 * benchRowBytes 8 ≤ 0x40000 := by decide +kernel

/-- The same with a loaded active plane and a shadow. -/
def loaded : State := (bench 0 0).modCluster 0 (fun c => { c with active := some (Plane.mk 8 8 1), shadow := some (Plane.mk 8 8 2) })

theorem witness_bench_planes : (benchView loaded 0).shadow.isSome = true ∧ (benchView loaded 0).active = some ((benchView loaded 0).pair 0) ∧
    (benchView (bench 0 0) 0).active ≠ some ((benchView (bench 0 0) 0).pair 0) ∧
    ((bench 0 0).modCluster 0 (fun c => { c with benchFail := some (5, 0x1000) })).cluster 0 ≠ {} := by decide +kernel

/-- The bytes that a control core reaches in device memory. -/
def ctrlAt (s : State) (acc : Acc) (va n : Nat) : Option Nat :=
  (s.ctrlPlaces acc va n).bind (fun l => if l.all (fun p => !isHostNum p.pos) then some l.length else none)

theorem witness_bench_contexts : ((bench 0 0x4000).cluster 0).bench = [] ∧ (0x4000 : Word).toNat % 64 = 0 ∧ (0x4001 : Word).toNat % 64 ≠ 0 ∧
    MemoryIdle (bench 0 0x4000) ∧ ctrlAt (bench 0 0x4000) .store 0x4000 512 = some 512 ∧ ctrlAt (bench 0 0x4000) .load 0x4000 512 = some 512 ∧
    ctrlAt (bench 0 0x4000) .load 0x4000 256 = some 256 ∧ onlyBits 0x101 0x307 = true ∧
    (formatOfRecord (formatRecord {})).isSome = true ∧ formatOfRecord (List.replicate 512 1) = none := by unfold MemoryIdle; decide +kernel

/-- Cluster 0 with one accepted instruction. -/
def accepted (i : Instr) (a b c : Word) : State := loaded.modCluster 0 (fun k => { k with bench := [{ instr := i, pc := 0x1000, xa := a, xb := b, xc := c, bytes := [], done := 0 }] })

theorem witness_bench_execution : ((accepted (.bswap {}) 0 0 0).cluster 0).bench ≠ [] ∧ (∀ k ∈ (accepted (.bswap {}) 0 0 0).cores, k.2.failingWords = []) ∧
    bsyncTarget 0 1 = some 1 ∧ ((accepted (.bsync {}) 1 0 0).core (unitOf 1)).kcut.recorded = false ∧ ((accepted (.bsync {}) 1 0 0).core (unitOf 1)).tokens = [] ∧
    (((accepted (.bsync {}) 1 0 0).modHart 1 (fun h => { h with run := .running })).hart 1).run = .running ∧
    ((accepted (.bstream {}) 0 0 128).cluster 0).active = some (Plane.mk 8 8 1) := by decide +kernel

/- Rendering. Memory reads as zeros, so that a texture descriptor breaks a limit and a hierarchy is malformed. -/

/-- Whether a rendering instruction may issue. -/
def renderIssues (s : State) (i : Instr) (f : LongFields) : Bool :=
  isVector s.cur && i.wellFormed && !s.self.resuming && rowsFit s.self.vec.vlr 4 && operandsOk s i && lanesIdle s
    && decide ((s.part (partOfHart s s.cur)).rehoming = none ∧ f.d.toNat < 13 ∧ s.self.vec.vlc ≤ 32 ∧ s.self.vec.enabled = 0 ∧ s.self.hostRead = none)

theorem render_ready {s : State} {i : Instr} {f : LongFields} (h : renderIssues s i f = true) : RenderReady s i f := by
  simp only [renderIssues, Bool.and_eq_true, decide_eq_true_eq, Bool.not_eq_true'] at h
  have r := h.2
  exact ⟨h.1.1.1.1.1.1, h.1.1.1.1.1.2, h.1.1.1.1.2, h.1.1.1.2, operands_there h.1.1.2, lanes_idle h.1.2, r⟩

/-- Whether what a computation has read is device memory on a state with nothing posted, and what a test says of its answer. -/
def readsPlain {α : Type} (s : State) (f : StateM Reads α) (test : α → Bool) : Bool :=
  (s.reads f).2.sectors.all (fun sec => !isHostNum (sec * 128)) && (s.core (unitOf s.cur)).posted.isEmpty && test (s.reads f).1

theorem witness_rendering : renderIssues (strided 0x2000 0) (.vtex { d := 8, a := 4, b := 2, ty := 6 }) { d := 8, a := 4, b := 2, ty := 6 } = true ∧
    renderIssues (strided 0x2000 0) (.rq { d := 8, a := 4, b := 0, ty := 6 }) { d := 8, a := 4, b := 0, ty := 6 } = true ∧
    readsPlain (strided 0x2000 0) (texElems false 0x2000 0 0 0 [0, 1, 2]) (fun r => endedFaults r.2.1 = []) = true ∧
    (strided 0x2000 0).self.vec.vrqctl.getLsbD 10 = false ∧ wfld (strided 0x2000 0).self.vec.vrqctl 4 0 < wfld (strided 0x2000 0).self.vec.vrqctl 9 5 ∧
    readsPlain (strided 0x2000 0) (eachElem (fun k => rayQuery 0x2000 [k, 0, 0, 0, 0, 0, 0, 0] false) [0, 1, 2])
      (fun r => endedWait r = none ∧ endedFaults r = []) = true := by decide +kernel

/-- Hart 1 with a pair block at 0x4000, of ring size 2, and root headers of zeros at 0x5000 and 0x6000. -/
def pairing : State := { strided 0x2000 0 with mem := [(0x4008, 1)] }

/-- Whether a pair block, its continuation block, two roots and the descent over them are read, and the descent begins. -/
def pairReads (s : State) : Bool :=
  match readsM (gNum 0x4000 64).run s with
  | .ok (.ok v, s1) =>
    match translateM .store 0x4000 64 s1 with
    | .ok (_, s2) =>
      match pairBlock 0x4000 v with
      | some b =>
        match readsM (contBlock b.cont).run s2 with
        | .ok (.ok cont, s3) =>
          (heldDescent s3 (cont.headD (0, 0)).2).isNone && !b.live && s3.descents.isEmpty && (match readsM (readRoots 0x5000 0x6000).run s3 with
            | .ok (.ok (h1, h2), s4) =>
              match beginPair cont (0x5000, 0x6000) h1 h2 s4 with
              | .ok (_, s5) =>
                match readsM (pairLoop b pairFuel (newWalk h1 h2) []).run s5 with
                | .ok (.ok _, _) => true
                | _ => false
              | _ => false
            | _ => false)
        | _ => false
      | none => false
    | _ => false
  | _ => false

theorem witness_pairs : pairReads pairing = true ∧ strictCtx pairing 1 = false ∧ inWindow pairing.cur 0x4000 = false ∧ MemoryIdle pairing ∧
    operandsOk pairing (.xpair { d := 1, a := 2, b := 3, c := 4 }) = true ∧ reachesAt pairing .load 0x4000 64 false = true ∧
    (Instr.xpair { d := 1, a := 2, b := 3, c := 4 }).wellFormed = true := by unfold MemoryIdle; decide +kernel

/-- Hart 1 with a list queue at 0x8000 that has one producer. -/
def pushing : State := { strided 0x8000 0 with mem := [(0x8014, 1)], listQueues := [ListQueue.mk 0x8000 0x8000 0 64 [] 0 [] [] [] [] []] }

theorem witness_records : reads (readsM (agpushG 1 0x8000 0 0 true).run) pushing = true ∧ operandsOk pushing (.agpush { a := 4, b := 0, c := 0, nt := true }) = true ∧
    (Instr.agpush { a := 4, b := 0, c := 0, nt := true }).wellFormed = true ∧ (Instr.agpop { d := 1, a := 4 }).wellFormed = true ∧
    operandsOk pushing (.agpop { d := 1, a := 4 }) = true ∧ reachesAt pushing .load 0x8000 8 false = true ∧
    (lqFind pushing 0x8000).isSome = true ∧ lqClosed (lqDesc pushing 0x8000) = false ∧ 0 < lqBins (lqDesc pushing 0x8000) ∧
    pushing.self.vec.q6 = [] ∧ (withHart (fun h => { h with vec := { h.vec with q6 := [5] } }) pushing).self.vec.q6 = 5 :: [] := by
  decide +kernel

/- Events. -/

/-- Hart 1 with a load that is in flight towards x5. -/
def loading : State := withHart (fun h => { h.setXFe 5 .inFlight with loads := [(5, 42)] }) prog

theorem witness_load_data : (loading.hart 1).loads.find? (fun l => l.1 = (5 : Reg).toNat) = some ((5 : Reg).toNat, 42) ∧ (5 : Reg) ≠ 0 ∧
    (withHart (fun h => { h with hostRead := some (hostBase, .pending) }) prog).self.hostRead = some (hostBase, .pending) := by decide +kernel

/-- Core 0 with one posted access. -/
def posting (op : PostedOp) (sent : Bool) : State := prog.modCore 0 (fun c => { c with posted := [Posted.mk 7 1 64 op 0 sent false 0 false false false none none] })

theorem witness_posted : (posting (.bytes (cellsAt 0x2000 [1, 2])) true).failing.contains 64 = false ∧ isRemote 0x2000 = false ∧
    ovfSlice (posting (.bytes []) true) (partOfHart (posting (.bytes []) true) 1) 64 = none ∧ ((posting (.packet 1 (cellsAt 0 [1])) true).core 1).locks = [] ∧
    (Posted.mk 7 1 64 (.bytes []) 0 false false 0 false false false none none) ∈ ((posting (.bytes []) false).core 0).posted := by decide +kernel

/-- A release that has been widened in the router of cluster 0. -/
def widened : State := prog.modCluster 0 (fun c => { c with router := [Parked.mk 3 0 7 1 1 2 true true true 0x2000] })

theorem witness_router : (widened.cluster 0).router.find? (fun x => x.idx = 3 && x.widened) = some (Parked.mk 3 0 7 1 1 2 true true true 0x2000) ∧
    earlierDone widened (Parked.mk 3 0 7 1 1 2 true true true 0x2000) = true := by decide +kernel

theorem witness_release : released (withHart (fun h => { h with waiting := some (.xreg 5) }) prog) 1 (.xreg 5) = true ∧
    released (withHart (fun h => { h.setXFe 5 .marked with waiting := some (.xreg 5) }) prog) 1 (.xreg 5) = false := by decide +kernel

/-- Context 0 with interrupt 18 pending and enabled, delegated to S-mode, from U-mode. -/
def interrupted : State := withHart (fun h => { h with irqPending := 0x40000, csr := { h.csr with mie := 0x40000 }, priv := .user }) sup

theorem witness_interrupt : nextIrq interrupted 0 = some 18 ∧ interrupted.self.csr.mideleg.getLsbD 18 = true ∧ interrupted.self.priv ≠ .machine ∧
    (interrupted.self.csr.mideleg.getLsbD 11 = false) := by decide +kernel

/-- Core 0 with the lock of bank 3 held by a context until a time. -/
def locked (ctx due : Nat) : State := prog.modCore 0 (fun c => { c with locks := [(3, ctx, due)] })

theorem witness_locks : ((locked 1 50).core 0).locks = [(3, 1, 50)] ∧ 50 ≤ (locked 1 50).now ∧ ((locked 16 50).core 0).locks = [(3, 16, 50)] ∧
    lockWaiters ((locked 16 50).modHart 2 (fun h => { h with run := .running, waiting := some (.lock 0 3) })) 0 3 = [2] ∧
    (prog.core 0).locks.find? (fun e => e.1 = 3) = none ∧ ((locked 2 50).core 0).locks.find? (fun e => e.1 = 3) = some (3, 2, 50) ∧ 2 ≠ ctxOf 1 ∧
    lockHolder prog 0 3 ≠ some (ctxOf 1) ∧ bankQueue prog 0 3 = [] ∧ bankQueue ((locked 16 50).modHart 2 (fun h => { h with run := .running, waiting := some (.lock 0 3) })) 0 3 = [] ∧
    Writable { prog with cur := 1 } 5 := by
  refine ⟨?_, ?_, ?_, ?_, ?_, ?_, ?_, ?_, ?_, ?_, .inl rfl⟩ <;> decide +kernel

theorem witness_service : (sup.hart (16 * 0)).priv = .supervisor ∧ (sup.core 0).ovf = [] ∧ ((sup.modCore 0 (fun c => { c with ovf := [⟨5, 2, true⟩] })).core 0).ovf = ⟨5, 2, true⟩ :: [] ∧
    (sup.cluster (0 / 8)).router.find? (fun p => p.core = 0 && !p.popped) = none ∧
    ((sup.modCluster 0 (fun c => { c with router := [Parked.mk 3 0 7 1 1 2 true false false 0x2000] })).cluster 0).router.find? (fun p => p.core = 0 && !p.popped) =
      some (Parked.mk 3 0 7 1 1 2 true false false 0x2000) ∧ ((small 0 .user []).hart 0).priv ≠ .supervisor ∧
    dirFind { sup with dir := [(0, [{ line := 5, ovf := true }])] } 0 (wfld (5 : Word) 37 0) = some { line := 5, ovf := true } := by decide +kernel

/-- Core 0 under the debug window, halted or not. -/
def debugged (halted : Bool) : State := { prog with dbgEn := true, dbgCore := 0 }.modCore 0 (fun c => { c with dbg := { c.dbg with halted := halted } })

theorem witness_debug : debugServes (debugged true) (unitOf 1) = true ∧ ((debugged true).core 0).dbg.halted = true ∧ ((debugged true).core 0).dbg.prog = none ∧
    ((debugged true).core 0).dbg.stepping = none ∧ ((debugged true).core 0).dbg.cmderr = 0 ∧ ((debugged false).core 0).dbg.halted = false ∧
    ((debugged false).core 0).dbg.haltreq = false ∧ ((debugged true).hart 1).run = .running ∧
    (∀ k, k < 16 → ((debugged true).hart (hartOf 0 k)).csr.dcsr.getLsbD 2 = false) := by decide +kernel

/-- Core 0 with one Hoist request of hart 1. -/
def moving (r : HoistReq) : State := prog.modCore 0 (fun c => { c with hoist := [r] })

theorem witness_hoist_transfer : ((moving request).core 0).hoist.find? (fun x => x.id = request.id) = some request ∧ isOldest ((moving request).core 0) request = true ∧
    request.bytes ≠ 0 ∧ hoistCheck (moving request) request = none ∧ (hoistCheck (moving request) { request with w0 := 0x002D000000000040 }).isSome = true ∧
    request.ssp = 1 ∧ request.dsp = 1 ∧ pieceLocked (moving request) request (request.piece 0) = false ∧
    pieceTurn (moving request) 0 request = true ∧ pieceTurn ((moving request).modCore 0 (fun c => { c with pieceFree := 99999 })) 0 request = false ∧
    (request.piece 0).Pairwise (fun i j => request.dstByte i ≠ request.dstByte j) ∧ (∀ j ∈ request.piece 0, j < request.bytes) ∧
    (∀ j, j < request.bytes → request.srcByte j < 0x80000 ∧ request.dstByte j < 0x80000) ∧ WordsWhole { moving request with cur := 1 } ∧
    request.cen = false ∧ request.tok = false ∧ ((moving request).core 0).kcut.arm = false ∧ hoistRehoming (moving request) request = false ∧
    (match hoistPiece (moving request) request (request.piece 0) with
      | .ok (b, _) => b
      | .error _ => false) = true := by
  repeat' apply And.intro
  all_goals first | rfl | decide +kernel

theorem witness_hoist_counter : ({ request with w0 := 0x0809000000000040, w3 := 0x4000 } : HoistReq).cen = true ∧
    gives (hoistTranslate (moving request) { request with w0 := 0x0809000000000040, w3 := 0x4000 } .store 0x4000) { pa := 0x4000, host := false } = true ∧
    isRemote 0x4000 = false ∧ (moving request).failing.contains (sectorOf 0x4000) = false ∧
    ovfSlice (moving request) (partOfHart (moving request) 1) (sectorOf 0x4000) = none := by decide +kernel

/- Packets, graphs, list queues, cuts. -/

/-- A packet of fields: byte and value. -/
def packet (l : List (Nat × Nat)) : BitVec 512 := BitVec.ofNat 512 ((l.map (fun e => e.2 * 2 ^ (8 * e.1))).sum)

/-- Function 64 with queue 0 in device memory at 0x10000 and one packet at its head. -/
def withPacket (p : BitVec 512) : State :=
  { State.reset with now := 5000, mem := memWrite [] 0x10000 (leBytes 64 p.toNat), funcs := [(64, { Func.mk true 0 0 0 0 0 false 0 0 false [] 0x100000 0x100000 0x8000 0 0 0 0 0 0 0 false false none false 0 false 0 0 [] [] none [] with queues := [(0, { qbase := 0x10000, en := true, space := true, size := 4, qstate := 2, tail := 1 })] })] }

/-- Whether a packet stands at the head of queue 0 of function 64 and may start. -/
def packetReady (type : Nat) (p : BitVec 512) : Bool :=
  let s := withPacket p
  (match nextPacket s 64 0 with
    | some (.ok v, none) => decide (v = p)
    | _ => false) && decide (packetCheck s 64 p false = none) && decide (pFld p 0 1 = type) && mayStart s 64 0 p

theorem ready_of_packetReady {type : Nat} {p : BitVec 512} (h : packetReady type p = true) : PacketReady (withPacket p) 64 0 type p := by
  unfold packetReady at h
  simp only [Bool.and_eq_true, decide_eq_true_eq] at h
  obtain ⟨⟨⟨h1, h2⟩, h3⟩, h4⟩ := h
  refine ⟨?_, h2, h3, h4, rfl, fun e he => (by cases he)⟩
  split at h1
  · rename_i v e
    simp only [decide_eq_true_eq] at h1
    rw [e, h1]
  · cases h1

def copyPacket : BitVec 512 := packet [(0, 3), (8, 0x2000), (0x10, 0x3000), (0x18, 64)]
def fillPacket : BitVec 512 := packet [(0, 3), (4, 1), (8, 0x1122334455667788), (0x10, 0x3000), (0x18, 64)]
def addPacket : BitVec 512 := packet [(0, 5), (4, 3), (8, 0x3000), (0x10, 2)]
def waitPacket : BitVec 512 := packet [(0, 4), (8, 0x3000), (0x10, 1)]
def hostintPacket : BitVec 512 := packet [(0, 10), (0x10, 0x3000), (0x18, 9)]
def patchPacket : BitVec 512 := packet [(0, 6), (8, 0x4000), (0x10, 0x3000), (0x18, 4)]
def killPacket : BitVec 512 := packet [(0, 8)]
def populatePacket : BitVec 512 := packet [(0, 1), (4, 1), (8, 0x4000), (0x30, 4)]
def graphPacket : BitVec 512 := packet [(0, 2), (8, 0x5000), (0x10, 1)]
def cutPacket (mode : Nat) : BitVec 512 := packet [(0, 9), (4, mode), (8, 0x40000), (0x10, 0x200000000)]
def resizePacket : BitVec 512 := packet [(0, 12), (8, 0x6000), (0x10, 1), (0x20, 0x7000)]

theorem witness_packets : packetReady 11 (packet [(0, 11)]) = true ∧ packetReady 7 (packet [(0, 7), (4, 3)]) = true ∧ packetReady 4 waitPacket = true ∧
    packetReady 5 addPacket = true ∧ packetReady 10 hostintPacket = true ∧ packetReady 3 copyPacket = true ∧ packetReady 3 fillPacket = true ∧
    packetReady 6 patchPacket = true ∧ packetReady 8 killPacket = true ∧ packetReady 1 populatePacket = true ∧ packetReady 2 graphPacket = true ∧
    packetReady 9 (cutPacket 0) = true ∧ packetReady 9 (cutPacket 1) = true ∧ packetReady 12 resizePacket = true := by decide +kernel

theorem witness_packet_ready : PacketReady (withPacket addPacket) 64 0 5 addPacket := ready_of_packetReady (by decide +kernel)

theorem witness_packet_refused : nextPacket (withPacket (packet [(0, 13)])) 64 0 ≠ none ∧ packetCheck (withPacket (packet [(0, 13)])) 64 (packet [(0, 13)]) false = some 5 := by
  decide +kernel

/-- Whether bytes at a VA of function 64 are read at the same address, or written there. -/
def fnReads (s : State) (va n : Nat) : Bool :=
  gives (runFn 64 (gReach .load va n) s).1 va && decide (va % 64 + n ≤ 64 ∧ heldByte s va n = none)

def fnWrites (s : State) (va n : Nat) : Bool :=
  gives (runFn 64 (gReach .store va n) s).1 va && decide (va % 128 + n ≤ 128 ∧ heldByte s va n = none) && !s.failing.contains (sectorOf va)
    && (ovfSlice s 64 (sectorOf va)).isNone && !isRemote va

theorem fn_writes {s : State} {va n : Nat} (h : fnWrites s va n = true) : FnWrites s 64 va n va := by
  simp only [fnWrites, Bool.and_eq_true, decide_eq_true_eq, Bool.not_eq_true', Option.isNone_iff_eq_none] at h
  exact ⟨ok_of_gives h.1.1.1.1, h.1.1.1.2.1, h.1.1.1.2.2, h.1.1.2, h.1.2, fun r => by rw [h.2] at r; cases r⟩

theorem fn_reads {s : State} {va n : Nat} (h : fnReads s va n = true) : FnReads s 64 va n va := by
  simp only [fnReads, Bool.and_eq_true, decide_eq_true_eq] at h
  exact ⟨ok_of_gives h.1, h.2⟩

theorem witness_function_memory : fnReads (withPacket addPacket) 0x3000 8 = true ∧
    fnWrites (consume 64 0 addPacket none (withPacket addPacket)).2 0x3000 8 = true ∧ fnReads (consume 64 0 copyPacket none (withPacket copyPacket)).2 0x2000 64 = true ∧
    fnWrites (consume 64 0 copyPacket none (withPacket copyPacket)).2 0x3000 64 = true := by decide +kernel

theorem witness_copy_runs : (match (runFn 64 (copyBody copyPacket) (consume 64 0 copyPacket none (withPacket copyPacket)).2).1 with
    | .ok _ => true
    | .error _ => false) = true := by decide +kernel

theorem witness_patch_runs : (match (runFn 64 (gBytesAt 0x3000 4 2) (consume 64 0 patchPacket none (withPacket patchPacket)).2).1 with
      | .ok _ => true
      | .error _ => false) = true ∧
    ((List.range 8).foldl (fun r d => patchDie 64 d 0x4000 [1, 2, 3, 4] r) (none, withPacket patchPacket)).1 = none ∧
    gives (textReach (withPacket patchPacket) 64 7 0x4000) 0x4000 = true := by decide +kernel

/-- Function 64 with a started packet. -/
def started (p : BitVec 512) (e : Started → Started) : State :=
  (withPacket p).modQueue 64 0 (fun k => { k with tail := 0, started := [e { seqNo := 0, packet := p, at_ := 0 }] })

theorem witness_wait_started : ((started waitPacket id).queue 64 0).started.find? (fun x => pFld x.packet 0 1 = 4 && x.stopped.isNone) = some { seqNo := 0, packet := waitPacket, at_ := 0 } ∧
    startedFind (started waitPacket id) 64 0 0 = some { seqNo := 0, packet := waitPacket, at_ := 0 } := by decide +kernel

theorem witness_kill : killReady (started killPacket id) 64 0 = some { seqNo := 0, packet := killPacket, at_ := 0 } ∧ killReady (withPacket killPacket) 64 0 = none ∧
    workHeld (started waitPacket id) 64 0 0 = false ∧ threadsQuiet (started populatePacket (fun e => { e with expired := true })) [] = true ∧
    watchdogDue (({ started waitPacket id with now := 5000000 }).modFunc 64 (fun f => { f with wdt := 1 })) 64 { seqNo := 0, packet := waitPacket, at_ := 0 } = true ∧
    killLate { started killPacket id with now := 500000000 } 64 0 = some { seqNo := 0, packet := killPacket, at_ := 0 } ∧
    saveTimeoutDue ((({ started populatePacket id with now := 500000000 }).modFunc 64 (fun f => { f with wdt := 1 })).modPart 64 (fun p => { p with cut := some ⟨0, [0], 64, 0, 0, [], []⟩ }))
      64 0 { seqNo := 0, packet := populatePacket, at_ := 0 } = true := by decide +kernel

/-- A population of four threads from the packet of queue 0. -/
def population : Population := Population.mk (.packet 64 0 0) 64 populatePacket 0 0 0 0 0 0 0 0 [] [] none []

/-- Function 64 with the population waiting, or running with one record left. -/
def waitingPop : State := (started populatePacket id).modPart 64 (fun p => { p with waiting := [(0, [population])] })
def runningPop (records : List (Nat × LaunchRec)) : State :=
  (started populatePacket id).modPart 64 (fun p => { p with running := [{ population with records := records, comp := 0x8000 }] })

theorem witness_populations : admissionHead waitingPop 64 = some population ∧ neverFits waitingPop population = false ∧ population.coresident = false ∧
    admissionBase waitingPop population = some 0 ∧ neverFits waitingPop { population with body := packet [(0, 1), (4, 1), (8, 0x4000), (0x30, 4), (0x34, 0x100000)] } = true ∧
    (nextRecord (runningPop [(5, record)]) 64).isSome = true ∧
    fnWrites (popWaiting population waitingPop) 0x0 8 = true ∧ popCounted { (runningPop []) with mem := [(0x8000, 4)] } { population with comp := 0x8000 } = true ∧
    startedFind (runningPop []) 64 0 0 = some { seqNo := 0, packet := populatePacket, at_ := 0 } := by decide +kernel

/-- A forwarded packet at the Weighbridge processor. -/
def forwarding : State :=
  { withPacket (packet [(0, 1), (1, 2), (2, 1), (4, 1), (8, 0x4000), (0x30, 4)]) with weighbridge := [(64, 0, 0, packet [(0, 1), (1, 2), (2, 1), (4, 1), (8, 0x4000), (0x30, 4)])] }

theorem witness_forwarded : forwarding.weighbridge.find? (forwardReady forwarding) = some (64, 0, 0, packet [(0, 1), (1, 2), (2, 1), (4, 1), (8, 0x4000), (0x30, 4)]) ∧
    sieveAccepts forwarding 64 (packet [(0, 1), (1, 2), (2, 1), (4, 1), (8, 0x4000), (0x30, 4)]) = none := by decide +kernel

/-- A graph of one node. -/
def graphOf (b : BitVec 512) (st : NodeState) : Machine.Graph := Machine.Graph.mk 3 64 0 0 [b] [st] 1 0 false none [] false
def withGraph (b : BitVec 512) (st : NodeState) : State := { (started graphPacket id) with graphs := [graphOf b st] }

theorem witness_graph_nodes : ([packet [(0, 1), (4, 1), (8, 0x4000), (0x30, 4)], packet [(0, 3), (8, 0x2000), (0x10, 0x3000), (0x18, 8)],
      packet [(0, 4), (8, 0x3000), (0x10, 0)], packet [(0, 5), (4, 3), (8, 0x3000), (0x10, 1)], packet [(0, 0x0D), (8, 0x3000), (0x10, 1)],
      packet [(0, 0x0E), (4, 1), (8, 0x8000), (0x10, 0x9000), (0x18, 0xA000)]]).all (fun b =>
        nodeOk (withGraph b .idle) 64 0 b && nodeReady (withGraph b .idle) (graphOf b .idle) 0 && !waitNodeReady (withGraph b .idle) (graphOf b .idle) 0) = true ∧
    graphFind (withGraph 0 .idle) 3 = some (graphOf 0 .idle) ∧
    graphEnds (withGraph 0 .complete) (graphOf 0 .complete) = true ∧ queuesQuiet (withGraph 0 .complete) { graphOf 0 .complete with rearm := true } = true := by decide +kernel

/-- A graph's agent unit with a record that it holds, over attached queues at 0x8000 and 0x9000. -/
def unitWith (kind : Nat) (held : Option (Nat × BitVec 512)) : AgentUnit := AgentUnit.mk 3 0 kind 0 0x8000 0 0 false held 0
def withUnit (kind : Nat) (held : Option (Nat × BitVec 512)) : State := { withGraph 0 .started with units := [unitWith kind held] }

theorem witness_units : unitOfNode (withUnit 1 (some (0, 5))) 3 0 1 = some (unitWith 1 (some (0, 5))) ∧ graphStopped (withUnit 1 none) (graphOf 0 .started) = false ∧
    partitionBusy (withUnit 1 none) 64 = false ∧ (withUnit 1 none).units.find? (fun x => x.graph = 3 && x.node = 0) = some (unitWith 1 none) ∧
    agentDone { withUnit 1 none with listQueues := [ListQueue.mk 0x8000 0x8000 3 64 [] 0 [] [] [] [] []] } (unitWith 1 none) = true := by decide +kernel

theorem witness_meshlets : (let r := packet [(0, 0x10), (8, 0x4000), (0x10, 100)]
    pFld r 0 1 = 0x10 ∧ onlyNamed [(0, 0, 8), (8, 0, 64), (0x10, 0, 32), (0x14, 0, 32), (0x18, 0, 64)] r = true ∧ pFld r 8 8 % 4 = 0 ∧
      1 ≤ pFld r 0x10 4 ∧ pFld r 0x10 4 < 2 ^ 31 ∧ 1 * 64 < pFld r 0x10 4 ∧ pFld r 0x10 4 ≤ 2 * 64) := by decide +kernel

/-- A list queue at 0x8000 with one record in its bin and a batch size of one. -/
def batching : State :=
  { withGraph 0 .started with listQueues := [ListQueue.mk 0x8000 0x8000 3 64 [] 0 [(0, [0])] [] [] [] []], mem := memWrite (memWrite [] 0x8000 (leBytes 64 (packet [(0, 0x10000), (8, 0x9000), (0x10, 4), (0x14, 1),
    (0x18, 1), (0x19, 1), (0x1A, 1), (0x20, 0xA000)]).toNat)) 0x9004 [1] }

theorem witness_batches : lqFind batching 0x8000 = some (ListQueue.mk 0x8000 0x8000 3 64 [] 0 [(0, [0])] [] [] [] []) ∧
    batchSize batching (ListQueue.mk 0x8000 0x8000 3 64 [] 0 [(0, [0])] [] [] [] []) 0 = some 1 ∧
    batchFirst batching (ListQueue.mk 0x8000 0x8000 3 64 [] 0 [(0, [0])] [] [] [] []) 0 = true ∧
    (match (runFn 64 (do
        let x ← binAt (lqDesc batching 0x8000) 0
        let b ← gNum (lqTemplate (lqDesc batching 0x8000)) 64
        lqClaim 0x8000 0 1
        pure (x.head, BitVec.ofNat 512 b)) batching).1 with
      | .ok r => r.2
      | .error _ => 1) = 0 := by decide +kernel

/-- A list queue with neither records nor producers may finish. -/
theorem witness_finish : (let q := ListQueue.mk 0x8000 0x8000 3 64 [] 0 [] [] [] [] []
    let s := { withGraph 0 .started with listQueues := [q], mem := [(0x8018, 1), (0x8019, 1), (0x801A, 1)] }
    (lqFind s 0x8000 = some q ∧ q.closing = [] ∧ queueFinishes s q = true) ∧ lqDown (lqDesc s 0x8000) = 0 ∧ lqDone (lqDesc s 0x8000) = 0 ∧
      ovfSlice s 64 (sectorOf 0x803A) = none) := by decide +kernel

/-- A child slot from its two bounds, the same in each axis, and its REF, and a node from its slots (06 R141, R142). -/
def childSlot (lo hi ref : Nat) : Nat := lo * (1 + 2 ^ 32 + 2 ^ 64) + hi * (2 ^ 96 + 2 ^ 128 + 2 ^ 160) + ref * 2 ^ 192
def nodeOf (l : List Nat) : Nat := l.length * 2 ^ 32 + ((l.zipIdx.map (fun e => e.1 * 2 ^ (512 + 256 * e.2))).sum)

/-- A hierarchy at 0x5000 that cluster 0 optimises: of two near primitives and a distant one, the node at 0x6100 holds a near one and the
distant one. -/
def optimised (epoch : Nat) : State :=
  let top := leBytes 48 (0x6000 + epoch * 2 ^ 64 + 2 ^ 320)
  let parent := leBytes 192 (nodeOf [childSlot 0 0x3F800000 0x7002, childSlot 0 0x41300000 0x6101])
  let child := leBytes 192 (nodeOf [childSlot 0 0x3F800000 0x7042, childSlot 0x41200000 0x41300000 0x7082])
  { State.reset with mem := memWrite (memWrite (memWrite [] 0x5000 top) 0x6000 parent) 0x6100 child }

theorem witness_optimiser : (match (runG 64 (claimG 0 0x5000 (.rotate 0x6000 0x6100 0 1)) (optimised 0)).1 with
      | .ok (pos, w) => decide (pos = 0x5000 ∧ w.length = 6)
      | .error _ => false) = true ∧ partOfCluster (optimised 0) 0 = 64 ∧ clusterIndex (optimised 0) 0 = 0 ∧ clusterOwner (optimised 0) 0 = some 64 ∧
    ((optimised 0).part 64).changes = [] ∧ ((optimised 0).part 64).bound = [] ∧
    (match (runG 64 (do
        let h ← readRoot 0x5000
        let word ← gNum ((0x5000 + 8) % 2 ^ 64) 8
        pure (h, word)) (optimised 1)).1 with
      | .ok (h, _) => h.epoch
      | .error _ => 0) = 1 := by decide +kernel

/-- Partition 64 with a cut over cluster 0, and units in the states of a cut. -/
def cutting (kind : Nat) (recorded : List (Nat × Nat)) : State :=
  (started (cutPacket 0) id).modPart 64 (fun p => { p with cut := some ⟨kind, [0], 64, 0, 0, [], recorded⟩ })

theorem witness_cuts : (cutOf (cutting 0 []) 3).isSome = true ∧ unitArmed (cutting 0 []) 3 = false ∧
    (let s := (cutting 0 []).modCore 3 (fun c => { c with kcut := { c.kcut with arm := true } })
     unitArmed s 3 = true ∧ unitRecorded s 3 = false ∧ unitUnsent s 3 = false ∧ unitDrained s 3 = true) ∧
    (let s := (cutting 0 []).modCore 3 (fun c => { c with kcut := { c.kcut with arm := true, recorded := true, pend := 0xFF } })
     ([8, 9, 10, 11, 12, 13, 14, 15]).any (markerReady s 3) = true) ∧
    hardDue ((({ withPacket 0 with now := 300000 }).modPart 64 (fun p => { p with victims := [(1, 0, 0)] })).modHart 1 (fun h => { h with run := .running })) 64 0 = true := by
  decide +kernel

/-- Partition 64 with a cut over cluster 0 whose units have all recorded themselves. -/
def recordedCut : State :=
  (List.range 8).foldl (fun s u => s.modCore u (fun c => { c with kcut := { c.kcut with arm := true, recorded := true } }))
    ((cutting 0 []).modCluster 0 (fun c => { c with cutArm := true, cutRec := true }))

theorem witness_cut_ends : cutEnds recordedCut 64 = true ∧ (recordedCut.part 64).cut = some ⟨0, [0], 64, 0, 0, [], []⟩ ∧
    startedFind recordedCut 64 0 0 = some { seqNo := 0, packet := cutPacket 0, at_ := 0 } ∧ pFld (cutPacket 0) 0x18 8 = 0 := by decide +kernel

/-- The header of an image that does not fit is written, whatever the image needs. -/
theorem image_written {p : Nat} {k : Cut} {pk : BitVec 512} {s : State} (h : pFld pk 0x10 8 < 64)
    (w : (match (runFn p (gWrite (pFld pk 8 8) (imageHeader p k.clusters.length 64 false)
      ((imageHeader p k.clusters.length 64 false).length / 128 + 2)) { s with free := s.free + 2 }).1 with
    | .ok _ => true
    | .error _ => false) = true) : ∃ ok v, writeImage p k pk s = (.ok ok, v) := by
  have n : decide (imageNeeds s k.clusters.length ≤ pFld pk 0x10 8) = false := by
    apply decide_eq_false
    unfold imageNeeds
    omega
  simp only [writeImage, n, Bool.false_eq_true, if_false, List.append_nil]
  split at w
  · rename_i e
    split
    · rename_i e2; rw [e2] at e; cases e
    · exact ⟨_, _, rfl⟩
  · cases w

def smallCut : BitVec 512 := packet [(0, 9), (8, 0x40000), (0x10, 63)]

theorem witness_cut_image : ∃ ok v, writeImage 64 ⟨0, [0], 64, 0, 0, [], []⟩ smallCut recordedCut = (.ok ok, v) :=
  image_written (by decide +kernel) (by decide +kernel)

/-- A started mode-2 CUT where memory holds no image, and where it names one without a body. -/
theorem witness_cut_restore : (restoreReady (withPacket (cutPacket 2)) 64 0).isNone = true ∧
    (match restoreReady (started (cutPacket 2) id) 64 0 with
      | some (_, .error c) => c
      | _ => 0) = 5 ∧
    (match restoreReady ((started (cutPacket 2) id).modPart 64 (fun p => { p with images := [{ id := 1, used := 64, clusters := [0], harts := [], cores := [], benches := [], recorded := [] }] })) 64 0 with
      | some (_, .ok (img, _)) => img.id
      | _ => 0) = 1 := by decide +kernel

/-- Core 0 full of threads of population 9 of priority 0, and a record of priority 1 at the head of its sub-queue. -/
def crowded : State :=
  (List.range 15).foldl (fun s k => s.modHart (k + 1) (fun h => { h with run := .running, thread := { h.thread with popid := 9 } }))
    ((({ withPacket 0 with now := 300000 }).modPart 64 (fun p => { p with running := [{ population with popid := 9 }] })).modFunc 64 (fun f => { f with prewait := 10, saveslots := 256 })
      |>.modCore 0 (fun c => { c with launch := [(1, [{ record with headAt := some 0 }])] }))

theorem witness_victims : (match preemptPlan crowded 64 with
    | some (_, l) => decide (l = [1, 2, 3]) && (freeRuns 256 l.length (crowded.part 64).slotsUsed).isSome && decide l.Nodup && l.all (fun h => (possibleVictims crowded 64 9).contains h)
    | none => false) = true := by decide +kernel

/-- Population 9 with a saved thread in slot 0, whose record has pc 0x4444. -/
def returningState : State :=
  { (withPacket 0) with mem := memWrite (withPacket 0).mem 0xF8 [0x44, 0x44] }.modPart 64 (fun p => { p with
    running := [{ population with popid := 9, saved := [0] }], saved := [SavedThread.mk 0 false { pc := 0x4444 } [] none 9 [] []] })

theorem witness_return : returnPlan returningState 64 0 1 = some [(0, 1)] ∧ (savedFind returningState 64 0).isSome = true ∧
    (match (runFn 64 (savedRecord 64 (SavedThread.mk 0 false { pc := 0x4444 } [] none 9 [] [])) returningState).1 with
      | .ok (first, _) => recWord first 0xF8
      | .error _ => 0) = 0x4444 := by decide +kernel

theorem witness_resize : ([0].mapM parseEntry).isSome = true ∧ (match [0].mapM parseEntry with
      | some l => resizeCode (withPacket resizePacket) l
      | none => 9) = 0 ∧
    (match (runFn 64 ((List.range 1).mapM (fun i => gNum (0x6000 + 256 * i) 256)) (consume 64 0 resizePacket none (withPacket resizePacket)).2).1 with
      | .ok vs => decide (vs = [0])
      | .error _ => false) = true ∧ [2 ^ 2047].mapM parseEntry = none ∧ fnWrites (withPacket resizePacket) 0x7000 8 = true := by decide +kernel

/- The host, boot and the display. -/

/-- Function 64 with two queues that have a packet each. -/
def twoQueues : State :=
  (withPacket (packet [(0, 11)])).modFunc 64 (fun f => { f with pluginActive := true, queues := f.queues ++ [(1, { qbase := 0x10000, en := true, space := true, size := 4, qstate := 2, tail := 1 })] })

theorem witness_host_registers : exposed State.reset 64 = true ∧ exposed State.reset 3 = true ∧
    (let k := (withPacket 0).queue 64 0
     (((withPacket 0).func 64).funcEn = true ∧ k.en = true ∧ k.qstate ≠ 3 ∧ 2 ^ k.size ≤ 16) ∧
      (0 < 2 ^ k.size ∧ (0 + 2 ^ k.size - k.head) % 2 ^ k.size < (k.tail + 2 ^ k.size - k.head) % 2 ^ k.size) ∧
      (15 < 2 ^ k.size ∧ (k.tail + 2 ^ k.size - k.head) % 2 ^ k.size ≤ (15 + 2 ^ k.size - k.head) % 2 ^ k.size)) ∧
    anyEnabled (withPacket 0) 64 = true ∧ anyEnabled State.reset 64 = false ∧ (State.reset.queue 64 15).en = false ∧
    headReached State.reset 64 255 = true ∧ headReached State.reset 3 0 = false := by decide +kernel

/-- Places of BAR 0 at the ends of the entries and arrays that the statements name: the PF's function control block lies at 0x1048, and a VF's at
0x1030. -/
theorem witness_register_places : bar0Place State.reset 64 (0x1048 + 0x10) = some (.entry 3 0x10) ∧ bar0Place State.reset 64 (0x1048 + 0x18) = some (.entry 3 0x18) ∧
    bar0Place State.reset 64 (0x1048 + 0x400 + 32 * 15) = some (.entry 3 (0x400 + 32 * 15)) ∧ bar0Place State.reset 5 (0x1030 + 0x10) = some (.entry 3 0x10) ∧
    bar0Place State.reset 5 0x1008 = some (.entry 1 8) ∧ bar0Place State.reset 64 (0x16E0 + 8) = some (.entry 0x10 8) ∧
    bar0Place State.reset 64 (headsBase + 64 * 255) = some (.heads (64 * 255)) ∧ bar0Place State.reset 64 (headsBase + 64 * 256) = none ∧
    (capabilities State.reset 64).length = 10 := by decide +kernel

/-- A setting of a queue that is legal, at both ends of its size, and ones just outside. -/
theorem witness_queue_settings : (let legal (k : Queue) (v : Word32) := decide (wfld k.qbase 11 0 = 0 ∧ 2 ≤ fld v.toNat 5 2 ∧ fld v.toNat 5 2 ≤ 15 ∧ (v.getLsbD 6 = true → wfld k.qwb 2 0 = 0))
    legal (State.reset.queue 64 0) 9 = true ∧ legal (State.reset.queue 64 0) 0x3D = true ∧ legal (State.reset.queue 64 0) 5 = false ∧
      legal { State.reset.queue 64 0 with qwb := 4 } 0x49 = false) := by decide +kernel

/-- A hierarchy of tables that gives no frame twice, and partition 64 alone. -/
theorem witness_invalidations : (State.reset.func 64).invBusy = none ∧ olderPosted State.reset 64 State.reset.nextId = false ∧
    (frameOwners State.reset (tableNow State.reset)).isSome = true := by decide +kernel

theorem witness_regions : (State.reset.region 7).freeze = false ∧ State.reset.parts.any (fun e => e.2.entry.shw.getLsbD 7) = false ∧
    (State.reset.modPart 64 (fun p => { p with entry := { p.entry with shw := 0x80 } })).parts.any (fun e => e.2.entry.shw.getLsbD 7) = true := by
  decide +kernel

/-- Host memory's first byte is remote for no port; a store on its way keeps port 11 busy. -/
theorem witness_routes : portBusy State.reset 11 = false ∧ State.reset.routes.find? (fun r => r.1 = 63) = none ∧
    ({ State.reset with ports := [(11, { lanes := 2 })] }.port 11).lanes ≠ 0 := by decide +kernel

theorem witness_host_reads : regionOf State.reset 0x1000 = none ∧ ovfSlice State.reset 64 (sectorOf 0x1000) = none ∧
    (List.range 4).mapM (fun i => bar4 State.reset 64 .load (0x1000 + i)) = some [0x1000, 0x1001, 0x1002, 0x1003] ∧
    (List.range 4).mapM (fun i => bar4 State.reset 3 .load (0x1000 + i)) = none ∧ State.reset.failing = [] ∧ State.reset.regions = [] ∧
    (∃ a ∈ [0x1000, 0x1001], ({ State.reset with failing := [32] }).failing.contains (sectorOf a) = true) ∧
    (dramBytes - 16) + 16 ≤ dramBytes ∧ (dramBytes - 16) % 16 = 0 := by decide +kernel

theorem witness_resets : flrLate ((withPacket populatePacket).modFunc 64 (fun f => { f with flr := some 0 })) 64 = false ∧
    flrLate (({ started populatePacket id with now := 200000000 }).modFunc 64 (fun f => { f with flr := some 0 })) 64 = true := by decide +kernel

/-- An image of 64 bytes at 0x2000 that the PF can read. -/
def withPlugin (len : Nat) : State := (withPacket 0).modFunc 64 (fun f => { f with pluginBase := 0x2000, pluginLen := len })

theorem witness_plugin_image : wfld ((withPlugin 64).func 64).pluginBase 11 0 = 0 ∧ ((withPlugin 64).func 64).pluginLen ≤ 131072 ∧
    131072 < ((withPlugin 131073).func 64).pluginLen ∧
    (match (runFn 64 (gBytesAt 0x2000 64 3) (withPlugin 64)).1 with
    | .ok l => decide (l.length = 64)
    | .error _ => false) = true := by decide +kernel

/-- A call for the two queues is due, and one that runs on command core 0. -/
def called : State := twoQueues.modPart 64 (fun p => { p with pluginCall := some { core := 0, since := 0, queues := [0, 1], saved := Hart.resetCommand } })

/-- Whether a packet stands at the head of queue 0 of function 64 and may start, on a state without QWB and started packets. -/
def readyOn (s : State) (type : Nat) (p : BitVec 512) : Bool :=
  (match nextPacket s 64 0 with
    | some (.ok v, none) => decide (v = p)
    | _ => false) && decide (packetCheck s 64 p false = none ∧ pFld p 0 1 = type ∧ mayStart s 64 0 p = true ∧ (s.queue 64 0).wben = false ∧
      (s.queue 64 0).started = [])

theorem witness_plugin_calls : pluginDue twoQueues 64 = true ∧ (called.part 64).pluginCall.isSome = true ∧ (0 : Word) ≠ BitVec.allOnes 64 ∧
    (0 : Word).toNat ∈ [0, 1] ∧ (3 : Word).toNat < 4 ∧ (2 : Word).toNat ∉ [0, 1] ∧
    readyOn ((endPlugin 64 called).modPart 64 (fun x => { x with pluginRow := 0 })) 11 (packet [(0, 11)]) = true ∧
    readyOn (((endPlugin 64 called).modPart 64 (fun x => { x with pluginRow := 1 })).modFunc 64
      (fun f => { f with pluginFaults := satInc f.pluginFaults, pluginActive := true })) 11 (packet [(0, 11)]) = true := by decide +kernel

/-- An image that a key pair made for this test signs over its digest, and the device whose fuses name the key. -/
def signedImage (mr : Nat) : BootImage :=
  BootImage.mk mr (BitVec.ofNat 256 (leNat (List.replicate 32 0x41)))
    0x0388755dd46de5b6265d8b6470600062dd657d84e61ec4e62fc618e914874e2ed9cfabcb2edff424c6046fe38daddb3f42d08ee3a52cd4959eda8b9afcaeb9ea
    0xE4FD5F6797427785057E5934478E9185855A49B2CC4BACACEBEE484815E5EFDE8482570434A4359DF94AA2DD4329DBA008E095083BE9335E4A92AF2C67BC0B8C 3
def fused (stage : Nat) (recovery : Bool) : State :=
  { State.reset with boot := { stage := stage, recovery := recovery, fuseKey := sm3 (beBytes64 (signedImage 1).key), fuseRollback := 0x100000000000011 } }

theorem witness_boot : imageVerifies (fused 0 true).boot (signedImage 1) = true ∧ imageVerifies (fused 0 true).boot { signedImage 1 with version := 2 } = false ∧
    (fused 0 true).boot.upload = none ∧ (fused 0 true).boot.recovery = true ∧ 1 ≤ (fused 1 false).boot.stage := by decide +kernel

/-- The digest of "abc" in GB/T 32905, and a signature over other bytes. -/
theorem test_sm3_and_sm2 : sm3Bytes [0x61, 0x62, 0x63] = beBytes 32 0x66c7f0f462eeedd9d1f2d46bdc10e4e24167c4875cf2f7a2297da02b8f4ba8e0 ∧
    sm2Verifies (signedImage 1).key (List.replicate 32 0x42) (signedImage 1).signature = false := by decide +kernel

theorem witness_power : (280000 : Nat) < 280001 ∧ dieLimit State.reset = 280000 ∧ ((State.reset.die 7).clock < 1200 ∨ 1200 ≤ (State.reset.die 7).clock) ∧
    (let s := State.reset.modDie 7 (fun d => { d with clock := 1175, sinceRaise := 49 })
     50 ≤ (s.die 7).sinceRaise + 1 ∧ (s.die 7).clock < 1200) := by decide +kernel

theorem witness_held : (let s : State := { State.reset with boot := { State.reset.boot with held := true } }
    s.boot.held = true ∧ s.agenda = []) := by decide +kernel

theorem test_held_in_reset : (match step { State.reset with boot := { State.reset.boot with held := true } } with
    | .fault .heldInReset => true
    | _ => false) = true := by decide +kernel

/-- Head 0 of the PF with a surface of the smallest size, and a number of flips before it. -/
def withHead (dims ringlog : Nat) (n : Nat) : State :=
  (withPacket 0).modHead 0 (fun d => { d with surf := 0x400, dims := BitVec.ofNat 64 dims, ring := 0x20000, ringlog := ringlog, slots := List.replicate n ⟨64, 0, 0, 0, 0, 0, 2, 0⟩ })

theorem witness_flips : headOwner (withHead (64 + 64 * 2 ^ 16 + 4 * 2 ^ 32) 4 3) 0 = some 64 ∧ flipInRange ((withHead (64 + 64 * 2 ^ 16 + 4 * 2 ^ 32) 4 3).head 0) = true ∧
    flipInRange ((withHead (7680 + 4320 * 2 ^ 16) 15 3).head 0) = true ∧ flipInRange ((withHead (56 + 64 * 2 ^ 16) 4 3).head 0) = false ∧
    ((withHead 0 4 3).head 0).slots.length < 4 ∧ 4 ≤ ((withHead 0 4 4).head 0).slots.length := by decide +kernel

theorem witness_slots : (tblGet {} (withHead 0 4 1).engines 0).last < (withHead 0 4 1).now / slotCycles ∧
    engineFlips (withHead 0 4 1) 0 = [(0, ⟨64, 0, 0, 0, 0, 0, 2, 0⟩)] ∧ ((withHead 0 4 1).head 0).slots = [⟨64, 0, 0, 0, 0, 0, 2, 0⟩] := by decide +kernel

/- Decoding and steps. -/

/-- The program context of core 0 that runs an instruction's word. -/
def fetching (bytes w : Nat) : State := State.reset.withFetchWord (8 * bytes) w

theorem witness_encoding : (Instr.addi 1 2 5).wellFormed = true ∧ encodeBytes (.addi 1 2 5) = some [0x93, 0x00, 0x51, 0x00] ∧
    (Instr.bswap {}).wellFormed = true := by decide +kernel

theorem witness_encoding_long : ((encodeBytes (.bswap {})).map List.length) = some 8 := by decide +kernel

/- Ill-formed terms, one for each check. -/

theorem smoke_type : (Instr.vadd { d := 1, ty := 6 }).wellFormed = false ∧ (Instr.vfadd { d := 1, ty := 3 }).wellFormed = false ∧
    (Instr.vmand { ty := 1 }).wellFormed = false ∧ (Instr.vtex { ty := 7 }).wellFormed = false := by decide

theorem smoke_register_fields : (Instr.vadd { d := 24 }).wellFormed = false ∧ (Instr.vadd { a := 24 }).wellFormed = false ∧
    (Instr.vadd { b := 31 }).wellFormed = false ∧ (Instr.vmadd { c := 24 }).wellFormed = false ∧ (Instr.vmand { d := 16 }).wellFormed = false ∧
    (Instr.vmpopc { a := 16 }).wellFormed = false ∧ (Instr.vadd { c := 1 }).wellFormed = false ∧ (Instr.vmelse { d := 1 }).wellFormed = false ∧
    (Instr.agpop { b := 1 }).wellFormed = false := by decide

theorem smoke_immediates : (Instr.vadd { imm := 1 }).wellFormed = false ∧ (Instr.vfma { ty := 6, imm := 4 }).wellFormed = false ∧
    (Instr.vfsgnj { ty := 6, imm := 1 }).wellFormed = false ∧ (Instr.vcvt { imm := 16 }).wellFormed = false ∧
    (Instr.vcvt { imm := 11 }).wellFormed = false ∧ (Instr.vcmp { imm := 10 }).wellFormed = false ∧ (Instr.vcmp { ty := 6, imm := 6 }).wellFormed = false ∧
    (Instr.vcmp { imm := 11 }).wellFormed = false ∧ (Instr.samoLoad { imm := 5 }).wellFormed = false ∧ (Instr.samoLoad { imm := 32 }).wellFormed = false ∧
    (Instr.samoLoad { imm := 16 }).wellFormed = false ∧ (Instr.samoStore { pg := 1, imm := 8 }).wellFormed = false ∧
    (Instr.vmmovToPredicate { imm := 51 }).wellFormed = false := by decide

theorem smoke_optional_fields : (Instr.vmpush { ta := true }).wellFormed = false ∧ (Instr.vabs { tb := true }).wellFormed = false ∧
    (Instr.vld { tc := true }).wellFormed = false ∧ (Instr.vext { pg := 1 }).wellFormed = false ∧ (Instr.samoAdd { pg := 3 }).wellFormed = false ∧
    (Instr.vabs { rep := 1 }).wellFormed = false ∧ (Instr.vadd { rm := 1 }).wellFormed = false ∧ (Instr.vfadd { ty := 6, rm := 5 }).wellFormed = false ∧
    (Instr.vfadd { ty := 6, rm := 6 }).wellFormed = false ∧ (Instr.vand { sat := true }).wellFormed = false ∧ (Instr.vscatter { nt := true }).wellFormed = false ∧
    (Instr.vadd { w := 1 }).wellFormed = false ∧ (Instr.vadd { ax := true }).wellFormed = false ∧ (Instr.vmmovToMask {}).wellFormed = false ∧
    (Instr.vmmovToPredicate { ax := true }).wellFormed = false := by decide

theorem smoke_groups : (Instr.vadd { d := 15, rep := 1 }).wellFormed = false ∧ (Instr.vadd { b := 9, rep := 7 }).wellFormed = false ∧
    (Instr.vmadd { d := 9, c := 9, rep := 7 }).wellFormed = false ∧ (Instr.vtex { ty := 6, d := 13 }).wellFormed = false ∧
    (Instr.vtex { ty := 6, b := 15 }).wellFormed = false ∧ (Instr.vtex { ty := 6, b := 16 }).wellFormed = false ∧
    (Instr.rq { ty := 6, b := 9 }).wellFormed = false := by decide

theorem smoke_short_format : (Instr.hpush 0).wellFormed = false ∧ (Instr.hpush 29).wellFormed = false ∧ (Instr.hpusht 1 29).wellFormed = false ∧
    (Instr.drain 4).wellFormed = false ∧ (Instr.qpop 3 3).wellFormed = false ∧ (Instr.qpopt 3 3).wellFormed = false ∧
    (Instr.feprobe 1 0 0).wellFormed = false ∧ (Instr.feprobe 1 16 1).wellFormed = false ∧ (Instr.femark 1 2).wellFormed = false ∧
    (Instr.fenceS 3 0).wellFormed = false ∧ (Instr.fenceS 0 5).wellFormed = false := by decide

/- Words written out from the encoding tables (13 R320, R325, R330, R331; 14 R342–R369). -/

theorem word_scalar : decodeTableWord 32 0b0100000_00011_00010_000_00001_0110011 = some (.sub 1 2 3) ∧
    decodeTableWord 32 0b0100000_00011_00010_101_00001_0111011 = some (.sraw 1 2 3) ∧
    decodeTableWord 32 0b0000001_00011_00010_110_00001_0110011 = some (.rem 1 2 3) ∧
    decodeTableWord 32 0b111111111111_00010_100_00001_0010011 = some (.xori 1 2 0xFFF) ∧
    decodeTableWord 32 0b010000_111111_00010_101_00001_0010011 = some (.srai 1 2 63) ∧
    decodeTableWord 32 0b0000000_11111_00010_001_00001_0011011 = some (.slliw 1 2 31) ∧
    decodeTableWord 32 0b10000000000000000001_00001_0110111 = some (.lui 1 0x80001) ∧
    decodeTableWord 32 0b00000000000000000001_00001_0010111 = some (.auipc 1 1) := by decide

theorem word_control_flow : decodeTableWord 32 0b1_0000000001_0_00000000_00001_1101111 = some (.jal 1 0x80001) ∧
    decodeTableWord 32 0b0_0000000000_1_10000000_00001_1101111 = some (.jal 1 0x40400) ∧
    decodeTableWord 32 0b000000000100_00010_000_00001_1100111 = some (.jalr 1 2 4) ∧
    decodeTableWord 32 0b1_000001_00011_00010_111_0001_0_1100011 = some (.bgeu 2 3 0x811) ∧
    decodeTableWord 32 0b0_000000_00011_00010_100_0000_1_1100011 = some (.blt 2 3 0x400) := by decide

theorem word_memory : decodeTableWord 32 0b000000001000_00010_110_00001_0000011 = some (.lwu 1 2 8) ∧
    decodeTableWord 32 0b1000000_00011_00010_001_00001_0100011 = some (.sh 2 3 0x801) ∧
    decodeTableWord 32 0b00010_11_00000_00010_011_00001_0101111 = some (.lr true true true 1 2) ∧
    decodeTableWord 32 0b00011_01_00011_00010_010_00001_0101111 = some (.sc false false true 1 2 3) ∧
    decodeTableWord 32 0b11100_00_00011_00010_011_00001_0101111 = some (.amomaxu true false false 1 2 3) ∧
    decodeTableWord 32 0b0000_0011_0001_00000_000_00000_0001111 = some (.fence 3 1) ∧
    decodeTableWord 32 0b1000_0011_0011_00000_000_00000_0001111 = some .fenceTso ∧ decodeTableWord 32 0x0000100F = some .fenceI := by decide

theorem word_system : decodeTableWord 32 0b001100000000_00010_011_00001_1110011 = some (.csrrc 1 2 0x300) ∧
    decodeTableWord 32 0b000100000101_11111_101_00001_1110011 = some (.csrrwi 1 31 0x105) ∧ decodeTableWord 32 0x00100073 = some .ebreak ∧
    decodeTableWord 32 0x30200073 = some .mret ∧ decodeTableWord 32 0b0001001_00011_00010_000_00000_1110011 = some (.sfenceVma 2 3) ∧
    decodeTableWord 32 0x7B200073 = none := by decide

/-- The examples of 13 and of 14 R365. -/
theorem word_short : decodeTableWord 32 0x0400150B = some (.gbar 10) ∧ decodeTableWord 32 0x00B0500B = some (.fenceS 1 3) ∧
    decodeTableWord 32 0x0A00000B = some .texit ∧ decodeTableWord 32 0x0400350B = some (.rqpop 10) ∧
    decodeTableWord 32 0b0000010_00011_00010_010_00000_0001011 = some (.cwait 2 3) ∧
    decodeTableWord 32 0b0000100_00011_00010_011_00001_0001011 = none ∧ decodeTableWord 32 0b0000100_00000_00010_011_00001_0001011 = some (.qpop 1 2) ∧
    decodeTableWord 32 0b0000000_00001_00010_100_00011_0001011 = some (.feprobe 3 2 1) := by decide

/-- The examples of 13, and SAMO of R337. -/
theorem word_long : decodeTableWord 64 0x00803220C620E1BF = some (.vfma { d := 3, ty := 6, a := 1, b := 2, c := 3, pg := 2, rep := 3, sat := true }) ∧
    decodeTableWord 64 0x0000000000C5E2BF = some (.setvl { d := 5, ty := 6, a := 11, b := 12 }) ∧
    decodeTableWord 64 0x000800503E6562BF = some (.vld { d := 5, ty := 6, a := 10, b := 6, c := 31, w := 2 }) ∧
    decodeTableWord 64 (0b011100_0_0_0_000_00_0_0_0_000_1011_0101001000 * 2 ^ 30 + 0b01101_01100_01011_011_01010_0111111) =
      some (.samoCas { d := 10, ty := 3, a := 11, b := 12, c := 13, pg := 11, imm := 28 }) ∧
    decodeTableWord 64 0x00000002C000003F = none := by decide

theorem word_vector : decodeTableWord 64 (0b000000_0_0_0_000_00_0_1_0_000_0011_0000000101 * 2 ^ 30 + 0b00100_00011_00010_010_00001_0111111) =
      some (.vsel { d := 1, ty := 2, a := 2, b := 3, c := 4, pg := 3, tb := true }) ∧
    decodeTableWord 64 (0b010010_0_0_1_111_00_0_0_1_000_0000_0011000000 * 2 ^ 30 + 0b00000_00011_00010_110_00001_0111111) = none ∧
    decodeTableWord 64 (0b001010_0_0_1_111_00_0_0_1_000_0000_0011000000 * 2 ^ 30 + 0b00000_00011_00010_110_00001_0111111) =
      some (.vcvt { d := 1, ty := 6, a := 2, b := 3, ta := true, rm := 7, sat := true, imm := 10 }) ∧
    decodeTableWord 64 (0b001001_0_0_0_000_00_0_0_0_000_0000_0011100000 * 2 ^ 30 + 0b00000_00011_00010_001_01111_0111111) =
      some (.vcmp { d := 15, ty := 1, a := 2, b := 3, imm := 9 }) ∧
    decodeTableWord 64 (0b110010_1_0_0_000_00_0_0_0_000_0000_0011101100 * 2 ^ 30 + 0b00000_00000_01111_000_00000_0111111) =
      some (.vmmovToMask { a := 15, ax := true, imm := 50 }) ∧
    decodeTableWord 64 (0b000000_1_0_0_000_00_0_0_0_000_0000_0100000101 * 2 ^ 30 + 0b00000_00000_00010_011_00001_0111111) =
      some (.vredxor { d := 1, ty := 3, a := 2, ax := true }) := by decide

theorem word_units : decodeTableWord 64 (0b100000_0_1_0_000_11_1_0_0_000_0000_0101000011 * 2 ^ 30 + 0b00100_00011_00010_110_00001_0111111) =
      some (.vst { d := 1, ty := 6, a := 2, b := 3, c := 4, tc := true, w := 3, nt := true, imm := 32 }) ∧
    decodeTableWord 64 (0b000000_0_0_0_000_00_1_1_1_000_0000_0110000011 * 2 ^ 30 + 0b00100_00011_00010_000_00000_0111111) =
      some (.bstream { a := 2, b := 3, c := 4, ta := true, tb := true, tc := true }) ∧
    decodeTableWord 64 (0b000000_0_0_0_000_00_0_0_0_000_0101_0111000010 * 2 ^ 30 + 0b00000_01000_00010_110_01100_0111111) =
      some (.rq { d := 12, ty := 6, a := 2, b := 8, pg := 5 }) ∧
    decodeTableWord 64 (0b000000_0_1_0_000_00_0_0_0_000_0000_0111000101 * 2 ^ 30 + 0b00100_00011_00010_000_00000_0111111) =
      some (.agpush { a := 2, b := 3, c := 4, nt := true }) ∧
    decodeTableWord 64 (0b111111_0_0_0_000_01_0_0_0_000_0000_0000001100 * 2 ^ 30 + 0b11111_00000_00010_000_10000_0111111) =
      some (.vsave { d := 16, a := 2, c := 31, w := 1, imm := 63 }) := by decide

/- Results that the manual gives (12 R296–R316; 15 R376, R388; 17 R425). -/

/-- 2^0.5 in each rounding mode (12 R314). -/
theorem test_exp2_half : [0, 1, 2, 3, 4].map (fun rm => (fExp2 6 rm false 0x3F000000).bits) = [0x3FB504F3, 0x3FB504F3, 0x3FB504F3, 0x3FB504F4, 0x3FB504F3] ∧
    (fExp2 6 0 false 0x3F000000).flags = flagNX := by decide +kernel

/-- 2^24, 1, −2^24 and 1 sum to 2, though 2^24 + 1 rounds to 2^24 (12 R312). -/
theorem test_exact_sum : fSum 6 0 false [0x4B800000, 0x3F800000, 0xCB800000, 0x3F800000] = { bits := 0x40000000 } ∧
    (fAdd 6 0 false 0x4B800000 0x3F800000).bits = 0x4B800000 := by decide +kernel

/-- −3 is code 0x26 of L6, inexactly, and that code is −2^1.5 (12 R303, R304). -/
theorem test_l6_conversion : convert 6 8 0 false 0 0xC0400000 = { bits := 0x26, flags := flagNX } ∧ (convert 8 6 0 false 0 0x26).bits = 0xC03504F3 := by
  decide +kernel

/-- The two products of the example under 12 R311. -/
theorem test_l6_products : (l6Prod 0x03 0x3A).value = -0x4C1C00 ∧ (l6Prod 0x03 0x03).value = 0x16A0A00 ∧ (-0x4C1C00 + 0x16A0A00 : Int) = 18738688 := by decide

/-- The conversions of that accumulator (12 R311). -/
theorem test_accumulator_conversion : (finTo 6 0 true false 18738688 (-23) false) = { bits := 0x400EF700 } ∧
    (finTo 5 0 true false 18738688 (-23) false) = { bits := 0x400F, flags := flagNX } ∧
    (finTo 5 1 true false 18738688 (-23) false) = { bits := 0x400E, flags := flagNX } ∧
    (finTo 6 0 true false 18738688 (-24) false) = { bits := 0x3F8EF700 } ∧
    (finTo 0 0 true false 18738688 (-23) false).bits = 2 := by decide +kernel

/-- VFNEG of +0 is −0 (15, the example of R388), and an f32 overflow saturates (12 R298). -/
theorem test_negative_zero_and_saturation : (convert 6 7 0 false 0 0x80000000).bits = 0x8000000000000000 ∧
    (fMul 6 0 false 0x7F000000 0x7F000000) = { bits := 0x7F800000, flags := flagOF + flagNX } ∧
    (fMul 6 0 true 0x7F000000 0x7F000000) = { bits := 0x7F7FFFFF, flags := flagOF + flagNX, sat := true } := by decide +kernel

/-- The strips of 15 R376: 50 by 20 elements of f32, and of i8. -/
theorem test_setvl : (nextOf (execSetvl { d := 1, ty := 6, a := 2, b := 3 } (small 1 .user [(2, 50), (3, 20)]))).xval 1 = 0x0000000800000020 ∧
    (nextOf (execSetvl { d := 1, ty := 0, a := 2, b := 3 } (small 1 .user [(2, 50), (3, 20)]))).xval 1 = 0x0000001400000020 := by decide +kernel

/- Single instructions on a small state; the results are worked by hand from 14 R342–R345. -/

theorem test_add_wraps : (nextOf (execAdd 1 2 3 (small 1 .user [(2, BitVec.allOnes 64), (3, 2)]))).xval 1 = 1 ∧
    (nextOf (execAdd 0 2 3 prog)).xval 0 = 0 := by decide +kernel

theorem test_sraw : (nextOf (execSraw 1 2 3 (small 1 .user [(2, 0x180000000), (3, 36)]))).xval 1 = 0xFFFFFFFFF8000000 := by decide +kernel

theorem test_branch_backwards : (nextOf (execBne 2 3 0xFFC prog)).self.pc = 0xFF8 ∧ (nextOf (execBeq 2 3 0xFFC prog)).self.pc = 0x1004 := by decide +kernel

/-- The source of JALR is its destination as well; bit 0 of the target is cleared. -/
theorem test_jalr_link : (nextOf (execJalr 2 2 9 (small 1 .user [(2, 0x2000)]))).self.pc = 0x2008 ∧
    (nextOf (execJalr 2 2 9 (small 1 .user [(2, 0x2000)]))).xval 2 = 0x1004 := by decide +kernel

theorem test_divide_corners : (nextOf (execDiv 1 2 3 (small 1 .user [(2, 7), (3, 0)]))).xval 1 = BitVec.allOnes 64 ∧
    (nextOf (execDiv 1 2 3 (small 1 .user [(2, 0x8000000000000000), (3, BitVec.allOnes 64)]))).xval 1 = 0x8000000000000000 ∧
    (nextOf (execRem 1 2 3 (small 1 .user [(2, BitVec.ofInt 64 (-7)), (3, 2)]))).xval 1 = BitVec.allOnes 64 := by decide +kernel

/-- ECALL from U-mode of a vector core goes to S-mode with cause 8 (11 R266). -/
theorem test_ecall : (nextOf (execEcall prog)).self.priv = .supervisor ∧ (nextOf (execEcall prog)).self.csr.scause = 8 ∧
    (nextOf (execEcall prog)).self.csr.sepc = 0x1000 := by decide +kernel

/- Steps from reset on a placed word. -/

theorem test_step_addi : (nextOf (step (State.reset.withFetchWord 32 0x00508093))).self.pc = 0x1004 ∧
    (nextOf (step (State.reset.withFetchWord 32 0x00508093))).xval 1 = 5 := by decide +kernel

/-- A short instruction behind which nothing else is due: the conditions of an issue. -/
theorem witness_issues : (let s := State.reset.withFetchWord 32 0x00508093
    s.boot.held = false ∧ takeFlaw s s.flaws = none ∧ takeDue s.now s.agenda = none ∧ expiredTimer s = none ∧ freedHart s = none ∧
      (continueSlot s).isNone = true ∧ deviceAction s = none ∧ nextHart s = some 1 ∧ (s.core (unitOf 1)).dbg.prog.isNone = true ∧ takesIrq s 1 = false ∧
      (match fetchWord s 1 0x1000 with
        | .ok (w, t) => decide (w = 0x00508093) && decide (acquirePending t 1 = false) && decide (slotWait 1 3 t (slotAdd none 1 (.addi 1 1 5) 0x1000) 0x1004 = none)
        | .error _ => false) = true ∧ lengthOf 0x00508093 = some 4 ∧ decode (natBytes 4 0x00508093) = some (.addi 1 1 5, []) ∧
      inWindow 1 0x1000 = false ∧ iFind (s.core 0) 0x1000 = none ∧ (s.part 64).rehoming = none ∧ heldByte s 0x1000 4 = none) := by decide +kernel

/-- A slot whose second instruction reads a register that is empty waits before the first issues. -/
theorem witness_slot_wait : (let s := (State.reset.withFetchWord 64 0x0011011300508093).modHart 1 (fun h => h.setXFe 2 .inFlight)
    match fetchWord s 1 0x1000 with
    | .ok (w, t) => decide (w = 0x00508093) && decide (slotWait 1 3 t (slotAdd none 1 (.addi 1 1 5) 0x1000) 0x1004 = some (.xreg 2))
    | .error _ => false) = true := by decide +kernel

theorem witness_other_words : lengthOf 0x3F = some 8 ∧ lengthOf 0 = none ∧ decode (natBytes 4 0) = none ∧
    (nextOf (step (State.reset.withFetchWord 32 0))).self.csr.mcause = 2 ∧ wfld (0x1002 : Word) 1 0 ≠ 0 ∧ inWindow 1 windowBase = true := by decide +kernel

/-- The form of memory at reset. -/
theorem test_reset_form : MemoriesWf State.reset = true := by decide +kernel

/-- The example of 01 R21. -/
theorem test_dram_place : dramChannel 0x14E80 = 0 ∧ dramData 0x14E80 = 10880 ∧ dramPlace 0x14E80 = (0x2D00, 0x2FD0) := by decide +kernel

/-- The feature profile has 256 bytes, version 1, part 3 and 32 lanes (04 R99); op10 0x00B is no instruction, and FENCE.S is bit 240 of the short
format. -/
theorem test_feature_profile : featureProfile.length = 256 ∧ nth 0 featureProfile 0 = 1 ∧ nth 0 featureProfile 4 = 3 ∧ (nth 0 featureProfile 9).getLsbD 3 = false ∧
    (nth 0 featureProfile (0x88 + 30)).getLsbD 0 = true ∧ nth 0 featureProfile 0xB8 = 32 := by decide +kernel

/- ASTC blocks, worked out by hand from the published layout. -/

/-- A void-extent block without bounds: one colour. -/
theorem test_astc_void : astcTexel (0xFFFFFFFF00008000FFFFFFFFFFFFFDFC) 4 4 false 2 3 = some [0x8000, 0, 0xFFFF, 0xFFFF] := by decide +kernel

/-- A 4 × 4 grid of two-bit weights, of which the first is 3, over grey levels 0x10 and 0xF0. -/
theorem test_astc_grey : astcTexel (0xC0000000000000000000000000000042 + 0x10 * 2 ^ 17 + 0xF0 * 2 ^ 25) 4 4 false 0 0 = some [0xF0F0, 0xF0F0, 0xF0F0, 0xFFFF] ∧
    astcTexel (0xC0000000000000000000000000000042 + 0x10 * 2 ^ 17 + 0xF0 * 2 ^ 25) 4 4 false 1 0 = some [0x1010, 0x1010, 0x1010, 0xFFFF] ∧
    astcTexel 0 4 4 false 0 0 = none := by decide +kernel

/- The checks of data. -/

/-- The published check value of CRC-32C, over the digits 1 to 9. -/
theorem test_crc32c : crc32c [0x31, 0x32, 0x33, 0x34, 0x35, 0x36, 0x37, 0x38, 0x39] = 0xE3069283 := by decide +kernel

/-- DRAM gives a sector back through one wrong symbol, refuses two, and refuses a sector that stands at another address (01 R21, R28). -/
theorem test_dram_codes : (let d : BitVec 1024 := 0x0123456789ABCDEF
    dramRead 0x1000 (dramImage 0x1000 d) = some (Carried.enter d) ∧ dramRead 0x1000 (dramImage 0x1000 d ^^^ 0xFFFF0000) = some (Carried.enter d) ∧
      dramRead 0x1000 (dramImage 0x1000 d ^^^ 0x1000000001) = none ∧ dramRead 0x1080 (dramImage 0x1000 d) = none) := by decide +kernel

end Sys2Proof.Tests
end

section
/-! PROOF. Thermal shutdown (01 R15): what the two measurements of a die's temperature do, and the step of a module that is held in reset. -/

namespace Sys2Proof.Machine

open Sys2Proof.Machine.Laws

/- Holding every die in reset. -/

@[simp] theorem holdInReset_held (s : State) : (holdInReset s).boot.held = true := rfl
@[simp] theorem holdInReset_out (s : State) : (holdInReset s).out = s.out ++ [.aer 64 true] := rfl

/-- The state after the power controller of a die has taken its measurements, before the temperature is held against 115 °C. -/
def powerEvaluated (die mw tj : Nat) (s : State) : State :=
  let t := s.modDie die (fun d => d.evaluate (dieLimit s) mw tj)
  { t with powerW := modulePower t % 4096 }

@[simp] theorem powerEvaluated_out (die mw tj : Nat) (s : State) : (powerEvaluated die mw tj s).out = s.out := rfl

theorem exec_powerEvaluation {die : Nat} (mw tj : Nat) (s : State) (hdie : die < 8) :
    exec (.powerEvaluation die mw tj) s =
      .next (if 115 ≤ tj then holdInReset (powerEvaluated die mw tj s) else powerEvaluated die mw tj s) :=
  if_neg (Nat.not_le.mpr hdie)

theorem exec_thermalShutdown {die : Nat} (tj : Nat) (s : State) (hdie : die < 10) :
    exec (.thermalShutdown die tj) s =
      .next (if 115 ≤ tj then holdInReset (s.modDie die (fun d => { d with tj := tjShown tj }))
        else s.modDie die (fun d => { d with tj := tjShown tj })) :=
  if_neg (Nat.not_le.mpr hdie)

/-- From 115 °C on, either measurement of a die holds every die in reset and reports one fatal error. -/
theorem held_of_hot {i : Instr} {s t : State} {tj : Nat} (hexec : exec i s = .next (if 115 ≤ tj then holdInReset t else t))
    (hout : t.out = s.out) (hhot : 115 ≤ tj) :
    ∃ v, exec i s = .next v ∧ v.boot.held = true ∧ v.out = s.out ++ [.aer 64 true] := by
  rw [if_pos hhot] at hexec
  exact ⟨holdInReset t, hexec, holdInReset_held t, by rw [holdInReset_out, hout]⟩

/- The step of a held module. -/

theorem isColdReset_iff (i : Instr) : isColdReset i = true ↔ ∃ l, i = .coldReset l := by
  constructor
  · intro h
    unfold isColdReset at h
    split at h
    next l => exact ⟨l, rfl⟩
    next => cases h
  · rintro ⟨l, rfl⟩
    rfl

theorem step_of_held {s : State} (hheld : s.boot.held = true) : step s = stepHeld s := if_pos hheld

/-- Where no cold reset stands in the agenda, a held module has no step. -/
theorem stepHeld_of_no_coldReset {s : State} (h : ∀ e ∈ s.agenda, ∀ l, e.2 ≠ .coldReset l) : stepHeld s = .fault .heldInReset := by
  have hnone : s.agenda.find? (fun e => isColdReset e.2) = none := by
    rw [List.find?_eq_none]
    intro e he hcold
    obtain ⟨l, hl⟩ := (isColdReset_iff e.2).mp hcold
    exact h e he l hl
  simp only [stepHeld, hnone]

/-- Settles O52: each measurement of a die's temperature ends in holdInReset from 115 °C on and leaves the reset and the host's messages as they
are below, and a held module's step looks for a cold reset only (log entry 94). -/
theorem thermalShutdown : Obligations.ThermalShutdown := by
  refine ⟨?shutdownHot, ?evaluationHot, ?shutdownCool, ?held⟩
  case shutdownHot =>
    intro s die tj hdie hhot
    exact held_of_hot (exec_thermalShutdown tj s hdie) (modDie_out s die _) hhot
  case evaluationHot =>
    intro s die mw tj hdie hhot
    exact held_of_hot (exec_powerEvaluation mw tj s hdie) (powerEvaluated_out die mw tj s) hhot
  case shutdownCool =>
    intro s die tj hdie hcool
    rw [exec_thermalShutdown tj s hdie, if_neg (Nat.not_le.mpr hcool)]
    exact ⟨_, rfl, by rw [modDie_boot], modDie_out s die _⟩
  case held =>
    intro s hheld hagenda
    rw [step_of_held hheld, stepHeld_of_no_coldReset hagenda]

end Sys2Proof.Machine
end

section
/-! PROOF. The mask stack's bounds (11 R276): how a vector instruction that is ready goes through its issue checks, and the trap that a push on a
full mask stack, and an else or a pop on an empty one, takes without an effect. -/

namespace Sys2Proof.Machine

open Sys2Proof.Machine.Laws

/- Meanings in a row. -/

theorem bind_of_ok {α β : Type} {m : M α} {s t : State} {a : α} (h : m s = .ok (a, t)) (g : α → M β) : (m >>= g) s = g a t := by
  simp only [bind, StateT.bind, h, Except.bind]

theorem bind_of_error {α β : Type} {m : M α} {s : State} {e : Stop} (h : m s = .error e) (g : α → M β) : (m >>= g) s = .error e := by
  simp only [bind, StateT.bind, h, Except.bind]

theorem askS_bind {α β : Type} (f : State → α) (g : α → M β) (s : State) : (askS f >>= g) s = g (f s) s := bind_of_ok rfl g

/- The operand checks of a long instruction whose operands are there (13 R332). -/

theorem readXT_of_readable {s : State} {r : Reg} (h : Readable s r) (t : Bool) (field : Nat) : readXT r t field s = .ok (s.xval r, s) := by
  have hfull : (s.hart s.cur).xReady s.now r.toNat = true := h.1
  simp [readXT, hfull, readX_ok h]

/-- A source field gives the register's contents where it is of class X, and 0 otherwise. -/
theorem xArg_ok {s : State} {k : FieldClass} {r : Reg} (h : k = .x → Readable s r) (t : Bool) (field : Nat) :
    xArg k r t field s = .ok (if k = .x then s.xval r else 0, s) := by
  cases k with
  | x => exact readXT_of_readable (h rfl) t field
  | none | v | p | imm => rfl

theorem fieldC_eq_x_iff (k : LongSpec) (f : LongFields) :
    (if k.progress && f.nt then FieldClass.x else k.c) = .x ↔ k.c = .x ∨ (k.progress = true ∧ f.nt = true) := by
  cases k.progress <;> cases f.nt <;> simp

/-- Where every register operand is there, no t bit traps. -/
theorem tTraps_ok {s : State} {i : Instr} (h : OperandsThere s i) : tTraps i s = .ok ((), s) := by
  obtain ⟨-, hx, hv, -⟩ := h
  unfold tTraps
  split
  next => rfl
  next f k hl =>
    obtain ⟨ha, hb, hc, -⟩ := hx f k hl
    rw [← fieldC_eq_x_iff] at hc
    extract_lets x vs cClass all
    change cClass = .x → Readable s f.c at hc
    have noX (c : FieldClass) (r : Reg) (t : Bool) (field : Nat) (hr : c = .x → Readable s r) : x c r t field = none := by
      cases c with
      | x =>
        have hfull : (s.hart s.cur).xReady s.now r.toNat = true := (hr rfl).1
        simp [x, hfull]
      | none | v | p | imm => rfl
    have noV : vs = [] := by
      rw [List.filterMap_eq_nil_iff]
      intro u hu
      simp [hv u hu]
    have noTrap : all = [] := by
      simp [all, noV, noX _ _ _ _ ha, noX _ _ _ _ hb, noX _ _ _ _ hc]
    rw [noTrap]
    rfl

/-- Where every register operand is there, no vector source waits. -/
theorem vWaits_ok {s : State} {i : Instr} (h : OperandsThere s i) : vWaits i s = .ok ((), s) := by
  obtain ⟨-, -, hv, hins⟩ := h
  have noSource : (vSources i).findSome? (fun u => (u.empties s)[0]?) = none := by
    rw [List.findSome?_eq_none_iff]
    intro u hu
    simp [hv u hu]
  unfold vWaits
  simp only [noSource]
  split
  next heq =>
    split at heq
    next f => simp [hins f rfl] at heq
    next => cases heq
  next => rfl

/-- A long instruction whose register operands are there reads the scalar registers of its X fields, and no check stops it. -/
theorem operandsM_ok {s : State} {i : Instr} (h : OperandsThere s i) : operandsM i s = .ok (s.args i, s) := by
  have ht := tTraps_ok h
  have hw := vWaits_ok h
  obtain ⟨hmis, hx, -, -⟩ := h
  unfold operandsM
  rw [hmis]
  refine (bind_of_ok ht _).trans ?_
  cases hl : i.long? with
  | none => simp only [State.args, hl]; rfl
  | some fk =>
    obtain ⟨f, k⟩ := fk
    obtain ⟨ha, hb, hc, hd⟩ := hx f k hl
    rw [← fieldC_eq_x_iff] at hc
    have hdest : (match k.d with | .x => destX f.d.toNat | _ => pure () : M Unit) s = .ok ((), s) := by
      cases kd : k.d with
      | x => exact destX_ok (hd kd)
      | none | v | p | imm => rfl
    refine (bind_of_ok (xArg_ok ha _ _) _).trans <| (bind_of_ok (xArg_ok hb _ _) _).trans <| (bind_of_ok (xArg_ok hc _ _) _).trans <|
      (bind_of_ok hdest _).trans <| (bind_of_ok hw _).trans ?_
    simp only [State.args, hl, fieldC_eq_x_iff]
    rfl

/- The issue of a vector instruction that is ready (15 R371; 08 R195). -/

/-- On an idle vector unit an instruction may start now. -/
theorem startAt_of_idle {s : State} (h : LanesIdle s) (i : Instr) : startAt s s.cur i = s.now := by
  obtain ⟨-, hlanes, hregs, -, -, -⟩ := h
  have noneWritten : (sourceRegs i).filterMap (regTimes s s.cur) = [] := by
    rw [List.filterMap_eq_nil_iff]
    exact fun r _ => hregs r
  simp only [startAt, noneWritten, List.foldl_nil]
  split <;> omega

theorem parityStep_of_idle {s : State} (h : LanesIdle s) (i : Instr) : parityStep s.cur i s = none := by
  obtain ⟨-, -, -, -, hparity, -⟩ := h
  have noError : (sourceNames s s.cur i).find? (fun n => (s.core (unitOf s.cur)).parity ≠ [] && parityLanes (s.core (unitOf s.cur)) n ≠ []) = none := by
    simp [hparity]
  simp only [parityStep, noError]

theorem heldSource_of_idle {s : State} (h : LanesIdle s) (i : Instr) : heldSource s s.cur i = none := by
  obtain ⟨-, -, -, hlanes, -, hcontext⟩ := h
  have hcontext : (s.hart s.cur).vec.failing = [] := hcontext
  simp [heldSource, hlanes, contextHeld, hcontext]

theorem parityM_of_idle {s : State} (h : LanesIdle s) (e : VecEntry) : parityM e s = .ok ((), s) := by
  simp only [parityM, parityStep_of_idle h]

/-- The entry that a ready instruction captures. -/
def readyEntry (s : State) (i : Instr) (f : LongFields) : VecEntry := captureEntry s.cur i f (s.args i) s.self

@[simp] theorem readyEntry_hart (s : State) (i : Instr) (f : LongFields) : (readyEntry s i f).hart = s.cur := rfl

/-- A ready instruction passes its checks, executes with what it captured, and retires. -/
theorem vecIssue_of_ready {s : State} {i : Instr} {w : Nat} {f : LongFields} {k : LongSpec} (h : VecReady s i w) (hl : i.long? = some (f, k))
    (run : VecEntry → M Unit) : vecIssue i w run s = (do run (readyEntry s i f); retireM 8) s := by
  obtain ⟨hlegal, hops, hidle, -⟩ := h
  have hvq : (s.core (unitOf s.cur)).vq = [] := hidle.1
  simp only [vecIssue, askS_bind, hlegal, requireM, if_true, pure_bind, hl, bind_of_ok (operandsM_ok hops), hvq, startAt_of_idle hidle i, Nat.le_refl,
    decide_true, Bool.and_true, bind_assoc, bind_of_ok (parityM_of_idle hidle _), readyEntry, State.self]

/- A mask instruction that traps. -/

theorem inProgram_iff (s : State) (h : Nat) : inProgram s h = true ↔ ∃ r, (s.core (unitOf h)).dbg.prog = some (h, r) := by
  unfold inProgram
  cases (s.core (unitOf h)).dbg.prog <;> simp [Prod.ext_iff]

/-- Writing the executing hart as it stands does not show behind a trap. -/
theorem takeTrap_setHart_self (cause : Nat) (tval : Word) (s : State) : takeTrap cause tval (s.setHart s.cur (s.hart s.cur)) = takeTrap cause tval s := by
  change takeTrap cause tval (s.modHart s.cur id) = takeTrap cause tval s
  by_cases hin : inProgram s s.cur = true
  · obtain ⟨r, hprog⟩ := (inProgram_iff s s.cur).mp hin
    have hin' : inProgram (s.modHart s.cur id) s.cur = true := hin
    simp only [takeTrap, modHart_cur, hin, hin', if_true, endProgram, core_modHart, hprog, modHart_modHart, id]
  · have hout : inProgram s s.cur = false := by simpa using hin
    have hout' : inProgram (s.modHart s.cur id) (s.modHart s.cur id).cur = false := hout
    rw [takeTrap_eq hout, takeTrap_eq hout', modHart_cur, modHart_modHart]
    rfl

/-- A ready mask instruction whose function answers a trap and leaves the context as it was takes the trap without an effect. -/
theorem maskExec_trap {s : State} {i : Instr} {f : LongFields} {k : LongSpec} {cycles : VecEntry → Nat}
    {fn : VecEntry → VecCtx → Except (Nat × Word × VecCtx) (VecCtx × Option Word)} {cause : Nat} {tval : Word}
    (h : VecReady s i 1) (hl : i.long? = some (f, k)) (hfn : fn (readyEntry s i f) s.self.vec = .error (cause, tval, s.self.vec)) :
    maskExec i 1 (runMask i f cycles fn) s = .next (takeTrap cause tval s) := by
  obtain ⟨-, -, hidle, -⟩ := id h
  have hheld := heldSource_of_idle hidle i
  have hvec : (s.hart s.cur).vec = s.self.vec := rfl
  have hrun : runMask i f cycles fn (readyEntry s i f) s = .error (.trapWith cause tval (s.setHart s.cur (s.hart s.cur))) := by
    simp only [runMask, readyEntry_hart, hheld, hvec, hfn]
    rfl
  simp only [maskExec, runM, vecIssue_of_ready h hl, bind_of_error hrun, takeTrap_setHart_self]

/-- Settles O28: at the stack's bound the function of VMPUSH, VMELSE or VMPOP answers cause 25 with the context as it was. -/
theorem maskStackBounds : Obligations.MaskStackBounds := by
  intro s f
  refine ⟨?pushFull, ?elseEmpty, ?popEmpty⟩
  case pushFull =>
    intro hfull hready
    exact maskExec_trap hready rfl (if_pos hfull)
  case elseEmpty =>
    intro hempty hready
    exact maskExec_trap hready rfl (if_pos hempty)
  case popEmpty =>
    intro hempty hready
    exact maskExec_trap hready rfl (if_pos hempty)

end Sys2Proof.Machine
end

section
/-! PROOF. The byte offset and the row stride of vector memory instructions (13 R324): the arithmetic of sign-extended fields, how a memory instruction
that is ready goes through its issue checks, and the address at which VSAVE and VRSTR begin. -/

namespace Sys2Proof.Machine

open Sys2Proof.Machine.Laws

/- Sign-extended fields. -/

/-- The signed reading of the low bits of a number is the sign extension of the bit vector that they form. -/
theorem sextW_eq_signExtend {n : Nat} (hle : n ≤ 64) (v : Nat) : sextW n v = (BitVec.ofNat n v).signExtend 64 := by
  have hlt : v % 2 ^ n < 2 ^ n := Nat.mod_lt _ (Nat.two_pow_pos n)
  have hword : 2 ^ n ≤ 2 ^ 64 := Nat.pow_le_pow_right (by decide) hle
  apply BitVec.eq_of_toNat_eq
  rw [BitVec.toNat_signExtend, BitVec.msb_eq_decide, BitVec.toNat_setWidth, BitVec.toNat_ofNat, sextW]
  by_cases hneg : 2 ^ (n - 1) ≤ v % 2 ^ n
  · simp only [if_neg (Nat.not_lt.mpr hneg), decide_eq_true hneg, if_true, BitVec.toNat_ofNat]
    omega
  · simp [Nat.not_le.mp hneg, hneg]

/-- The offset bits of an instruction of form M: imm6 above c. -/
theorem ofNat_imm_c (f : LongFields) : BitVec.ofNat 11 (f.imm.toNat * 32 + f.c.toNat) = (f.imm ++ f.c : BitVec 11) := by
  apply BitVec.eq_of_toNat_eq
  rw [BitVec.toNat_append, ← Nat.shiftLeft_add_eq_or_of_lt f.c.isLt, Nat.shiftLeft_eq, BitVec.toNat_ofNat]
  omega

theorem memOffset_false (f : LongFields) : memOffset f false = (f.imm ++ f.c : BitVec 11).signExtend 64 * 16 := by
  simp [memOffset, sextW_eq_signExtend, ofNat_imm_c]

theorem memOffset_true (f : LongFields) : memOffset f true = f.imm.signExtend 64 * 512 := by
  simp [memOffset, sextW_eq_signExtend]

/-- A short offset times a scale does not leave the signed range of a word. -/
theorem toInt_signExtend_mul {n k : Nat} (hn : n ≤ 11) (hk : k ≤ 512) (x : BitVec n) :
    (x.signExtend 64 * BitVec.ofNat 64 k).toInt = x.toInt * k := by
  have hpow : 2 ^ n ≤ 2 ^ 11 := Nat.pow_le_pow_right (by decide) hn
  have hpow : (2 : Int) ^ n ≤ 2 ^ 11 := by exact_mod_cast hpow
  have hlow : -1024 ≤ x.toInt := by
    have := BitVec.le_two_mul_toInt (x := x)
    omega
  have hhigh : x.toInt ≤ 1024 := by
    have := BitVec.two_mul_toInt_lt (x := x)
    omega
  have hlowMul : -1024 * (k : Int) ≤ x.toInt * k := Int.mul_le_mul_of_nonneg_right hlow (Int.natCast_nonneg k)
  have hhighMul : x.toInt * k ≤ 1024 * (k : Int) := Int.mul_le_mul_of_nonneg_right hhigh (Int.natCast_nonneg k)
  have hscale : (BitVec.ofNat 64 k).toInt = k := by
    rw [BitVec.toInt_eq_toNat_of_lt] <;> simp only [BitVec.toNat_ofNat] <;> omega
  rw [BitVec.toInt_mul, BitVec.toInt_signExtend_of_le (by omega), hscale]
  apply Int.bmod_eq_of_le_mul_two <;> omega

/-- The row stride takes the low 48 bits of a word. -/
theorem sextW_wfld_48 (v : Word) : sextW 48 (wfld v 47 0) = (v.truncate 48 : BitVec 48).signExtend 64 := by
  rw [sextW_eq_signExtend (by decide)]
  congr 1
  apply BitVec.eq_of_toNat_eq
  simp [wfld, fld]

/- The issue of a memory instruction that is ready (13 R332; 08 R195; 16 R394–R396). -/

theorem requireM_of_true {ok : Bool} (h : ok = true) (i : Instr) (s : State) : requireM ok i s = .ok ((), s) := by
  rw [h]
  rfl

/-- No lane instruction still writes what an instruction on an idle vector unit reads. -/
theorem memStartAt_of_idle {s : State} (h : LanesIdle s) (i : Instr) : memStartAt s s.cur i = s.now := by
  obtain ⟨-, hlanes, hregs, -, -, -⟩ := h
  have noneWritten : (sourceRegs i).filterMap (regTimes s s.cur) = [] := by
    rw [List.filterMap_eq_nil_iff]
    exact fun r _ => hregs r
  simp only [memStartAt, noneWritten, List.foldl_nil, Nat.max_eq_left hlanes]

theorem memTurnM_of_idle {s : State} (h : LanesIdle s) (i : Instr) (f : LongFields) (x : XArgs) : memTurnM i f x s = .ok ((), s) := by
  have hvq : (s.core (unitOf s.cur)).vq = [] := h.1
  simp only [memTurnM, hvq, memStartAt_of_idle h i, Nat.le_refl, and_self, if_true, parityM_of_idle h]

theorem heldSourceM_of_idle {s : State} (h : LanesIdle s) (i : Instr) : heldSourceM i s = .ok ((), s) := by
  simp only [heldSourceM, heldSource_of_idle h i]

/-- Where nothing of the core is posted, a w field waits for nothing and sends nothing. -/
theorem waitField_of_posted_nil {s : State} (h : (s.core (unitOf s.cur)).posted = []) (w : Nat) : waitField w s = .ok ((), s) := by
  have hsend : sendOwn s.cur s = s := by simp [sendOwn, sendWhere, h]
  have hzero (mask : BitVec 4) : countsZero s s.cur mask = true := by simp [countsZero, h]
  unfold waitField
  split
  · rfl
  · refine (bind_of_ok (t := s) (a := ()) ?_ _).trans ?_
    · simp only [modS, hsend]
    · simp only [waitClasses, hzero, if_true]

theorem waitRehoming_of_none {s : State} (h : (s.part (partOfHart s s.cur)).rehoming = none) (vmt : Nat) :
    waitRehoming vmt s = .ok ((), s) := by
  have hsome : (s.part (partOfHart s s.cur)).rehoming.isSome = false := by rw [h]; rfl
  simp only [waitRehoming, askS_bind, hsome, Bool.false_eq_true, and_false, if_false]
  rfl

/-- A memory instruction reads its scalar registers, where its index group, if it has one, is there, too. -/
theorem memOperands_ok {s : State} {i : Instr} {f : LongFields} {indexed : Bool} (hops : OperandsThere s i)
    (hgroup : indexed = true → groupEmpty s f.b.toNat = none) : memOperands i f indexed s = .ok (s.args i, s) := by
  have hnone : (if indexed = true then groupEmpty s f.b.toNat else none) = none := by
    split
    next h => exact hgroup h
    next => rfl
  have hearly (c : Prop) [Decidable c] (h : c → indexed = true) : (if c then groupEmpty s f.b.toNat else none) = none := by
    split
    next hc => exact hgroup (h hc)
    next => rfl
  unfold memOperands
  rw [askS_bind, hearly _ fun h => h.2.1]
  refine (bind_of_ok (operandsM_ok hops) _).trans ?_
  rw [askS_bind, hnone]
  rfl

/-- The layout code by which a memory instruction goes: bits 63 to 48 of x[b], and elements for an indexed one (16 R394). -/
def State.layoutCode (s : State) (i : Instr) (kind : MemKind) : Nat := if kind.indexed then 0 else wfld (s.args i).b 63 48

theorem layoutCode_eq_one_iff (s : State) (i : Instr) (kind : MemKind) :
    s.layoutCode i kind = 1 ↔ kind.indexed = false ∧ wfld (s.args i).b 63 48 = 1 := by
  unfold State.layoutCode
  cases kind.indexed <;> simp

theorem layoutCode_of_legal {s : State} {i : Instr} {kind : MemKind} {f : LongFields} (h : LayoutLegal s i kind f) :
    s.layoutCode i kind = 0 ∨ s.layoutCode i kind = 0xFFFF ∨
      (s.layoutCode i kind = 1 ∧ f.ty = 0 ∧ kind ≠ .acc ∧ (kind = .store → s.self.vec.vlc % 4 = 0)) := by
  unfold State.layoutCode
  cases hix : kind.indexed with
  | true => exact .inl rfl
  | false => exact h.resolve_left (by simp [hix])

/-- The check that a layout is assigned passes. -/
theorem layoutCode_accepted {s : State} {i : Instr} {kind : MemKind} {f : LongFields} (h : LayoutLegal s i kind f) :
    (s.layoutCode i kind = 0 || s.layoutCode i kind = 0xFFFF || (s.layoutCode i kind = 1 && f.ty = 0 && kind ≠ .acc)) = true := by
  obtain helements | hdense | ⟨hpacked, hty, hacc, -⟩ := layoutCode_of_legal h
  · simp [helements]
  · simp [hdense]
  · simp [hpacked, hty, hacc]

/-- The check that a packed store has whole groups of four columns passes. -/
theorem packedStore_accepted {s : State} {i : Instr} {kind : MemKind} {f : LongFields} (h : LayoutLegal s i kind f) :
    (!(decide (s.layoutCode i kind = 1) && kind = .store && s.self.vec.vlc % 4 ≠ 0)) = true := by
  obtain helements | hdense | ⟨-, -, -, hcols⟩ := layoutCode_of_legal h
  · simp [helements]
  · simp [hdense]
  · by_cases hstore : kind = .store
    · simp [hcols hstore]
    · simp [hstore]

/-- A ready memory instruction passes its checks with the elements, the base, the stride and the layout of its fields. -/
theorem memIssue_of_ready {s : State} {i : Instr} {kind : MemKind} {f : LongFields} (h : MemReady s i kind f) :
    memIssue i kind f s = .ok ((s.memIn i kind f, s.args i), s) := by
  obtain ⟨hvector, hwf, hrows, hgroup, hops, hidle, hlayout, hspace, hposted, -, -, -, -, hrehoming, -, -, -⟩ := h
  unfold memIssue
  rw [askS_bind]
  refine (bind_of_ok (requireM_of_true ?form i s) _).trans ?checked
  case form =>
    have hrows' : (s.self.resuming || rowsFit s.self.vec.vlr (fmtBytes f.ty.toNat)) = true := by
      cases hr : s.self.resuming with
      | false => exact hrows hr
      | true => rfl
    have hgroup' : (!kind.indexed || groupLegal s.self f.b.toNat) = true := by
      cases hix : kind.indexed with
      | false => rfl
      | true => exact (hgroup hix).1
    rw [hvector, hwf, hrows', hgroup']
    rfl
  case checked =>
    refine (bind_of_ok (memOperands_ok hops fun hix => (hgroup hix).2) _).trans ?_
    refine (bind_of_ok (waitField_of_posted_nil hposted _) _).trans ?_
    refine (bind_of_ok (memTurnM_of_idle hidle i f _) _).trans ?_
    refine (bind_of_ok (heldSourceM_of_idle hidle i) _).trans ?_
    refine (bind_of_ok (rfl : me s = .ok (s.self, s)) _).trans ?_
    rw [askS_bind]
    refine (bind_of_ok (waitRehoming_of_none hrehoming _) _).trans ?_
    refine (bind_of_ok (requireM_of_true ?space i s) _).trans <| (bind_of_ok (requireM_of_true ?layout i s) _).trans <|
      (bind_of_ok (requireM_of_true ?packed i s) _).trans ?_
    case space => simp [hspace]
    case layout => exact layoutCode_accepted hlayout
    case packed => exact packedStore_accepted hlayout
    simp only [askS_bind, State.memIn, ← layoutCode_eq_one_iff]
    rfl

/- The rows of the memory group in the opcode map (13 R325). -/

/-- Each instruction of the group names its base by a, its row stride by b unless it is indexed, and a store its progress word by c. -/
theorem long?_of_mem_memTable {e : (LongFields → Instr) × MemKind} (he : e ∈ memTable) (f : LongFields) :
    ∃ k, (e.1 f).long? = some (f, k) ∧ k.a = .x ∧ (e.2.indexed = false → k.b = .x) ∧ (e.2 = .store → k.progress = true) := by
  simp only [memTable, List.mem_cons, List.not_mem_nil, or_false] at he
  rcases he with rfl | rfl | rfl | rfl | rfl | rfl | rfl | rfl <;> exact ⟨_, rfl, rfl, by decide, by decide⟩

section
variable {s : State} {i : Instr} {f : LongFields} {k : LongSpec}

theorem args_a (hl : i.long? = some (f, k)) (ha : k.a = .x) : (s.args i).a = s.xval f.a := by simp only [State.args, hl, ha, if_true]

theorem args_b (hl : i.long? = some (f, k)) (hb : k.b = .x) : (s.args i).b = s.xval f.b := by simp only [State.args, hl, hb, if_true]

theorem args_c_of_progress (hl : i.long? = some (f, k)) (hp : k.progress = true) (hnt : f.nt = true) : (s.args i).c = s.xval f.c := by
  simp only [State.args, hl, hp, hnt, and_self, or_true, if_true]

end

/- What a meaning that answers has done. -/

/-- Two meanings in a row answer only where the first answers and the second does after it. -/
theorem eq_ok_of_bind {α β : Type} {m : M α} {g : α → M β} {s t : State} {b : β} (h : (m >>= g) s = .ok (b, t)) :
    ∃ a u, m s = .ok (a, u) ∧ g a u = .ok (b, t) := by
  cases hm : m s with
  | error e => rw [bind_of_error hm] at h; cases h
  | ok p =>
    obtain ⟨a, u⟩ := p
    exact ⟨a, u, rfl, (bind_of_ok hm g).symm.trans h⟩

/-- Whatever a meaning answers has a property. -/
def Answers {α : Type} (P : α → Prop) (m : M α) : Prop := ∀ s a t, m s = .ok (a, t) → P a

theorem Answers.apply {α : Type} {P : α → Prop} {m : M α} (hm : Answers P m) {s t : State} {a : α} (h : m s = .ok (a, t)) : P a := hm s a t h

theorem Answers.bind {α β : Type} {P : β → Prop} {m : M α} {g : α → M β} (h : ∀ a, Answers P (g a)) : Answers P (m >>= g) := by
  intro s b t hb
  obtain ⟨a, u, -, hg⟩ := eq_ok_of_bind hb
  exact h a u b t hg

theorem Answers.pure {α : Type} {P : α → Prop} {a : α} (h : P a) : Answers P (Pure.pure a : M α) := by
  intro s b t hb
  cases hb
  exact h

/-- A meaning that always stops answers nothing. -/
theorem Answers.stop {α : Type} {P : α → Prop} {m : M α} {e : State → Stop} (h : ∀ s, m s = .error (e s)) : Answers P m := by
  intro s a t ha
  rw [h s] at ha
  cases ha

theorem state_of_requireM {ok : Bool} {i : Instr} {s t : State} {u : Unit} (h : requireM ok i s = .ok (u, t)) : t = s := by
  cases ok <;> cases h
  rfl

theorem state_of_tTraps {i : Instr} {s t : State} {u : Unit} (h : tTraps i s = .ok (u, t)) : t = s := by
  unfold tTraps at h
  split at h
  next => cases h; rfl
  next =>
    extract_lets at h
    split at h <;> cases h
    rfl

/-- A scalar register that is read answers its contents. -/
theorem value_of_readX {r : Reg} {s t : State} {v : Word} (h : readX r.toNat s = .ok (v, t)) : v = s.xval r := by
  unfold readX at h
  extract_lets g at h
  split at h
  next => cases h
  next =>
    split at h <;> cases h
    rfl

theorem value_of_readXT {r : Reg} {tbit : Bool} {field : Nat} {s t : State} {v : Word} (h : readXT r tbit field s = .ok (v, t)) :
    v = s.xval r := by
  unfold readXT at h
  split at h
  next => cases h
  next => exact value_of_readX h

/-- The operand checks of a long instruction answer the contents of its X register a. -/
theorem a_of_operandsM {i : Instr} {f : LongFields} {k : LongSpec} (hl : i.long? = some (f, k)) (ha : k.a = .x) {s t : State} {x : XArgs}
    (h : operandsM i s = .ok (x, t)) : x.a = s.xval f.a := by
  unfold operandsM at h
  cases hmisuse : queueMisuse i with
  | some c => rw [hmisuse] at h; cases h
  | none =>
    simp only [hmisuse, hl, ha] at h
    obtain ⟨⟨⟩, s₁, htraps, hread⟩ := eq_ok_of_bind h
    obtain rfl := state_of_tTraps htraps
    obtain ⟨a, s₂, ha, hrest⟩ := eq_ok_of_bind hread
    obtain rfl := value_of_readXT ha
    refine Answers.apply (P := fun y => y.a = s₁.xval f.a) ?_ hrest
    exact .bind fun _ => .bind fun _ => .bind fun _ => .bind fun _ => .pure rfl

/-- VSAVE and VRSTR begin at the base in a with the offset of form M. -/
theorem addr_of_wholeReg {i : Instr} {f : LongFields} {k : LongSpec} {acc : Acc} (hl : i.long? = some (f, k)) (ha : k.a = .x) {s t : State}
    {a : MemAcc} {l : List Spot} (h : wholeReg i f acc s = .ok ((a, l), t)) : a.addr = (s.xval f.a + memOffset f false).toNat := by
  unfold wholeReg at h
  rw [askS_bind] at h
  obtain ⟨⟨⟩, s₁, hlegal, hissue⟩ := eq_ok_of_bind h
  obtain ⟨x, s₂, hops, hrest⟩ := eq_ok_of_bind hissue
  rw [← state_of_requireM hlegal, ← a_of_operandsM hl ha hops]
  refine Answers.apply (P := fun p => p.1.addr = (x.a + memOffset f false).toNat) ?_ hrest
  refine .bind fun _ => .bind fun _ => .bind fun _ => .bind fun vmt => .bind fun _ => ?_
  split
  next => exact .stop fun _ => rfl
  next =>
    split
    next => exact .stop fun _ => rfl
    next =>
      refine .bind fun _ => .bind fun places => ?_
      split
      next => exact .stop fun _ => rfl
      next =>
        refine .bind fun held => ?_
        split
        next => exact .stop fun _ => rfl
        next => exact .pure rfl

/-- Settles O31: the offset is an 11-bit or 6-bit number scaled within the signed range, a ready instruction issues with the base and the stride of
its scalar sources, and VSAVE and VRSTR compute their address from the same offset before any check of a byte. -/
theorem memoryOffsetsAndStride : Obligations.MemoryOffsetsAndStride := by
  refine ⟨?offsets, ?issue, ?whole⟩
  case offsets =>
    intro f
    have hwide : (memOffset f false).toInt = (f.imm ++ f.c : BitVec 11).toInt * 16 :=
      memOffset_false f ▸ toInt_signExtend_mul (k := 16) (by decide) (by decide) _
    have hnarrow : (memOffset f true).toInt = f.imm.toInt * 512 :=
      memOffset_true f ▸ toInt_signExtend_mul (k := 512) (by decide) (by decide) _
    have := BitVec.le_toInt (f.imm ++ f.c : BitVec 11)
    have := BitVec.toInt_lt (x := (f.imm ++ f.c : BitVec 11))
    have := BitVec.le_toInt f.imm
    have := BitVec.toInt_lt (x := f.imm)
    refine ⟨memOffset_false f, memOffset_true f, ?_, ?_, ?_, ?_⟩ <;> omega
  case issue =>
    intro e he s f hready
    obtain ⟨k, hl, ha, hb, hprogress⟩ := long?_of_mem_memTable he f
    refine ⟨_, _, memIssue_of_ready hready, rfl, ?base, ?stride, ?progress⟩
    case base => exact congrArg (· + _) (args_a hl ha)
    case stride => exact fun hstrided => (congrArg (fun v => sextW 48 (wfld v 47 0)) (args_b hl (hb hstrided))).trans (sextW_wfld_48 _)
    case progress => exact fun hstore hnt => args_c_of_progress hl (hprogress hstore) hnt
  case whole =>
    intro s s' f a l
    exact ⟨addr_of_wholeReg rfl rfl, addr_of_wholeReg rfl rfl⟩

end Sys2Proof.Machine
end

section
/-! PROOF. TSELF (14 R357): the word that it writes, the places of its fields, and what they hold for a vector core and for a control core. -/

namespace Sys2Proof.Machine

open Sys2Proof.Machine.Laws

/- The word that TSELF writes. -/

/-- The cluster whose index a hart is told; 0 where the hart's unit is of no cluster. -/
def selfCluster (h : Nat) : Nat := (clusterOfUnit (unitOf h)).getD 0

/-- The thread index that the executing hart is told. -/
def selfThread (s : State) : Nat := if isVector s.cur ∧ ctxOf s.cur ≠ 0 then s.self.thread.index.toNat else 0

/-- The word that TSELF writes. -/
def selfWord (s : State) : Word :=
  BitVec.ofNat 64 ((tagOf s.cur).toNat + dieOfUnit (unitOf s.cur) * 2 ^ 16 + clusterIndex s (selfCluster s.cur) * 2 ^ 19 + selfThread s * 2 ^ 32)

/-- A hart that has messages writes selfWord and retires. -/
theorem exec_tself {s : State} {rd : Reg} (hmsg : hasMessages s.cur = true) (hrd : Writable s rd) :
    exec (.tself rd) s = .next ((s.wrote rd (selfWord s)).retired 4) := by
  change execTself rd s = _
  simp only [execTself, runM, askS_bind, bind_of_ok (requireM_of_true hmsg _ s), bind_of_ok (destX_ok hrd)]
  rfl

/-- Fields that keep to their widths do not reach into one another, and bits 31:28 stay 0. -/
theorem fields_of_packed {tag die cluster thread : Nat} (ht : tag < 2 ^ 16) (hd : die < 2 ^ 3) (hc : cluster < 2 ^ 9) (hi : thread < 2 ^ 32) :
    let v : Word := BitVec.ofNat 64 (tag + die * 2 ^ 16 + cluster * 2 ^ 19 + thread * 2 ^ 32)
    v.toNat % 2 ^ 16 = tag ∧ v.toNat / 2 ^ 16 % 2 ^ 3 = die ∧ v.toNat / 2 ^ 19 % 2 ^ 9 = cluster ∧ v.toNat / 2 ^ 28 % 2 ^ 4 = 0 ∧
      v.toNat / 2 ^ 32 = thread := by
  intro v
  have hv : v.toNat = tag + die * 2 ^ 16 + cluster * 2 ^ 19 + thread * 2 ^ 32 := by
    rw [BitVec.toNat_ofNat]
    omega
  omega

/- The partition-relative index of a cluster (07 R159). -/

theorem countBits_le_of_lt {v c : Nat} (hv : v < 2 ^ c) (n : Nat) : countBits v n ≤ c := by
  induction n generalizing v c with
  | zero => exact Nat.zero_le c
  | succ n ih =>
    rw [countBits]
    cases c with
    | zero =>
      obtain rfl : v = 0 := by omega
      exact Nat.le_of_eq (by simpa using ih (v := 0) (c := 0) hv)
    | succ c =>
      have hhalf := ih (v := v / 2) (c := c) (by omega)
      omega

/-- No more clusters of a partition stand below a cluster than the package has there. -/
theorem clusterIndex_le (s : State) (c : Nat) : clusterIndex s c ≤ c := countBits_le_of_lt (Nat.mod_lt _ (Nat.two_pow_pos c)) 512

/- A thread index is of 32 bits, and 0 where the hart holds no thread of a vector core. -/

theorem selfThread_lt (s : State) : selfThread s < 2 ^ 32 := by
  unfold selfThread
  split
  · exact s.self.thread.index.isLt
  · exact Nat.two_pow_pos 32

/- The fields of a hart of a vector core. -/

theorem isVector_iff (h : Nat) : isVector h = true ↔ h < 0x10000 := decide_eq_true_iff

section
variable {h : Nat} (hv : isVector h = true)
include hv

theorem unitOf_of_vector : unitOf h = h / 16 := if_pos ((isVector_iff h).mp hv)

theorem ctxOf_of_vector : ctxOf h = h % 16 := if_pos ((isVector_iff h).mp hv)

theorem clusterOfUnit_of_vector : clusterOfUnit (unitOf h) = some (h / 128) := by
  have hlt := (isVector_iff h).mp hv
  rw [unitOf_of_vector hv, clusterOfUnit, if_pos (by omega), Nat.div_div_eq_div_mul]

/-- The tag of a vector core's hart is the hart's number on its die (14 R352, KIND 000). -/
theorem tagOf_of_vector : (tagOf h).toNat = h % 2 ^ 13 := by
  rw [tagOf, if_pos hv, ctxOf_of_vector hv, unitOf_of_vector hv, BitVec.toNat_ofNat]
  omega

end

/- The fields of a hart of a control core. -/

theorem isControl_iff (h : Nat) : isControl h = true ↔ 0x10000 ≤ h ∧ h < 0x20000 := by simp [isControl]

section
variable {h : Nat} (hc : isControl h = true)
include hc

theorem isVector_of_control : isVector h = false := decide_eq_false (Nat.not_lt.mpr ((isControl_iff h).mp hc).1)

theorem unitOf_of_control : unitOf h = 4096 + (h - 0x10000) / 2 := by
  obtain ⟨hlow, hhigh⟩ := (isControl_iff h).mp hc
  rw [unitOf, if_neg (Nat.not_lt.mpr hlow), if_pos hhigh]

theorem ctxOf_of_control : ctxOf h = h % 2 := by
  obtain ⟨hlow, hhigh⟩ := (isControl_iff h).mp hc
  rw [ctxOf, if_neg (Nat.not_lt.mpr hlow), if_pos hhigh]

/-- The package has 512 control cores, one of each cluster. -/
theorem clusterOfUnit_of_control (hlt : h < 0x10400) : clusterOfUnit (unitOf h) = some ((h - 0x10000) / 2) := by
  rw [unitOf_of_control hc, clusterOfUnit, if_neg (by omega), if_pos (by omega), Nat.add_sub_cancel_left]

/-- The tag of a control core's hart holds its context, its cluster on the die and KIND 001 (14 R352). -/
theorem tagOf_of_control : (tagOf h).toNat = h % 2 + (h - 0x10000) / 2 % 64 * 2 ^ 4 + 2 ^ 13 := by
  have hnv : ¬ isVector h = true := by simp [isVector_of_control hc]
  rw [tagOf, if_neg hnv, ctxOf_of_control hc, BitVec.toNat_ofNat]
  omega

end

/- The fields of the word that TSELF writes. -/

/-- On a unit of a cluster of the package the word holds the tag, the cluster's die and index, and the thread. -/
theorem fields_of_selfWord {s : State} {c : Nat} (hunit : clusterOfUnit (unitOf s.cur) = some c) (hc : c < 512) :
    (selfWord s).toNat % 2 ^ 16 = (tagOf s.cur).toNat ∧ (selfWord s).toNat / 2 ^ 16 % 2 ^ 3 = c / 64 ∧
      (selfWord s).toNat / 2 ^ 19 % 2 ^ 9 = clusterIndex s c ∧ (selfWord s).toNat / 2 ^ 28 % 2 ^ 4 = 0 ∧
      (selfWord s).toNat / 2 ^ 32 = selfThread s := by
  have hdie : dieOfUnit (unitOf s.cur) = c / 64 := by simp only [dieOfUnit, hunit]
  have hcluster : selfCluster s.cur = c := by simp only [selfCluster, hunit, Option.getD_some]
  rw [selfWord, hdie, hcluster]
  exact fields_of_packed (tagOf s.cur).isLt (by omega) (Nat.lt_of_le_of_lt (clusterIndex_le s c) hc) (selfThread_lt s)

theorem selfThread_of_vector {s : State} (hv : isVector s.cur = true) :
    selfThread s = if s.cur % 16 = 0 then 0 else s.self.thread.index.toNat := by
  simp only [selfThread, hv, ctxOf_of_vector hv, true_and, ne_eq, ite_not]

theorem selfThread_of_control {s : State} (hc : isControl s.cur = true) : selfThread s = 0 := by
  simp [selfThread, isVector_of_control hc]

/-- Settles O17: TSELF writes selfWord, whose fields are those of the cluster, the tag and the thread of the hart. -/
theorem threadSelf : Obligations.ThreadSelf := by
  intro s rd hmsg hrd
  refine ⟨selfWord s, exec_tself hmsg hrd, ?vector, ?control, ?controlHigh, ?vectorHigh⟩
  case vector =>
    intro hv
    have hlt := (isVector_iff s.cur).mp hv
    obtain ⟨htag, hdie, hindex, -, -⟩ := fields_of_selfWord (clusterOfUnit_of_vector hv) (by omega)
    rw [tagOf_of_vector hv] at htag
    exact ⟨by omega, by omega, by omega, by omega, hindex⟩
  case control =>
    intro hc hlt
    obtain ⟨htag, hdie, hindex, -, -⟩ := fields_of_selfWord (clusterOfUnit_of_control hc hlt) (by omega)
    rw [tagOf_of_control hc] at htag
    exact ⟨by omega, by omega, by omega, by omega, hindex⟩
  case controlHigh =>
    intro hc hlt
    obtain ⟨-, -, -, hzero, hthread⟩ := fields_of_selfWord (clusterOfUnit_of_control hc hlt) (by omega)
    rw [selfThread_of_control hc] at hthread
    omega
  case vectorHigh =>
    intro hv
    have hlt := (isVector_iff s.cur).mp hv
    obtain ⟨-, -, -, hzero, hthread⟩ := fields_of_selfWord (clusterOfUnit_of_vector hv) (by omega)
    exact ⟨hzero, hthread.trans (selfThread_of_vector hv)⟩

end Sys2Proof.Machine
end
